-- ==== Sys2Proof/Word.lean ====
section
/-! DEFINITION. The words of the CW316: bytes, addresses, lines, byte masks, blocks and region indices
(spec/00_scope.md, Conventions; R1, R20, R128). -/

namespace Sys2Proof

/-- One byte. -/
abbrev Byte := BitVec 8

/-- A 40-bit physical byte address (spec/00_scope.md, Conventions, Addresses). -/
abbrev Addr := BitVec 40

/-- The 64 bytes of one line; byte `i` of the line is bits `8*i .. 8*i+7` (little-endian, R175). -/
abbrev Line := BitVec 512

/-- A byte mask: bit `i` stands for byte `i` of the line (R175). -/
abbrev ByteMask := BitVec 64

/-- The 4096 bytes of one block; line `k` of the block is bits `512*k .. 512*k+511`. -/
abbrev BlockData := BitVec 32768

/-- A Region Table entry number, 0 to 31 (R1). -/
abbrev RegionIx := Fin 32

end Sys2Proof
end

