-- ==== Sys2Proof/Syntax.lean ====
section
/-! DEFINITION. The commands that the outside sends the block: one constructor of `Instr` for each row of
spec/opcode_table.json, with the data that the arrival brings. What the part itself already holds when a step comes
about (the command line at the head of the command queue, a pending loss claim, a running timer) is no operand: it
stands in State. -/

namespace Sys2Proof

/-- The status of a response (R128). -/
inductive Status where
  | ok
  | error
deriving DecidableEq, Repr

/-- A request that a master presents at the system port (R128). A READ's length is not bounded here: a malformed
READ is answered by the part. -/
inductive SysRequest where
  | read (tag : BitVec 16) (addr : Addr) (len : Nat)
  | write (tag : BitVec 16) (addr : Addr) (mask : ByteMask) (data : Line)
deriving DecidableEq, Repr

/-- What every answer of the memory controller brings (R128, R136): the internal tag, which the part does not use
to match it, and its status. `preReset` says that the request it answers was issued before the last reset; such an
answer is discarded (R174). -/
structure MemAnswer where
  tag : BitVec 5
  status : Status
  preReset : Bool
deriving DecidableEq, Repr

/-- The nine frame kinds of the mirror link (section 3.1). -/
inductive FrameKind where
  | join | accept | part | write | block | note | ack | retry | reject
deriving DecidableEq, Repr

/-- The commands of the block: the rows of spec/opcode_table.json, in the table's order. Each inbound frame carries
its bytes as the transceiver delivered them; for the nine known kinds byte 0, the kind, is fixed by the
constructor and `rest` holds the bytes from byte 1 on. -/
inductive Instr where
  /-- POWER_ON (R174). -/
  | powerOn
  /-- RESET_ASSERT (R174). -/
  | resetAssert
  /-- PROM_IMAGE_READ (R171): the 64 bytes of the image. -/
  | promImageRead (image : Line)
  /-- LOAD_TIMER_EXPIRY (R170). -/
  | loadTimerExpiry
  /-- CARRIER_UP (R53). -/
  | carrierUp
  /-- CARRIER_DOWN (R53). -/
  | carrierDown
  /-- UNKNOWN_FRAME (R42): every byte of the frame, byte 0 among them. -/
  | unknownFrame (frame : List Byte)
  /-- JOIN (R47, R49). -/
  | join (rest : List Byte)
  /-- ACCEPT (R48, R49). -/
  | accept (rest : List Byte)
  /-- PART (R52). -/
  | part (rest : List Byte)
  /-- WRITE_FRAME (R75). -/
  | writeFrame (rest : List Byte)
  /-- BLOCK_FRAME (R75). -/
  | blockFrame (rest : List Byte)
  /-- NOTE_FRAME (R75). -/
  | noteFrame (rest : List Byte)
  /-- ACK (R65). -/
  | ack (rest : List Byte)
  /-- RETRY (R67). -/
  | retry (rest : List Byte)
  /-- REJECT (R125). -/
  | reject (rest : List Byte)
  /-- LOSS_CLAIM (R54): the Session Controller takes the claim that the Link Transmitter has made. -/
  | lossClaim
  /-- TRANSMIT_ARBITER_CHOICE (R60): the transceiver is ready for a frame. -/
  | transmitArbiterChoice
  /-- JOIN_TIMER_EXPIRY (R46). -/
  | joinTimerExpiry
  /-- REPLAY_TIMER_EXPIRY (R69). -/
  | replayTimerExpiry
  /-- ACK_DELAY_TIMER_EXPIRY (R78). -/
  | ackDelayTimerExpiry
  /-- HOLD_LIMIT_EXPIRY (R133). -/
  | holdLimitExpiry
  /-- QUIET_TIMER_EXPIRY (R123) of one target entry. -/
  | quietTimerExpiry (entry : RegionIx)
  /-- ATTN_DELAY_EXPIRY (R163). -/
  | attnDelayExpiry
  /-- SYSTEM_PORT_REQUEST (R130): a master presents a request. -/
  | systemPortRequest (req : SysRequest)
  /-- MEMORY_PORT_ARBITER (R138): the memory port is ready; one choice of the arbiter. -/
  | memoryPortArbiter
  /-- PASS_THROUGH_RESPONSE (R135): the bytes read for a READ, none for a WRITE. -/
  | passThroughResponse (answer : MemAnswer) (data : List Byte)
  /-- APPLY_WRITE_RESPONSE (R116). -/
  | applyWriteResponse (answer : MemAnswer)
  /-- RESYNC_READ_RESPONSE (R86): the line read. -/
  | resyncReadResponse (answer : MemAnswer) (data : Line)
  /-- WRITER_RESPONSE (R160). -/
  | writerResponse (answer : MemAnswer)
  /-- WRITE_OUT_DONE (R154). -/
  | writeOutDone
  /-- RESYNC_TURN (R83). -/
  | resyncTurn
  /-- BLOCK_START (R85). -/
  | blockStart
  /-- DEFERRED_RETRY (R76). -/
  | deferredRetry
  /-- DRAIN_TEST_PASSED (R51). -/
  | drainTestPassed
  /-- DRAINED (R12) for one entry. -/
  | drained (entry : RegionIx)
  /-- RELEASED (R14) for one entry. -/
  | released (entry : RegionIx)
  /-- FENCE_DURABLE (R102). -/
  | fenceDurable
  /-- RESTARTED (R168). -/
  | restarted
  /-- NONE (R144): the Command Unit takes a line with code 0. -/
  | noneCommand
  /-- BAD_COMMAND (R144): the Command Unit takes a line whose code names no command. -/
  | badCommand
  /-- CONNECT (R45). -/
  | connect
  /-- DISCONNECT (R50). -/
  | disconnect
  /-- OPEN_SOURCE (R4). -/
  | openSource
  /-- OPEN_TARGET (R5). -/
  | openTarget
  /-- CLOSE (R147). -/
  | close
  /-- FENCE (R99). -/
  | fence
  /-- SEND_NOTE (R34). -/
  | sendNote
  /-- SET_PARAMETER (R150). -/
  | setParameter
  /-- SET_EVENT_RING (R151). -/
  | setEventRing
  /-- RELEASE_EVENTS (R161). -/
  | releaseEvents
  /-- DUMP_STATS (R153). -/
  | dumpStats
  /-- SNAPSHOT (R153). -/
  | snapshot
  /-- RESTART (R155). -/
  | restart
deriving DecidableEq, Repr

end Sys2Proof
end

