-- ==== Sys2Proof/Machine/Bytes.lean ====
section
/-! DEFINITION. Byte order, bit fields, byte masks, the two cyclic redundancy checks and the modular orders
(R22, R41, R63, R171, R175). -/

namespace Sys2Proof.Machine

/-- The value of bytes in little-endian order (R175). -/
def leNat : List Byte → Nat
  | [] => 0
  | b :: bs => b.toNat + 256 * leNat bs

/-- The `n` little-endian bytes of a value (R175). -/
def leBytes : Nat → Nat → List Byte
  | 0, _ => []
  | n + 1, v => BitVec.ofNat 8 v :: leBytes n (v / 256)

/-- The little-endian field of `n` bytes at byte offset `off`. -/
def fieldAt (bs : List Byte) (off n : Nat) : Nat := leNat ((bs.drop off).take n)

def byteAt (bs : List Byte) (off : Nat) : Byte := BitVec.ofNat 8 (fieldAt bs off 1)
def u16At (bs : List Byte) (off : Nat) : BitVec 16 := BitVec.ofNat 16 (fieldAt bs off 2)
def u32At (bs : List Byte) (off : Nat) : BitVec 32 := BitVec.ofNat 32 (fieldAt bs off 4)

/-- The 64 bytes of a line in ascending order. -/
def lineBytes (l : Line) : List Byte := leBytes 64 l.toNat

/-- The line that starts at byte offset `off` of a list of bytes; bytes past its end are 0. -/
def lineAt (bs : List Byte) (off : Nat) : Line := BitVec.ofNat 512 (fieldAt bs off 64)

/-- A mask that covers every byte of the line. -/
def fullMask : ByteMask := BitVec.allOnes 64

/-- The line with all ones in the bytes under the mask. -/
def maskBits (m : ByteMask) : Line :=
  (List.range 64).foldl (fun acc i => if m.getLsbD i then acc ||| (0xFF#512 <<< (8 * i)) else acc) 0#512

/-- The data under the mask, and 0 in every byte outside it (R20). -/
def underMask (d : Line) (m : ByteMask) : Line := d &&& maskBits m

/-- Each byte under the mask replaces the old byte; the other bytes are kept (R26). -/
def mergeLine (old new : Line) (m : ByteMask) : Line := (new &&& maskBits m) ||| (old &&& ~~~ maskBits m)

/-- Line `k` of a block. -/
def blockLine (d : BlockData) (k : Nat) : Line := d.extractLsb' (512 * k) 512

/-- A block with line `k` replaced (R86). -/
def setBlockLine (d : BlockData) (k : Nat) (l : Line) : BlockData :=
  (d &&& ~~~ ((BitVec.allOnes 512).setWidth 32768 <<< (512 * k))) ||| (l.setWidth 32768 <<< (512 * k))

/-- One bit of the reflected CRC-32 (R41). -/
def crc32Bit (c : BitVec 32) : BitVec 32 :=
  if c.getLsbD 0 then (c >>> 1) ^^^ 0xEDB88320#32 else c >>> 1

/-- One byte of the reflected CRC-32. -/
def crc32Byte (c : BitVec 32) (b : Byte) : BitVec 32 :=
  (List.range 8).foldl (fun c _ => crc32Bit c) (c ^^^ b.setWidth 32)

/-- The common 32-bit CRC: polynomial 0x04C11DB7, initial value all ones, reflected input and output, final
inversion (R41). -/
def crc32 (bs : List Byte) : BitVec 32 := ~~~ (bs.foldl crc32Byte 0xFFFFFFFF#32)

/-- One bit of the CRC-16, most significant bit first (R171). -/
def crc16Bit (c : BitVec 16) : BitVec 16 :=
  if c.getLsbD 15 then (c <<< 1) ^^^ 0x1021#16 else c <<< 1

/-- One byte of the CRC-16. -/
def crc16Byte (c : BitVec 16) (b : Byte) : BitVec 16 :=
  (List.range 8).foldl (fun c _ => crc16Bit c) (c ^^^ (b.setWidth 16 <<< 8))

/-- The CRC-16 of the PROM image: polynomial 0x1021, initial value 0xFFFF, not reflected, no final inversion
(R171). -/
def crc16 (bs : List Byte) : BitVec 16 := bs.foldl crc16Byte 0xFFFF#16

/-- The successor of a sequence number: 2^32 − 1 is followed by 1 (R63). -/
def seqSucc (n : BitVec 32) : BitVec 32 := if n = 0xFFFFFFFF#32 then 1#32 else n + 1#32

/-- The number whose successor is a sequence number (R74). -/
def seqPred (n : BitVec 32) : BitVec 32 := if n = 1#32 then 0xFFFFFFFF#32 else n - 1#32

/-- Sequence number `a` is below `b`: `b − a` modulo 2^32 lies between 1 and 2^31 − 1 (R63). -/
def seqBelow (a b : BitVec 32) : Bool := 1 ≤ (b - a).toNat && (b - a).toNat < 2 ^ 31

/-- Sequence number `a` is `n` or below it (R63, R65). -/
def seqUpTo (a n : BitVec 32) : Bool := a == n || seqBelow a n

/-- The value the capture counter advances to: 2^48 − 1 is followed by 1 (R22). -/
def capSucc (n : BitVec 48) : BitVec 48 := if n = 0xFFFFFFFFFFFF#48 then 1#48 else n + 1#48

/-- Capture number `a` is below `b`: `b − a` modulo 2^48 lies between 1 and 2^47 − 1 (R22). -/
def capBelow (a b : BitVec 48) : Bool := 1 ≤ (b - a).toNat && (b - a).toNat < 2 ^ 47

/-- Call numbers and epochs: one more, with 65535 followed by 1 (R44, R47). -/
def wrapSucc (n : BitVec 16) : BitVec 16 := if n = 0xFFFF#16 then 1#16 else n + 1#16

/-- Two ranges of bytes, each from its first byte up to its end, share a byte (R6). -/
def rangesMeet (a aEnd b bEnd : Nat) : Bool := a < bEnd && b < aEnd

/-- Insertion into an ascending list without repeats. -/
def insertSeg (k : Nat) : List Nat → List Nat
  | [] => [k]
  | x :: xs => if k < x then k :: x :: xs else if k = x then x :: xs else x :: insertSeg k xs

/-- A fixed-size table with place `i` replaced. -/
def setAt {α : Type} {n : Nat} (v : Vector α n) (i : Fin n) (x : α) : Vector α n := v.set i.val x i.isLt

/-- The code of a frame kind (section 12.6). -/
def frameCode : FrameKind → Nat
  | .join => 1 | .accept => 2 | .part => 3 | .write => 4 | .block => 5
  | .note => 6 | .ack => 7 | .retry => 8 | .reject => 9

/-- The length in bytes of a frame of a kind, trailer included (section 12.6). -/
def frameLength : FrameKind → Nat
  | .join => 20 | .accept => 20 | .part => 16 | .write => 96 | .block => 4120
  | .note => 36 | .ack => 16 | .retry => 16 | .reject => 20

/-- The kind that a code names, if any. -/
def frameKindOf (code : Nat) : Option FrameKind :=
  [FrameKind.join, .accept, .part, .write, .block, .note, .ack, .retry, .reject].find? fun k => frameCode k = code

/-- Check 1 of R42: the CRC-32 over the bytes before the trailer, the last four bytes, equals the trailer. -/
def crcGood (bs : List Byte) : Bool :=
  4 ≤ bs.length && leNat (bs.drop (bs.length - 4)) == (crc32 (bs.take (bs.length - 4))).toNat

/-- Checks 2 and 3 of R42: the kind is one of the nine, the length field and the bytes delivered have its length,
and a JOIN or ACCEPT carries epoch 0. -/
def formGood (bs : List Byte) : Bool :=
  match frameKindOf (fieldAt bs 0 1) with
  | none => false
  | some k =>
    fieldAt bs 6 2 == frameLength k && bs.length == frameLength k &&
      (!(k == .join || k == .accept) || fieldAt bs 2 2 == 0)

/-- A frame passes the checks of R42. -/
def frameGood (bs : List Byte) : Bool := crcGood bs && formGood bs

end Sys2Proof.Machine
end

