-- ==== Sys2Proof/Config.lean ====
section
/-! DEFINITION. The sizes that the spec fixes for every CW316, and the FREE VALUES: constants with no body for what
the spec leaves unstated (notes/assumptions/4.md, 5.md, 6.md, 33.md). -/

namespace Sys2Proof

/-- Records of the SYNC queue (R23). -/
abbrev Config.syncSlots : Nat := 64
/-- Records of the ASYNC queue (R23). -/
abbrev Config.asyncSlots : Nat := 256
/-- Records of the replay list (R58). -/
abbrev Config.replaySlots : Nat := 512
/-- Entries of the apply queue (R111). -/
abbrev Config.applySlots : Nat := 128
/-- Fences of the fence list (R98). -/
abbrev Config.fenceSlots : Nat := 16
/-- Lines of the command queue (R143). -/
abbrev Config.commandSlots : Nat := 8
/-- Entries of the response list, and injected requests outstanding (R129, R137). -/
abbrev Config.portSlots : Nat := 16
/-- Outstanding writes of the Event Writer (R166). -/
abbrev Config.writerSlots : Nat := 8
/-- The load timer: 20 ms, in microseconds (R170). -/
abbrev Config.loadTime : Nat := 20000
/-- The quiet time of TARGET_WRITE_REFUSED, in microseconds (R123). -/
abbrev Config.quietTime : BitVec 32 := 1000#32
/-- The protocol version of the JOIN frame (R46). -/
abbrev Config.protocolVersion : BitVec 16 := 1#16
/-- The signature of a valid PROM image (R180). -/
abbrev Config.signature : BitVec 32 := 0xC3160A5E#32

/-- FREE VALUE: the low four bits of the internal tag that names the first of the injected sources (R136 gives the
range 16 to 31, not which tag names which source). -/
opaque Config.freeSourceBase : BitVec 4

/-- FREE VALUE: what a SNAPSHOT shows in a field whose subject is absent and whose absent value no rule gives
(segment index, next block, pending DISCONNECT tag, pending CLOSE tag; R178). -/
opaque Config.freeAbsentField : Nat → BitVec 32

/-- FREE VALUE: the address of a ring slot or write-out line that lies past the end of the 1 TiB space, which
R151 and R153 do not refuse and no rule places. -/
opaque Config.freePastEnd : Nat → Addr

/-- FREE VALUE: whether an injected source with a request ready counts as waiting while 16 injected requests are
outstanding, as R137 has it, or does not, as R138 has it (notes/assumptions/33.md). -/
opaque Config.freeWaitsAtLimit : Bool

end Sys2Proof
end

