-- ==== Sys2Proof/Machine/State.lean ====
section
/-! DEFINITION. The state of the CW316 as plain data: one structure per block of the part, the commands that wait,
what the part has driven at its outputs, and the state right after reset. -/

namespace Sys2Proof.Machine

/-! ## Codes and small types (section 12.2) -/

/-- Region roles (R1). -/
inductive Role where
  | free | source | target
deriving DecidableEq, Repr

/-- Region states (R1). The role is a view of the state: `free` is FREE, the next four are SOURCE, the last three
TARGET. -/
inductive RegionState where
  | free | lagging | mirrored | refused | draining | accepting | failed | releasing
deriving DecidableEq, Repr

/-- The class of a source region, which is also the name of its send queue (R1, R23). -/
inductive QueueClass where
  | sync | async
deriving DecidableEq, Repr

inductive RegionCause where
  | opened | converged | queueFull | holdExpired | writeError | sessionDown | rejected | closed | drained
  | applyError | released
deriving DecidableEq, Repr

inductive FenceOutcome where
  | durable | notDurable | notTaken
deriving DecidableEq, Repr

inductive FenceCause where
  | none | listFull | notUp | regionLagging | regionRefused | resyncError | resyncAbandoned | sessionDown
deriving DecidableEq, Repr

inductive LossCause where
  | carrier | retryLimit | protocol | peerLeft | peerRejoined | disconnected
deriving DecidableEq, Repr

inductive RefusalCause where
  | sameUnit | version
deriving DecidableEq, Repr

inductive RejectReason where
  | noTarget | outOfRange | targetFailed
deriving DecidableEq, Repr

inductive RecordKind where
  | write | block | note
deriving DecidableEq, Repr

/-- Results of commands (R145). -/
inductive CmdResult where
  | ok | badCommand | badArgument | badEntry | entryBusy | overlap | notConnected | busy | lost
deriving DecidableEq, Repr

inductive SessionState where
  | disabled | calling | up | closing
deriving DecidableEq, Repr

inductive BlockState where
  | idle | waiting | reading | discarding
deriving DecidableEq, Repr

inductive HoldReason where
  | none | syncFull | blockRead | applyPending | commandFull | loading
deriving DecidableEq, Repr

inductive LoadState where
  | loading | running | bypass
deriving DecidableEq, Repr

/-- The statistics counters (R165). -/
inductive Stat where
  | capturedWrites | mergedWrites | recordsSent | recordsResent | blocksSent | recordsApplied | duplicates | gaps
  | framesBad | framesStale | holds | holdExpiries | dirtyMarks | targetWritesRefused | controlErrors | eventsLost
deriving DecidableEq, Repr

/-! ## Configuration Loader (R169) and parameters (R150) -/

/-- The fields read from the PROM image (R169, R180). -/
structure PromFields where
  signature : BitVec 32
  unitId : BitVec 8
  linkRate : BitVec 8
  present : BitVec 16
  controlBase : BitVec 64
  values : Vector (BitVec 16) 7
  crc : BitVec 16
deriving DecidableEq, Repr

/-- The Configuration Loader (R169). The load timer is stopped, or running with the microseconds left on its own
clock (R170). -/
structure Loader where
  loadState : LoadState
  loadTimer : Option Nat
  prom : PromFields
deriving DecidableEq, Repr

/-- The current values of the parameters (R150), in microseconds where they are times. -/
structure Params where
  ackDelay : BitVec 32
  replayTimeout : BitVec 32
  retryLimit : BitVec 32
  holdLimit : BitVec 32
  joinInterval : BitVec 32
  attnThreshold : BitVec 32
  attnDelay : BitVec 32
deriving DecidableEq, Repr

/-! ## Region Table and dirty map (R1, R79) -/

/-- A Region Table entry (R1), with its slice of the dirty map (R79). `dirty` holds the segments whose dirty flag is
set, ascending; its length is the dirty count. `errorReported` holds the segments whose error-reported flag is
set. -/
structure Entry where
  state : RegionState
  base : Addr
  sizeExp : Nat
  cls : Option QueueClass
  peer : RegionIx
  cursor : Nat
  dirty : List Nat
  errorReported : List Nat
deriving DecidableEq, Repr

/-- The fields of a FREE entry (R1). -/
def Entry.zero : Entry := ⟨.free, 0, 0, none, 0, 0, [], []⟩

/-! ## Session Controller (R44) -/

/-- The ACCEPT this part last sent (R44). -/
structure Answer where
  epoch : BitVec 16
  echo : BitVec 16
  last : BitVec 16
deriving DecidableEq, Repr

/-- The Session Controller (R44), with the carrier flag and whether the transceiver has been started (R40). `dropped` is
the model's own: the carrier has been present and has dropped, so that a frame delivered before may be taken behind the
drop (R43; notes/assumptions/9.md). The own unit id is the PROM's. Running timers hold the time base at which they
expire. -/
structure Session where
  transceiver : Bool
  carrier : Bool
  dropped : Bool
  state : SessionState
  enable : Bool
  call : BitVec 16
  lastEpoch : BitVec 16
  epoch : BitVec 16
  peerUnit : BitVec 8
  peerCall : BitVec 16
  answer : Option Answer
  refusalReported : Bool
  joinTimer : Option (BitVec 32)
  pendingDisconnect : Option (BitVec 16)
deriving DecidableEq, Repr

/-! ## Capture Unit (R20, R23) -/

/-- The kind of a record and the fields of that kind (R20). A BLOCK refers to one of the four block buffers. -/
inductive RecordBody where
  | write (region peer : RegionIx) (line : Nat) (mask : ByteMask) (data : Line) (merged : Nat)
  | block (region peer : RegionIx) (block : Nat) (buffer : Fin 4)
  | note (tag : BitVec 16) (payload : BitVec 128)
deriving DecidableEq, Repr

/-- A record (R20). -/
structure Record where
  cap : BitVec 48
  body : RecordBody
deriving DecidableEq, Repr

/-- The Capture Unit: the capture counter (R22), the send queues, oldest first (R23), and the current fence boundary
(R27). The reserved slot stands with the block that holds it (R81). -/
structure Capture where
  counter : BitVec 48
  sync : List Record
  async : List Record
  boundary : BitVec 48
deriving DecidableEq, Repr

/-! ## Link Transmitter (R58) -/

/-- The body of a control frame, with the values it had when it was generated (R59). -/
inductive ControlBody where
  | join (call last : BitVec 16)
  | accept (epoch call echo last : BitVec 16)
  | part (seq : BitVec 32)
  | ack (seq : BitVec 32)
  | retry (seq : BitVec 32)
  | reject (seq : BitVec 32) (peer : BitVec 8) (reason : RejectReason)
deriving DecidableEq, Repr

/-- A control frame: its header epoch and its body (R41, R59). -/
structure ControlFrame where
  epoch : BitVec 16
  body : ControlBody
deriving DecidableEq, Repr

/-- A record of the replay list with its sequence number (R63). -/
structure Replayed where
  seq : BitVec 32
  record : Record
deriving DecidableEq, Repr

/-- The Link Transmitter (R58). `lossClaim` is the claim it has made and the Session Controller has not yet taken
(R54, R71). -/
structure Transmitter where
  control : List ControlFrame
  replay : List Replayed
  next : BitVec 32
  highest : BitVec 32
  cursor : Option (BitVec 32)
  timer : Option (BitVec 32)
  timeouts : Nat
  syncRun : Nat
  suspended : Bool
  lossClaim : Option LossCause
deriving DecidableEq, Repr

/-! ## Link Receiver (R74) -/

/-- The Link Receiver (R74). `accepted` says whether the session has accepted a record, on which the highest
accepted number depends. `compareDue` says that a record has completed and the comparison for a deferred RETRY has not
been made since (R76). -/
structure Receiver where
  expected : BitVec 32
  accepted : Bool
  retrySent : Bool
  deferred : Option Nat
  ackPoint : BitVec 32
  unacked : Nat
  ackTimer : Option (BitVec 32)
  carried : Nat
  compareDue : Bool
deriving DecidableEq, Repr

/-! ## Apply Engine (R111, R112) -/

/-- The kind of an apply entry and its fields (R112). A LINE entry also keeps the kind of its record, which its
APPLY_ERROR event carries (R118). -/
inductive ApplyKind where
  | line (addr : Addr) (mask : ByteMask) (data : Line) (kind : RecordKind)
  | rejected (reason : RejectReason)
  | note (tag : BitVec 16) (payload : BitVec 128)
deriving DecidableEq, Repr

/-- An apply queue entry (R112). `issued` is the state ISSUED. `cutShort` marks the last entry that a RESTART left
of a record whose last entry it discarded (R121). -/
structure ApplyEntry where
  seq : BitVec 32
  epoch : BitVec 16
  target : Option RegionIx
  kind : ApplyKind
  last : Bool
  issued : Bool
  cutShort : Bool
deriving DecidableEq, Repr

/-- The refusal report state of one entry index (R123). -/
structure RefusalReport where
  timer : Option (BitVec 32)
  unreported : Nat
deriving DecidableEq, Repr

/-- The Apply Engine (R111). The issued entries and the issue point are views of the queue. -/
structure ApplyEngine where
  queue : List ApplyEntry
  headError : Bool
  reports : Vector RefusalReport 32
deriving DecidableEq, Repr

/-! ## Resync Engine (R81, R82) -/

/-- The segment in progress, with the next block and the switch segment flag (R81). -/
structure Segment where
  region : RegionIx
  index : Nat
  nextBlock : Nat
  switch : Bool
deriving DecidableEq, Repr

/-- The Resync Engine (R81). A block buffer that is free is `none`. -/
structure Resync where
  turn : RegionIx
  segment : Option Segment
  block : BlockState
  issued : Nat
  taken : Nat
  reserved : Option (Fin 4 × QueueClass)
  toDiscard : Nat
  buffers : Vector (Option BlockData) 4
deriving DecidableEq, Repr

/-! ## Fence Tracker (R98) -/

/-- The switch wait of a scope entry (R98, R101). -/
inductive SwitchWait where
  | none
  | waiting
  | upTo (cap : BitVec 48)
deriving DecidableEq, Repr

structure ScopeEntry where
  entry : RegionIx
  wait : SwitchWait
deriving DecidableEq, Repr

/-- A pending fence (R98); the scope ascends by entry index. -/
structure Fence where
  tag : BitVec 16
  boundary : BitVec 48
  scope : List ScopeEntry
deriving DecidableEq, Repr

/-! ## Memory Path (R129, R135, R136) -/

/-- The injected sources, in the cycle of R139. -/
inductive Injected where
  | apply | resync | writer
deriving DecidableEq, Repr

/-- What a writer request carries: a ring entry, with whether its ring is still the current one, or a line of a
write-out (R160, R166). -/
inductive WriterItem where
  | entry (current : Bool)
  | writeOut
deriving DecidableEq, Repr

/-- The source of a memory-port request (R136). -/
inductive MemSource where
  | passThrough
  | apply
  | resync
  | writer (item : WriterItem)
deriving DecidableEq, Repr

/-- The form of a memory-port request (R128). -/
inductive MemForm where
  | read (addr : Addr) (len : Nat)
  | write (addr : Addr) (mask : ByteMask) (data : Line)
deriving DecidableEq, Repr

/-- A request issued at the memory port, with its internal tag (R136). -/
structure MemRequest where
  source : MemSource
  tag : BitVec 5
  form : MemForm
deriving DecidableEq, Repr

/-- An entry of the response list (R135), with the place that it takes there (R136). `ready` is the state READY. -/
structure RespEntry where
  place : BitVec 4
  tag : BitVec 16
  isRead : Bool
  region : Option RegionIx
  ready : Bool
  status : Status
  data : List Byte
deriving DecidableEq, Repr

/-- The Memory Path (R129). `outstanding` holds the requests issued at the memory port and not yet answered, in
issue order (R136); the injected outstanding count is a view of it. `applyWait` is how many of the oldest apply
entries have yet to leave before an APPLY_PENDING hold ends (R124). `behind` holds the requests that masters present
and that wait in the interconnect behind the head, first presented first (R130, R134). -/
structure MemPath where
  head : Option SysRequest
  behind : List SysRequest
  hold : HoldReason
  holdTimer : Option (BitVec 32)
  limitExpired : Bool
  presented : Bool
  applyWait : Nat
  responses : List RespEntry
  run : Nat
  pointer : Injected
  outstanding : List MemRequest
deriving DecidableEq, Repr

/-! ## Command Unit (R143) -/

/-- The write-out in progress (R143). -/
structure WriteOut where
  isSnapshot : Bool
  tag : BitVec 16
  dest : Nat
  left : Nat
  errors : BitVec 32
deriving DecidableEq, Repr

/-- Waiting for RESTARTED: the RESTART's tag and the injected requests still to be answered (R156, R168). -/
structure RestartWait where
  tag : BitVec 16
  due : Nat
deriving DecidableEq, Repr

/-- The Command Unit (R143). -/
structure CommandUnit where
  queue : List Line
  pendingClose : Vector (Option (BitVec 16)) 32
  writeOut : Option WriteOut
  waiting : Option RestartWait
deriving DecidableEq, Repr

/-! ## Event Writer (R158, R163, R166) -/

/-- The events and what each carries (section 10.2). -/
inductive Event where
  | commandDone (result : CmdResult) (tag code : BitVec 16) (entry : BitVec 8) (errors : BitVec 32)
  | fenceDone (outcome : FenceOutcome) (cause : FenceCause) (tag : BitVec 16) (region : Option RegionIx)
      (boundary : BitVec 48)
  | sessionUp (epoch : BitVec 16) (peerUnit : BitVec 8) (peerCall ownCall : BitVec 16)
  | sessionDown (cause : LossCause) (epoch : BitVec 16) (sent accepted part : BitVec 32)
  | joinRefused (cause : RefusalCause) (sender : BitVec 8) (version : BitVec 16)
  | regionState (cause : RegionCause) (entry : RegionIx) (role : Role) (previous new : RegionState)
  | noteReceived (tag : BitVec 16) (payload : BitVec 128)
  | recordRejected (region : RegionIx) (seq : BitVec 32) (cap : BitVec 48) (kind : RecordKind) (peer reason : BitVec 8)
  | applyError (target : RegionIx) (seq : BitVec 32) (kind : RecordKind) (addr : Addr)
  | resyncReadError (region : RegionIx) (segment block line : Nat)
  | targetWriteRefused (target : RegionIx) (addr : Addr) (unreported : Nat)
  | eventsLost (count : BitVec 32)
  | restarted (tag : BitVec 16)
  | ready (unitId : BitVec 8) (controlBase : BitVec 64) (linkRate : BitVec 8)
deriving DecidableEq, Repr

/-- An entry of the event list: the event, its phase and timestamp, the address of its slot, and whether its ring is
still the current one (R159, R160). -/
structure EventItem where
  event : Event
  phase : Bool
  stamp : BitVec 32
  slot : Addr
  current : Bool
deriving DecidableEq, Repr

/-- The Event Writer (R158, R163, R166). `produce`, `release` and `write` are P, C and W, and `unwritten` is how many
entries of the current ring have been produced and not answered by memory. `entriesNext` says that the next line, when
both lists hold one, comes from the event list. -/
structure EventWriter where
  ringBase : Addr
  count : Nat
  produce : Nat
  release : Nat
  write : Nat
  unwritten : Nat
  lost : BitVec 32
  list : List EventItem
  timeBase : BitVec 32
  attn : Bool
  attnTimer : Option (BitVec 32)
  entriesNext : Bool
  writeOutLines : List (Addr × Line)
deriving DecidableEq, Repr

/-! ## Outputs -/

/-- A response returned to a master (R128): READ_DATA or WRITE_DONE, the request's tag, the status and the bytes
read. -/
structure MasterResponse where
  isRead : Bool
  tag : BitVec 16
  status : Status
  data : List Byte
deriving DecidableEq, Repr

/-- What the part has driven at its system port and its link since the model began, oldest first. -/
structure Outputs where
  toMasters : List MasterResponse
  toLink : List (List Byte)
deriving DecidableEq, Repr

/-! ## The state -/

/-- The state of the part. `pending` holds the commands that wait, first in, first out. `resetN` is the RESET_N
input: true while released (R174). `freeCount` counts the free values drawn (the model's own field). -/
structure State where
  pending : List Instr
  resetN : Bool
  loader : Loader
  params : Params
  regions : Vector Entry 32
  session : Session
  capture : Capture
  tx : Transmitter
  rx : Receiver
  apply : ApplyEngine
  resync : Resync
  fences : List Fence
  mem : MemPath
  cmd : CommandUnit
  ev : EventWriter
  stats : Vector (BitVec 64) 16
  out : Outputs
  freeCount : Nat
deriving DecidableEq, Repr

/-- Why the machine stops with a fault: never. Every command of the table has an effect that the spec gives, so no
constructor is needed. -/
inductive Fault where
deriving DecidableEq, Repr

/-- Why a command is refused. -/
inductive Refusal where
  /-- Raised by an arm of `exec` whose command has no meaning yet; safe: nothing can be proved of a run through
  it. No arm raises it now. -/
  | notModelled (mnemonic : String)
deriving DecidableEq, Repr

/-- One step's outcome on this part. -/
abbrev Outcome := Host.Outcome State Fault Refusal

/-! ## Updates of one block -/

def State.modLoader (s : State) (f : Loader → Loader) : State := { s with loader := f s.loader }
def State.modParams (s : State) (f : Params → Params) : State := { s with params := f s.params }
def State.modRegions (s : State) (f : Vector Entry 32 → Vector Entry 32) : State := { s with regions := f s.regions }
def State.modSession (s : State) (f : Session → Session) : State := { s with session := f s.session }
def State.modCapture (s : State) (f : Capture → Capture) : State := { s with capture := f s.capture }
def State.modTx (s : State) (f : Transmitter → Transmitter) : State := { s with tx := f s.tx }
def State.modRx (s : State) (f : Receiver → Receiver) : State := { s with rx := f s.rx }
def State.modApply (s : State) (f : ApplyEngine → ApplyEngine) : State := { s with apply := f s.apply }
def State.modResync (s : State) (f : Resync → Resync) : State := { s with resync := f s.resync }
def State.modFences (s : State) (f : List Fence → List Fence) : State := { s with fences := f s.fences }
def State.modMem (s : State) (f : MemPath → MemPath) : State := { s with mem := f s.mem }
def State.modCmd (s : State) (f : CommandUnit → CommandUnit) : State := { s with cmd := f s.cmd }
def State.modEv (s : State) (f : EventWriter → EventWriter) : State := { s with ev := f s.ev }
def State.modStats (s : State) (f : Vector (BitVec 64) 16 → Vector (BitVec 64) 16) : State :=
  { s with stats := f s.stats }
def State.modOut (s : State) (f : Outputs → Outputs) : State := { s with out := f s.out }
/-- Free values have been drawn. -/
def State.drew (s : State) (n : Nat) : State := { s with freeCount := s.freeCount + n }

/-! ## Reset -/

/-- The part right after reset: every block at its power-on value, the load state LOADING and the load timer
started (R170, R174). -/
def State.reset : State where
  pending := []
  resetN := true
  loader := ⟨.loading, some Config.loadTime, ⟨0, 0, 0, 0, 0, Vector.replicate 7 0, 0⟩⟩
  params := ⟨8, 200, 8, 50, 100, 1, 0⟩
  regions := Vector.replicate 32 Entry.zero
  session :=
    { transceiver := false, carrier := false, dropped := false, state := .disabled, enable := false, call := 0, lastEpoch := 0,
      epoch := 0, peerUnit := 0, peerCall := 0, answer := none, refusalReported := false, joinTimer := none,
      pendingDisconnect := none }
  capture := ⟨1, [], [], 0⟩
  tx :=
    { control := [], replay := [], next := 1, highest := 0, cursor := none, timer := none, timeouts := 0,
      syncRun := 0, suspended := false, lossClaim := none }
  rx :=
    { expected := 1, accepted := false, retrySent := false, deferred := none, ackPoint := 0, unacked := 0,
      ackTimer := none, carried := 0, compareDue := false }
  apply := ⟨[], false, Vector.replicate 32 ⟨none, 0⟩⟩
  resync :=
    { turn := 0, segment := none, block := .idle, issued := 0, taken := 0, reserved := none, toDiscard := 0,
      buffers := Vector.replicate 4 none }
  fences := []
  mem :=
    { head := none, behind := [], hold := .loading, holdTimer := none, limitExpired := false, presented := false,
      applyWait := 0, responses := [], run := 0, pointer := .apply, outstanding := [] }
  cmd := ⟨[], Vector.replicate 32 none, none, none⟩
  ev :=
    { ringBase := 0, count := 64, produce := 0, release := 0, write := 0, unwritten := 0, lost := 0, list := [],
      timeBase := 0, attn := false, attnTimer := none, entriesNext := true, writeOutLines := [] }
  stats := Vector.replicate 16 0
  out := ⟨[], []⟩
  freeCount := 0

end Sys2Proof.Machine
end

