-- ==== Sys2Proof/Machine/Operands.lean ====
section
/-! DEFINITION. The layouts of chapter 12 and the fields read from them: codes, link frames, command lines, the PROM
image, event entries; and the geometry of regions (R2). -/

namespace Sys2Proof.Machine

/-! ## Codes (section 12.2) -/

def resultCode : CmdResult → Nat
  | .ok => 0 | .badCommand => 1 | .badArgument => 2 | .badEntry => 3 | .entryBusy => 4 | .overlap => 5
  | .notConnected => 6 | .busy => 7 | .lost => 8

def fenceOutcomeCode : FenceOutcome → Nat
  | .durable => 0 | .notDurable => 1 | .notTaken => 2

def fenceCauseCode : FenceCause → Nat
  | .none => 0 | .listFull => 1 | .notUp => 2 | .regionLagging => 3 | .regionRefused => 4 | .resyncError => 5
  | .resyncAbandoned => 6 | .sessionDown => 7

def lossCauseCode : LossCause → Nat
  | .carrier => 1 | .retryLimit => 2 | .protocol => 3 | .peerLeft => 4 | .peerRejoined => 5 | .disconnected => 6

def refusalCauseCode : RefusalCause → Nat
  | .sameUnit => 1 | .version => 2

def regionCauseCode : RegionCause → Nat
  | .opened => 1 | .converged => 2 | .queueFull => 3 | .holdExpired => 4 | .writeError => 5 | .sessionDown => 6
  | .rejected => 7 | .closed => 8 | .drained => 9 | .applyError => 10 | .released => 11

def rejectReasonCode : RejectReason → Nat
  | .noTarget => 1 | .outOfRange => 2 | .targetFailed => 3

def roleCode : Role → Nat
  | .free => 0 | .source => 1 | .target => 2

def regionStateCode : RegionState → Nat
  | .free => 0 | .lagging => 1 | .mirrored => 2 | .refused => 3 | .draining => 4 | .accepting => 5 | .failed => 6
  | .releasing => 7

def classCode : Option QueueClass → Nat
  | none => 0 | some .sync => 1 | some .async => 2

def recordKindCode : RecordKind → Nat
  | .write => 1 | .block => 2 | .note => 3

def sessionStateCode : SessionState → Nat
  | .disabled => 0 | .calling => 1 | .up => 2 | .closing => 3

def blockStateCode : BlockState → Nat
  | .idle => 0 | .waiting => 1 | .reading => 2 | .discarding => 3

def holdReasonCode : HoldReason → Nat
  | .none => 0 | .syncFull => 1 | .blockRead => 2 | .applyPending => 3 | .commandFull => 4 | .loading => 5

/-- The command codes (section 12.2). -/
abbrev codeConnect : Nat := 1
abbrev codeDisconnect : Nat := 2
abbrev codeOpenSource : Nat := 3
abbrev codeOpenTarget : Nat := 4
abbrev codeClose : Nat := 5
abbrev codeFence : Nat := 6
abbrev codeSendNote : Nat := 7
abbrev codeSetParameter : Nat := 8
abbrev codeSetEventRing : Nat := 9
abbrev codeReleaseEvents : Nat := 10
abbrev codeDumpStats : Nat := 11
abbrev codeSnapshot : Nat := 12
abbrev codeRestart : Nat := 13

/-! ## Region geometry (R1, R2) -/

/-- The role that a region state belongs to (R1). -/
def roleOf : RegionState → Role
  | .free => .free
  | .lagging | .mirrored | .refused | .draining => .source
  | .accepting | .failed | .releasing => .target

/-- Segments of a source region of size 2^n (R2). -/
def segCount (n : Nat) : Nat := min 1024 (2 ^ (n - 12))

/-- Bytes of a segment (R2). -/
def segBytes (n : Nat) : Nat := max 4096 (2 ^ (n - 10))

/-- Segment of a line offset (R2, R80). -/
def segOfLine (n line : Nat) : Nat := line / (segBytes n / 64)

/-- Blocks of a segment (R2). -/
def segBlocks (n : Nat) : Nat := segBytes n / 4096

/-- Segment of a block offset (R2, R80). -/
def segOfBlock (n block : Nat) : Nat := block / segBlocks n

/-- First byte past the end of a region (R6). -/
def entryEnd (en : Entry) : Nat := en.base.toNat + 2 ^ en.sizeExp

/-- The line address of a byte address. -/
def lineOf (a : Addr) : Nat := a.toNat / 64 * 64

/-- The line offset in a region of a line address (R2). -/
def lineOffset (en : Entry) (a : Nat) : Nat := (a - en.base.toNat) / 64

/-- A non-FREE entry's range holds the line (R16). -/
def entryHolds (en : Entry) (a : Nat) : Bool :=
  en.state != .free && en.base.toNat ≤ a && a < entryEnd en

/-- An address of the 1 TiB space; past its end a free value (notes/assumptions/6.md). -/
def spaceAddr (a : Nat) : Addr := if a < 2 ^ 40 then BitVec.ofNat 40 a else Config.freePastEnd a

/-! ## Link frames (R41, R179, section 12.6) -/

/-- A frame: the header, the body, and the CRC-32 trailer over every byte before it (R41, R179). -/
def buildFrame (k : FrameKind) (epoch : BitVec 16) (unit : BitVec 8) (body : List Byte) : List Byte :=
  let covered :=
    [BitVec.ofNat 8 (frameCode k), 0#8] ++ leBytes 2 epoch.toNat ++ [unit, 0#8] ++ leBytes 2 (frameLength k) ++ body
  covered ++ leBytes 4 (crc32 covered).toNat

/-- The bytes of a control frame (section 12.6). -/
def controlBytes (unit : BitVec 8) (f : ControlFrame) : List Byte :=
  match f.body with
  | .join call last =>
    buildFrame .join f.epoch unit
      (leBytes 2 call.toNat ++ leBytes 2 last.toNat ++ leBytes 2 Config.protocolVersion.toNat ++ leBytes 2 0)
  | .accept epoch call echo last =>
    buildFrame .accept f.epoch unit
      (leBytes 2 epoch.toNat ++ leBytes 2 call.toNat ++ leBytes 2 echo.toNat ++ leBytes 2 last.toNat)
  | .part seq => buildFrame .part f.epoch unit (leBytes 4 seq.toNat)
  | .ack seq => buildFrame .ack f.epoch unit (leBytes 4 seq.toNat)
  | .retry seq => buildFrame .retry f.epoch unit (leBytes 4 seq.toNat)
  | .reject seq peer reason =>
    buildFrame .reject f.epoch unit
      (leBytes 4 seq.toNat ++ [peer, BitVec.ofNat 8 (rejectReasonCode reason)] ++ leBytes 2 0)

/-- The bytes of a record's frame under a sequence number (R62, R179); `block` gives the contents of a block
buffer. -/
def recordBytes (unit : BitVec 8) (epoch : BitVec 16) (buffers : Vector (Option BlockData) 4) (r : Replayed) :
    List Byte :=
  match r.record.body with
  | .write _ peer line mask data _ =>
    buildFrame .write epoch unit
      (leBytes 4 r.seq.toNat ++ leBytes 1 peer.val ++ leBytes 3 0 ++ leBytes 4 line ++ leBytes 8 mask.toNat ++
        lineBytes data)
  | .block _ peer block buffer =>
    buildFrame .block epoch unit
      (leBytes 4 r.seq.toNat ++ leBytes 1 peer.val ++ leBytes 3 0 ++ leBytes 4 block ++
        leBytes 4096 ((buffers[buffer]).getD 0).toNat)
  | .note tag payload =>
    buildFrame .note epoch unit
      (leBytes 4 r.seq.toNat ++ leBytes 2 tag.toNat ++ leBytes 2 0 ++ leBytes 16 payload.toNat)

/-- The bytes of a frame whose kind the command names: byte 0 is the kind's code. -/
def frameOf (k : FrameKind) (rest : List Byte) : List Byte := BitVec.ofNat 8 (frameCode k) :: rest

def frameEpoch (bs : List Byte) : BitVec 16 := u16At bs 2
def frameSender (bs : List Byte) : BitVec 8 := byteAt bs 4
/-- The sequence number of a record frame, or the number that a PART, ACK, RETRY or REJECT carries. -/
def frameSeq (bs : List Byte) : BitVec 32 := u32At bs 8
/-- The peer region index of a WRITE, BLOCK or REJECT frame. -/
def framePeer (bs : List Byte) : BitVec 8 := byteAt bs 12
/-- The line or block offset of a WRITE or BLOCK frame. -/
def framePosition (bs : List Byte) : Nat := fieldAt bs 16 4

/-- The fields of a JOIN frame. -/
structure JoinFields where
  sender : BitVec 8
  call : BitVec 16
  last : BitVec 16
  version : BitVec 16
deriving DecidableEq, Repr

def joinFields (bs : List Byte) : JoinFields := ⟨frameSender bs, u16At bs 8, u16At bs 10, u16At bs 12⟩

/-- The fields of an ACCEPT frame. -/
structure AcceptFields where
  sender : BitVec 8
  epoch : BitVec 16
  call : BitVec 16
  echo : BitVec 16
  last : BitVec 16
deriving DecidableEq, Repr

def acceptFields (bs : List Byte) : AcceptFields :=
  ⟨frameSender bs, u16At bs 8, u16At bs 10, u16At bs 12, u16At bs 14⟩

/-- What a sequenced record asks to be done (R113, R114). -/
inductive Inbound where
  | write (peer : BitVec 8) (line : Nat) (mask : ByteMask) (data : Line)
  | block (peer : BitVec 8) (block : Nat) (data : BlockData)
  | note (tag : BitVec 16) (payload : BitVec 128)
deriving DecidableEq, Repr

def writeFields (bs : List Byte) : Inbound :=
  .write (framePeer bs) (framePosition bs) (BitVec.ofNat 64 (fieldAt bs 20 8)) (lineAt bs 28)

def blockFields (bs : List Byte) : Inbound :=
  .block (framePeer bs) (framePosition bs) (BitVec.ofNat 32768 (fieldAt bs 20 4096))

def noteFields (bs : List Byte) : Inbound :=
  .note (u16At bs 12) (BitVec.ofNat 128 (fieldAt bs 16 16))

/-! ## Command lines (R176) -/

def lineCode (l : Line) : BitVec 16 := l.extractLsb' 0 16
def lineTag (l : Line) : BitVec 16 := l.extractLsb' 16 16
def lineByte (l : Line) (off : Nat) : BitVec 8 := l.extractLsb' (8 * off) 8
def lineU16 (l : Line) (off : Nat) : BitVec 16 := l.extractLsb' (8 * off) 16
def lineU32 (l : Line) (off : Nat) : BitVec 32 := l.extractLsb' (8 * off) 32
/-- The address field of a command line, bytes 8 to 15. -/
def lineAddress (l : Line) : Nat := (l.extractLsb' 64 64).toNat
/-- The payload of SEND_NOTE, bytes 8 to 23. -/
def linePayload (l : Line) : BitVec 128 := l.extractLsb' 64 128

/-- An entry or peer index byte that names an entry. -/
def regionIx? (b : BitVec 8) : Option RegionIx := if h : b.toNat < 32 then some ⟨b.toNat, h⟩ else none

/-- The class byte of OPEN_SOURCE: 1 SYNC, 2 ASYNC, others none (R175, R176). -/
def classOf (b : BitVec 8) : Option QueueClass :=
  if b = 1#8 then some .sync else if b = 2#8 then some .async else none

/-- An address field with a bit above the fortieth is invalid (section 9.4). -/
def addressValid (a : Nat) : Bool := a < 2 ^ 40

/-- The argument checks of an OPEN on size exponent and base (R146). -/
def rangeValid (n base : Nat) : Bool := 16 ≤ n && n ≤ 36 && addressValid base && base % 2 ^ n == 0

/-- The range of a parameter (R150); no range for an id that names none. -/
def paramRange (id : Nat) : Option (Nat × Nat) :=
  match id with
  | 1 => some (1, 255)
  | 2 => some (10, 10000)
  | 3 => some (1, 15)
  | 4 => some (0, 1000)
  | 5 => some (10, 10000)
  | 6 => some (1, 255)
  | 7 => some (0, 10000)
  | _ => none

/-- A value lies in the range of the parameter that the id names (R150). -/
def paramValid (id value : Nat) : Bool :=
  match paramRange id with
  | some (lo, hi) => lo ≤ value && value ≤ hi
  | none => false

/-- The default of a parameter (R150). -/
def paramDefault (id : Nat) : BitVec 32 :=
  match id with
  | 1 => 8
  | 2 => 200
  | 3 => 8
  | 4 => 50
  | 5 => 100
  | 6 => 1
  | _ => 0

/-- The parameters with the one that the id names set to a value (R150). -/
def setParam (p : Params) (id : Nat) (v : BitVec 32) : Params :=
  match id with
  | 1 => { p with ackDelay := v }
  | 2 => { p with replayTimeout := v }
  | 3 => { p with retryLimit := v }
  | 4 => { p with holdLimit := v }
  | 5 => { p with joinInterval := v }
  | 6 => { p with attnThreshold := v }
  | 7 => { p with attnDelay := v }
  | _ => p

/-- An entry count of SET_EVENT_RING: a power of two from 64 to 4096 (R151). -/
def entryCountValid (n : Nat) : Bool := [64, 128, 256, 512, 1024, 2048, 4096].contains n

/-! ## PROM image (R171, R180) -/

/-- The fields of the PROM image (R180). -/
def promFields (image : Line) : PromFields where
  signature := image.extractLsb' 0 32
  unitId := lineByte image 4
  linkRate := lineByte image 5
  present := lineU16 image 6
  controlBase := image.extractLsb' 64 64
  values := Vector.ofFn fun i : Fin 7 => lineU16 image (16 + 2 * i.val)
  crc := lineU16 image 62

/-- The present flag of parameter `i + 1` (R180). -/
def promPresent (p : PromFields) (i : Fin 7) : Bool := p.present.getLsbD i.val

/-- The checks of R171; the image is good when all of them pass. -/
def imageGood (image : Line) : Bool :=
  let p := promFields image
  p.signature == Config.signature &&
    crc16 ((lineBytes image).take 62) == p.crc &&
    (p.controlBase.toNat % 4096 == 0 && addressValid p.controlBase.toNat && p.controlBase.toNat + 8192 ≤ 2 ^ 40) &&
    (1 ≤ p.linkRate.toNat && p.linkRate.toNat ≤ 4) &&
    (List.finRange 7).all fun i => !promPresent p i || paramValid (i.val + 1) (p.values[i]).toNat

/-- The starting value of parameter `id`: the loaded value where its present flag is set, else the default
(R169). -/
def promParam (p : PromFields) (id : Nat) : BitVec 32 :=
  if h : 1 ≤ id ∧ id ≤ 7 then
    if promPresent p ⟨id - 1, by omega⟩ then (p.values[(⟨id - 1, by omega⟩ : Fin 7)]).setWidth 32 else paramDefault id
  else 0

/-- The parameters after a good load (R169, R172). -/
def promParams (p : PromFields) : Params :=
  ⟨promParam p 1, promParam p 2, promParam p 3, promParam p 4, promParam p 5, promParam p 6, promParam p 7⟩

/-! ## Event entries (R177) -/

def eventKindCode : Event → Nat
  | .commandDone .. => 1 | .fenceDone .. => 2 | .sessionUp .. => 3 | .sessionDown .. => 4 | .joinRefused .. => 5
  | .regionState .. => 6 | .noteReceived .. => 7 | .recordRejected .. => 8 | .applyError .. => 9
  | .resyncReadError .. => 10 | .targetWriteRefused .. => 11 | .eventsLost .. => 12 | .restarted .. => 13
  | .ready .. => 14

/-- Bytes 2 and 3: the status or cause (R177). -/
def eventStatus : Event → Nat
  | .commandDone result _ _ _ _ => resultCode result
  | .fenceDone outcome cause _ _ _ => fenceOutcomeCode outcome + 256 * fenceCauseCode cause
  | .sessionDown cause _ _ _ _ => lossCauseCode cause
  | .joinRefused cause _ _ => refusalCauseCode cause
  | .regionState cause _ _ _ _ => regionCauseCode cause
  | .recordRejected _ _ _ _ _ reason => if 1 ≤ reason.toNat ∧ reason.toNat ≤ 3 then reason.toNat else 0
  | .sessionUp .. | .noteReceived .. | .applyError .. | .resyncReadError .. | .targetWriteRefused .. | .eventsLost ..
  | .restarted .. | .ready .. => 0

/-- Bytes 4 and 5: the tag or region index (R177). -/
def eventSubject : Event → Nat
  | .commandDone _ tag _ _ _ => tag.toNat
  | .fenceDone _ _ tag _ _ => tag.toNat
  | .regionState _ entry _ _ _ => entry.val
  | .noteReceived tag _ => tag.toNat
  | .recordRejected region _ _ _ _ _ => region.val
  | .applyError target _ _ _ => target.val
  | .resyncReadError region _ _ _ => region.val
  | .targetWriteRefused target _ _ => target.val
  | .restarted tag => tag.toNat
  | .sessionUp .. | .sessionDown .. | .joinRefused .. | .eventsLost .. | .ready .. => 0

/-- A region index, or 0xFF for none (R175). -/
def regionByte : Option RegionIx → Nat
  | some e => e.val
  | none => 0xFF

/-- Bytes 16 to 31: the payload (R177). -/
def eventPayload : Event → List Byte
  | .commandDone _ _ code entry errors =>
    leBytes 2 code.toNat ++ [entry, 0#8] ++ leBytes 4 errors.toNat ++ leBytes 8 0
  | .fenceDone _ _ _ region boundary => leBytes 8 (regionByte region) ++ leBytes 8 boundary.toNat
  | .sessionUp epoch peerUnit peerCall ownCall =>
    leBytes 2 epoch.toNat ++ [peerUnit, 0#8] ++ leBytes 2 peerCall.toNat ++ leBytes 2 ownCall.toNat ++ leBytes 8 0
  | .sessionDown _ epoch sent accepted part =>
    leBytes 4 epoch.toNat ++ leBytes 4 sent.toNat ++ leBytes 4 accepted.toNat ++ leBytes 4 part.toNat
  | .joinRefused _ sender version => [sender, 0#8] ++ leBytes 2 version.toNat ++ leBytes 12 0
  | .regionState _ _ role previous new =>
    [BitVec.ofNat 8 (roleCode role), BitVec.ofNat 8 (regionStateCode previous), BitVec.ofNat 8 (regionStateCode new)] ++
      leBytes 13 0
  | .noteReceived _ payload => leBytes 16 payload.toNat
  | .recordRejected _ seq cap kind peer reason =>
    leBytes 4 seq.toNat ++ [BitVec.ofNat 8 (recordKindCode kind), peer, reason, 0#8] ++ leBytes 8 cap.toNat
  | .applyError _ seq kind addr => leBytes 4 seq.toNat ++ leBytes 4 (recordKindCode kind) ++ leBytes 8 addr.toNat
  | .resyncReadError _ segment block line => leBytes 4 (segment % 65536) ++ leBytes 4 block ++ leBytes 8 (line % 2 ^ 32)
  | .targetWriteRefused _ addr unreported => leBytes 8 addr.toNat ++ leBytes 8 (unreported % 65536)
  | .eventsLost count => leBytes 16 count.toNat
  | .restarted _ => leBytes 16 0
  | .ready unitId controlBase linkRate => [unitId, linkRate] ++ leBytes 6 0 ++ leBytes 8 controlBase.toNat

/-- The 32 bytes of an event entry (R177). -/
def entryBytes (it : EventItem) : List Byte :=
  [BitVec.ofNat 8 (if it.phase then 1 else 0), BitVec.ofNat 8 (eventKindCode it.event)] ++
    leBytes 2 (eventStatus it.event) ++ leBytes 2 (eventSubject it.event) ++ leBytes 2 0 ++
    leBytes 4 it.stamp.toNat ++ leBytes 4 0 ++ eventPayload it.event

/-- The write that puts an event entry in its slot: the line that holds the slot, under a mask that covers the
entry's 32 bytes only (R160). -/
def entryWrite (it : EventItem) : MemForm :=
  let half := it.slot.toNat % 64
  .write (BitVec.ofNat 40 (it.slot.toNat / 64 * 64)) (BitVec.ofNat 64 (2 ^ 32 - 1) <<< half)
    (BitVec.ofNat 512 (leNat (entryBytes it)) <<< (8 * half))

end Sys2Proof.Machine
end

