-- ==== Sys2Proof/Machine/Flags.lean ====
section
/-! DEFINITION. Statistics (R165), the time base and timers (spec/00_scope.md, Time), producing events (R159) and the
ATTN line (R163). -/

namespace Sys2Proof.Machine

/-! ## Statistics -/

/-- The id of a counter (R165). -/
def statIx : Stat → Fin 16
  | .capturedWrites => 0 | .mergedWrites => 1 | .recordsSent => 2 | .recordsResent => 3 | .blocksSent => 4
  | .recordsApplied => 5 | .duplicates => 6 | .gaps => 7 | .framesBad => 8 | .framesStale => 9 | .holds => 10
  | .holdExpiries => 11 | .dirtyMarks => 12 | .targetWritesRefused => 13 | .controlErrors => 14 | .eventsLost => 15

/-- A counter rises by `n`, wrapping at 2^64 (R165). -/
def countBy (s : State) (c : Stat) (n : Nat) : State :=
  s.modStats fun v => setAt v (statIx c) (v[statIx c] + BitVec.ofNat 64 n)

/-- A counter rises by one (R165). -/
def count (s : State) (c : Stat) : State := countBy s c 1

/-! ## Time -/

/-- The time base at which a timer of `d` microseconds started now expires. -/
def after (s : State) (d : BitVec 32) : BitVec 32 := s.ev.timeBase + d

/-- A timer that expires at `t` has run out: the time base has reached `t` (spec/00_scope.md, Time;
notes/assumptions/2.md). -/
def reach (s : State) (t : BitVec 32) : State :=
  if seqBelow s.ev.timeBase t then s.modEv fun e => { e with timeBase := t } else s

/-! ## The event ring and ATTN -/

/-- Entries produced and not released: P − C modulo 2N (R158). -/
def unreleased (e : EventWriter) : Nat := (e.produce + 2 * e.count - e.release) % (2 * e.count)

/-- Unreleased entries already written, W − C: the entries that memory has yet to answer are the youngest produced, so
the number is 0 when a release has passed W (R163). -/
def visible (e : EventWriter) : Nat := unreleased e - e.unwritten

/-- The next of the indices, which count modulo 2N (R158). -/
def nextIndex (e : EventWriter) (i : Nat) : Nat := (i + 1) % (2 * e.count)

/-- The test of the ATTN line at a change of P, C or W; `before` is the visible count before the change (R163). -/
def attnTest (p : Params) (before : Nat) (e : EventWriter) : EventWriter :=
  if unreleased e = 0 then { e with attn := false, attnTimer := none }
  else if e.attn then e
  else if p.attnThreshold.toNat ≤ visible e then { e with attn := true, attnTimer := none }
  else if before = 0 ∧ 0 < visible e ∧ p.attnDelay ≠ 0 ∧ e.attnTimer = none then
    { e with attnTimer := some (e.timeBase + p.attnDelay) }
  else e

/-- The entry that an event takes at the produce index (R159, R160). -/
def newItem (e : EventWriter) (ev : Event) : EventItem where
  event := ev
  phase := decide (e.produce < e.count)
  stamp := e.timeBase
  slot := spaceAddr (e.ringBase.toNat + 32 * (e.produce % e.count))
  current := true

/-- The event takes index P and joins the event list (R159). -/
def produceEntry (p : Params) (ev : Event) (e : EventWriter) : EventWriter :=
  attnTest p (visible e)
    { e with list := e.list ++ [newItem e ev], produce := nextIndex e e.produce, unwritten := e.unwritten + 1 }

/-- The event takes index P and is released as it is produced: C advances past it (R152). -/
def produceReleased (p : Params) (ev : Event) (e : EventWriter) : EventWriter :=
  attnTest p (visible e)
    { e with list := e.list ++ [newItem e ev], produce := nextIndex e e.produce, unwritten := e.unwritten + 1,
             release := nextIndex e e.release }

/-- The lost count rises by one, stopping at 2^32 − 1 (R159). -/
def loseEvent (e : EventWriter) : EventWriter :=
  { e with lost := if e.lost = 0xFFFFFFFF#32 then e.lost else e.lost + 1 }

/-- A block requests an event: it is produced if the ring has room, else counted lost (R159). -/
def emit (s : State) (ev : Event) : State :=
  if unreleased s.ev < s.ev.count then s.modEv (produceEntry s.params ev)
  else count (s.modEv loseEvent) .eventsLost

/-- A command completes: its COMMAND_DONE is requested (R145). The entry index is 0 for commands without one. -/
def done (s : State) (result : CmdResult) (tag : BitVec 16) (code : Nat) (entry : BitVec 8 := 0) : State :=
  emit s (.commandDone result tag (BitVec.ofNat 16 code) entry 0)

end Sys2Proof.Machine
end

