-- ==== Sys2Proof/Machine/Ops.lean ====
section
/-! DEFINITION. The operations that the meanings share: the Region Table and the dirty map (R1 to R16, R80), holds
(R132), the send queues (R23 to R27), the fence list (R98 to R106), control frames (R59), the link halves' small
actions and the freeing of entries (R12, R14). -/

namespace Sys2Proof.Machine

/-! ## Entries -/

/-- Region Table entry `e`. -/
def State.entry (s : State) (e : RegionIx) : Entry := s.regions[e]

/-- Entry `e` takes new fields. -/
def setEntry (s : State) (e : RegionIx) (en : Entry) : State := s.modRegions fun v => setAt v e en

/-- The entry numbers in ascending order. -/
def entryList : List RegionIx := List.finRange 32

/-- The first, and by R6 the only, non-FREE entry whose range holds the line (R16). -/
def regionAt (s : State) (a : Nat) : Option RegionIx := entryList.find? fun e => entryHolds (s.entry e) a

/-- The classes of an address (R16). -/
inductive AddrClass where
  | control
  | ring
  | region (e : RegionIx)
  | unwatched
deriving DecidableEq, Repr

/-- First byte of the control page (R6). -/
def controlBase (s : State) : Nat := s.loader.prom.controlBase.toNat

/-- First byte past the event ring (R6). -/
def ringEnd (s : State) : Nat := s.ev.ringBase.toNat + 32 * s.ev.count

/-- The class of a line address, in the order of R16. -/
def classify (s : State) (a : Nat) : AddrClass :=
  if controlBase s ≤ a ∧ a < controlBase s + 4096 then .control
  else if s.ev.ringBase.toNat ≤ a ∧ a < ringEnd s then .ring
  else match regionAt s a with
    | some e => .region e
    | none => .unwatched

/-! ## The overlap rule (R6) -/

/-- A range meets a non-FREE entry. -/
def meetsRegion (s : State) (lo hi : Nat) : Bool :=
  entryList.any fun e =>
    (s.entry e).state != .free && rangesMeet lo hi (s.entry e).base.toNat (entryEnd (s.entry e))

/-- A range meets the control page. -/
def meetsControl (s : State) (lo hi : Nat) : Bool := rangesMeet lo hi (controlBase s) (controlBase s + 4096)

/-- A range meets the event ring. -/
def meetsRing (s : State) (lo hi : Nat) : Bool := rangesMeet lo hi s.ev.ringBase.toNat (ringEnd s)

/-- Bytes of a write-out's destination (R6). -/
def writeOutBytes (isSnapshot : Bool) : Nat := if isSnapshot then 1088 else 128

/-- A range meets the destination of the write-out in progress. -/
def meetsWriteOut (s : State) (lo hi : Nat) : Bool :=
  match s.cmd.writeOut with
  | some w => rangesMeet lo hi w.dest (w.dest + writeOutBytes w.isSnapshot)
  | none => false

/-- A range meets the slot of an entry of a replaced ring that is still in the event list. -/
def meetsOldEntries (s : State) (lo hi : Nat) : Bool :=
  s.ev.list.any fun it => !it.current && rangesMeet lo hi it.slot.toNat (it.slot.toNat + 32)

/-- An OPEN of the range would break the overlap rule (R6). -/
def openOverlaps (s : State) (lo hi : Nat) : Bool :=
  meetsRegion s lo hi || meetsControl s lo hi || meetsRing s lo hi || meetsWriteOut s lo hi || meetsOldEntries s lo hi

/-- A new ring would break the overlap rule (R6). -/
def ringOverlaps (s : State) (lo hi : Nat) : Bool :=
  meetsRegion s lo hi || meetsControl s lo hi || meetsWriteOut s lo hi

/-- A write-out destination would break the overlap rule (R6). -/
def writeOutOverlaps (s : State) (lo hi : Nat) : Bool :=
  meetsRegion s lo hi || meetsControl s lo hi || meetsRing s lo hi

/-! ## Dirty marks (R80) -/

/-- The states of a region in which a mark is made (R80). -/
def markable : RegionState → Bool
  | .lagging | .mirrored | .refused => true
  | .free | .draining | .accepting | .failed | .releasing => false

/-- A mark of one segment (R80). -/
def mark (s : State) (e : RegionIx) (k : Nat) : State :=
  if markable (s.entry e).state && !(s.entry e).dirty.contains k then
    count (setEntry s e { s.entry e with dirty := insertSeg k (s.entry e).dirty }) .dirtyMarks
  else s

/-- A mark of the segment that holds a line address. -/
def markAddr (s : State) (e : RegionIx) (a : Nat) : State :=
  mark s e (segOfLine (s.entry e).sizeExp (lineOffset (s.entry e) a))

/-- A mark of every segment: each one that was clean is counted (R80). -/
def markAll (s : State) (e : RegionIx) : State :=
  countBy (setEntry s e { s.entry e with dirty := List.range (segCount (s.entry e).sizeExp) }) .dirtyMarks
    (segCount (s.entry e).sizeExp - (s.entry e).dirty.length)

/-! ## Holds (R132) -/

/-- A hold ends: the reason becomes none and the hold limit timer stops (R132, R133). -/
def endHold (s : State) : State := s.modMem fun m => { m with hold := .none, holdTimer := none }

/-- A hold ends if it stands for one reason. -/
def endHoldOf (s : State) (r : HoldReason) : State := if s.mem.hold = r then endHold s else s

/-- The line address of a request. -/
def requestLine : SysRequest → Nat
  | .read _ addr _ => lineOf addr
  | .write _ addr _ _ => lineOf addr

/-- The region that the head request's line lies in. -/
def headRegion (s : State) : Option RegionIx := s.mem.head.bind fun r => regionAt s (requestLine r)

/-- A region has left MIRRORED: a SYNC_FULL or BLOCK_READ hold on it ends (R19, R29, R89). -/
def leftMirrored (s : State) (e : RegionIx) : State :=
  if (s.mem.hold = .syncFull ∨ s.mem.hold = .blockRead) ∧ headRegion s = some e then endHold s else s

/-! ## Send queues (R23) -/

def Capture.queueOf (c : Capture) : QueueClass → List Record
  | .sync => c.sync
  | .async => c.async

def Capture.setQueue (c : Capture) (q : QueueClass) (rs : List Record) : Capture :=
  match q with
  | .sync => { c with sync := rs }
  | .async => { c with async := rs }

/-- Capacity of a queue (R23). -/
def capacity : QueueClass → Nat
  | .sync => Config.syncSlots
  | .async => Config.asyncSlots

/-- Reserved slots of a queue: 0 or 1 (R23). -/
def reservedIn (s : State) (q : QueueClass) : Nat :=
  match s.resync.reserved with
  | some (_, q') => if q' = q then 1 else 0
  | none => 0

/-- Free slots of a queue: its capacity, less its records, less its reservations (R23). -/
def freeSlots (s : State) (q : QueueClass) : Nat :=
  capacity q - ((s.capture.queueOf q).length + reservedIn s q)

/-- A slot of a queue has become free: a SYNC_FULL hold ends (R24). -/
def slotFreed (s : State) (q : QueueClass) : State :=
  match q with
  | .sync => endHoldOf s .syncFull
  | .async => s

/-- A record is made: it takes the capture counter's value and enters its queue at the tail (R22, R23). -/
def appendRecord (s : State) (q : QueueClass) (body : RecordBody) : State :=
  s.modCapture fun c =>
    { c.setQueue q (c.queueOf q ++ [⟨c.counter, body⟩]) with counter := capSucc c.counter }

/-- The source region of a record; none for a NOTE (R20). -/
def Record.region (r : Record) : Option RegionIx :=
  match r.body with
  | .write e _ _ _ _ _ => some e
  | .block e _ _ _ => some e
  | .note _ _ => none

/-- The block buffer that a record holds (R20). -/
def Record.buffer (r : Record) : Option (Fin 4) :=
  match r.body with
  | .block _ _ _ b => some b
  | .write .. | .note .. => none

/-- The send queue of a source entry (R1, R23). -/
def Entry.queue (en : Entry) : QueueClass := en.cls.getD .sync

/-- The record that a write merged into the tail makes, where the merge test of R26 passes. -/
def mergeInto (boundary : BitVec 48) (e : RegionIx) (line : Nat) (mask : ByteMask) (data : Line) (r : Record) :
    Option Record :=
  match r.body with
  | .write reg peer off m d n =>
    if reg = e ∧ off = line ∧ ¬ (boundary ≠ 0 ∧ capBelow r.cap boundary) ∧ n < 255 then
      some { r with body := .write reg peer off (m ||| mask) (mergeLine d data mask) (n + 1) }
    else none
  | .block .. | .note .. => none

/-- The merge of a write into its class queue's tail, if it qualifies (R26). -/
def tryMerge (s : State) (e : RegionIx) (line : Nat) (mask : ByteMask) (data : Line) : Option State :=
  let q := (s.entry e).queue
  match (s.capture.queueOf q).getLast? with
  | some r =>
    match mergeInto s.capture.boundary e line mask data r with
    | some r' => some (s.modCapture fun c => c.setQueue q ((c.queueOf q).dropLast ++ [r']))
    | none => none
  | none => none

/-- The Capture Unit takes a write: it merges, or takes a free slot; none if it finds neither (R25). -/
def captureWrite (s : State) (e : RegionIx) (a : Nat) (mask : ByteMask) (data : Line) : Option State :=
  let en := s.entry e
  let line := lineOffset en a
  match tryMerge s e line mask data with
  | some t => some (count (count t .capturedWrites) .mergedWrites)
  | none =>
    if 0 < freeSlots s en.queue then
      some (count (appendRecord s en.queue (.write e en.peer line mask (underMask data mask) 1)) .capturedWrites)
    else none

/-! ## Block buffers (R82) -/

/-- A block buffer is freed. -/
def freeBuffer (s : State) (b : Fin 4) : State := s.modResync fun r => { r with buffers := setAt r.buffers b none }

/-- The buffer of a record that has gone is freed (R21). -/
def freeRecordBuffer (s : State) (r : Record) : State :=
  match r.buffer with
  | some b => freeBuffer s b
  | none => s

/-- Buffers held (R82). -/
def buffersHeld (r : Resync) : Nat := (r.buffers.toList.filter Option.isSome).length

/-- A free block buffer, the lowest. -/
def freeBuffer? (r : Resync) : Option (Fin 4) := (List.finRange 4).find? fun b => (r.buffers[b]).isNone

/-! ## Fences (chapter 6) -/

/-- A fence's scope holds an entry. -/
def Fence.covers (f : Fence) (e : RegionIx) : Bool := f.scope.any fun x => x.entry == e

/-- FENCE_DONE of a fence (R107). -/
def fenceEvent (f : Fence) (outcome : FenceOutcome) (cause : FenceCause) (region : Option RegionIx) : Event :=
  .fenceDone outcome cause f.tag region f.boundary

/-- The fences that a test picks leave the list and complete, in list order (R103, R104, R105). -/
def completeFences (s : State) (p : Fence → Bool) (outcome : FenceOutcome) (cause : FenceCause)
    (region : Option RegionIx) : State :=
  (s.fences.filter p).foldl (fun t f => emit t (fenceEvent f outcome cause region))
    (s.modFences fun fs => fs.filter fun f => !p f)

/-- The pending fences with an entry in their scope complete NOT_DURABLE (R104). -/
def failFences (s : State) (e : RegionIx) (cause : FenceCause) : State :=
  completeFences s (fun f => f.covers e) .notDurable cause (some e)

/-- Every record held in a send queue or the replay list. -/
def heldRecords (s : State) : List Record :=
  s.capture.sync ++ s.capture.async ++ s.tx.replay.map Replayed.record

/-- A record keeps a scope entry waiting (R102). -/
def keepsWaiting (boundary : BitVec 48) (x : ScopeEntry) (r : Record) : Bool :=
  r.region == some x.entry &&
    (capBelow r.cap boundary ||
      match x.wait with
      | .upTo c => r.cap == c || capBelow r.cap c
      | .none | .waiting => false)

/-- The durability test of a fence (R102). -/
def fencePasses (s : State) (f : Fence) : Bool :=
  f.scope.all fun x => x.wait != .waiting && (heldRecords s).all fun r => !keepsWaiting f.boundary x r

/-- The durability test of every pending fence; it completes fences while the session is UP (R102, R103). -/
def fenceTest (s : State) : State :=
  if s.session.state = .up then completeFences s (fencePasses s) .durable .none none else s

/-- An entry leaves the scope of every pending fence (R106). -/
def leaveScopes (s : State) (e : RegionIx) : State :=
  s.modFences fun fs => fs.map fun f => { f with scope := f.scope.filter fun x => x.entry != e }

/-- The Resync Engine reports the end of a switch segment with the capture number of its last BLOCK record (R90,
R101). -/
def switchEnded (s : State) (e : RegionIx) (cap : BitVec 48) : State :=
  fenceTest <| s.modFences fun fs => fs.map fun f =>
    { f with scope := f.scope.map fun x =>
        if x.entry = e ∧ x.wait = .waiting then { x with wait := .upTo cap } else x }

/-- The Resync Engine reports the abandonment of a switch segment (R90, R104). -/
def switchAbandoned (s : State) (e : RegionIx) : State := failFences s e .resyncAbandoned

/-! ## Claims on region state (R8, R10) -/

/-- A claim to LAGGING with its cause; the fences in scope complete with theirs (R8, R104). -/
def claimLagging (s : State) (e : RegionIx) (cause : RegionCause) (fence : FenceCause) : State :=
  if (s.entry e).state = .mirrored then
    let s1 := setEntry s e { s.entry e with state := .lagging }
    let s2 := emit s1 (.regionState cause e .source .mirrored .lagging)
    leftMirrored (failFences s2 e fence) e
  else s

/-- The sweep of a session that leaves UP (R10). -/
def sweep (s : State) : State := entryList.foldl (fun t e => claimLagging t e .sessionDown .sessionDown) s

/-! ## Control frames (R59) -/

/-- A control frame is generated: it enters the control list at its tail, with the epoch it carries (R41, R59). -/
def generate (s : State) (body : ControlBody) : State :=
  s.modTx fun t => { t with control := t.control ++ [⟨
    match body with
    | .join .. | .accept .. => 0
    | .part .. | .ack .. | .retry .. | .reject .. => s.session.epoch, body⟩] }

/-- An ACK of the ack point: the unacknowledged completions become 0 and the ack-delay timer stops (R78). -/
def generateAck (s : State) : State :=
  (generate s (.ack s.rx.ackPoint)).modRx fun r => { r with unacked := 0, ackTimer := none }

/-- The session is UP or CLOSING. -/
def inSession (s : State) : Bool := s.session.state = .up || s.session.state = .closing

/-- The JOIN timer starts at the current JOIN_INTERVAL (R46). -/
def startJoinTimer (s : State) : State :=
  s.modSession fun x => { x with joinTimer := some (after s s.params.joinInterval) }

/-- A JOIN is generated and the JOIN timer starts (R46). -/
def sendJoin (s : State) : State :=
  startJoinTimer (generate s (.join s.session.call s.session.lastEpoch))

/-- The answer is sent as an ACCEPT (R47, R49). -/
def sendAnswer (s : State) : State :=
  match s.session.answer with
  | some a => generate s (.accept a.epoch s.session.call a.echo a.last)
  | none => s

/-- The Link Transmitter makes a loss claim: the replay timer stops and it becomes suspended (R71). -/
def claimLoss (s : State) (cause : LossCause) : State :=
  s.modTx fun t => { t with timer := none, suspended := true, lossClaim := some cause }

/-- The time base at which a replay timer started now expires (R68). -/
def replayExpiry (s : State) : BitVec 32 := after s s.params.replayTimeout

/-! ## Freeing entries (R12, R14, R147) -/

/-- A record of the region stands in a send queue or the replay list (R12). -/
def regionHasRecords (s : State) (e : RegionIx) : Bool := (heldRecords s).any fun r => r.region == some e

/-- The pending CLOSE of an entry completes with OK and is cleared (R147). -/
def completeClose (s : State) (e : RegionIx) : State :=
  match (s.cmd.pendingClose)[e] with
  | some tag =>
    done (s.modCmd fun c => { c with pendingClose := setAt c.pendingClose e none }) .ok tag codeClose
      (BitVec.ofNat 8 e.val)
  | none => s

/-- A DRAINING entry becomes FREE: its fields return to 0, its event is requested and it leaves every fence's scope
(R12, R106). -/
def freeSource (s : State) (e : RegionIx) : State :=
  leaveScopes (emit (setEntry s e Entry.zero) (.regionState .drained e .source .draining .free)) e

/-- A DRAINING entry has no record left (R12). -/
def isDrained (s : State) (e : RegionIx) : Bool := (s.entry e).state = .draining && !regionHasRecords s e

/-- The test of R12: a DRAINING entry with no record left becomes FREE and its CLOSE completes. -/
def drainEntry (s : State) (e : RegionIx) : State :=
  if isDrained s e then completeClose (freeSource s e) e else s

/-- The refusal report state of an entry returns to stopped with nothing unreported (R123). -/
def resetReport (s : State) (e : RegionIx) : State :=
  s.modApply fun a => { a with reports := setAt a.reports e ⟨none, 0⟩ }

/-- A LINE entry of the apply queue (R112). -/
def ApplyEntry.isLine (en : ApplyEntry) : Bool :=
  match en.kind with
  | .line .. => true
  | .rejected _ | .note .. => false

/-- The apply queue holds no LINE entry of a RELEASING target (R14). -/
def isReleased (s : State) (e : RegionIx) : Bool :=
  (s.entry e).state = .releasing && !s.apply.queue.any fun en => en.isLine && en.target == some e

/-- The test of R14: a RELEASING target with no LINE entry left becomes FREE; with a pending CLOSE, its event is
requested and the CLOSE completes. -/
def releaseEntry (s : State) (e : RegionIx) : State :=
  if isReleased s e then
    let s1 := resetReport (setEntry s e Entry.zero) e
    if ((s.cmd.pendingClose)[e]).isSome then
      completeClose (emit s1 (.regionState .released e .target .releasing .free)) e
    else s1
  else s

/-! ## RESTARTED (R168) -/

/-- RESTARTED is produced and command taking resumes, once nothing outstanding at the RESTART is unanswered. -/
def finishRestart (s : State) : State :=
  match s.cmd.waiting with
  | some w => if w.due = 0 then emit (s.modCmd fun c => { c with waiting := none }) (.restarted w.tag) else s
  | none => s

/-- An injected request has been answered: the number recorded at a RESTART falls by one (R168; notes/assumptions/29.md).
DESIGN CHOICE: RESTARTED is requested behind the events that the answer itself brings (R155, R168;
notes/assumptions/38.md). -/
def injectedAnswered (s : State) : State :=
  finishRestart <| s.modCmd fun c =>
    { c with waiting := c.waiting.map fun w => { w with due := w.due - 1 } }

end Sys2Proof.Machine
end

