-- ==== Sys2Proof/Machine/ApplyEngine.lean ====
section
/-! DEFINITION. The receiving half: validation and acceptance (R75, R76, R113, R114), completion of apply entries
(R116 to R118), the ack point (R77, R78), the issue point (R115) and the apply queue at RESTART (R121). -/

namespace Sys2Proof.Machine

/-! ## The queue -/

/-- Free entries of the apply queue (R111). -/
def freeEntries (s : State) : Nat := Config.applySlots - s.apply.queue.length

/-- A marker entry, or a LINE entry with an empty mask: it issues nothing and completes when it is the oldest
(R115, R116). -/
def ApplyEntry.passive (en : ApplyEntry) : Bool :=
  match en.kind with
  | .line _ mask _ _ => mask == 0
  | .rejected _ | .note .. => true

/-- The entry at the issue point marked ISSUED, with that entry: the oldest LINE entry not yet issued whose mask is
not empty (R115). -/
def issueNext : List ApplyEntry → Option (ApplyEntry × List ApplyEntry)
  | [] => none
  | en :: rest =>
    if !en.issued && !en.passive then some (en, { en with issued := true } :: rest)
    else match issueNext rest with
      | some (x, rest') => some (x, en :: rest')
      | none => none

/-- Entries issued and not answered (R111). -/
def issuedEntries (s : State) : Nat := (s.apply.queue.filter ApplyEntry.issued).length

/-- How many of the oldest entries leave the queue up to the youngest LINE entry of a line; 0 if there is none
(R124). -/
def waitFor (a : Addr) : List ApplyEntry → Nat
  | [] => 0
  | en :: rest =>
    let n := waitFor a rest
    if 0 < n then n + 1
    else match en.kind with
      | .line addr _ _ _ => if addr = a then 1 else 0
      | .rejected _ | .note .. => 0

/-- The APPLY_PENDING hold has `n` more entries to wait for; at 0 it ends (R124, R132). -/
def setApplyWait (s : State) (n : Nat) : State :=
  if s.mem.hold = .applyPending then
    if n = 0 then (endHold s).modMem fun m => { m with applyWait := 0 } else s.modMem fun m => { m with applyWait := n }
  else s

/-! ## Completion -/

/-- The Link Receiver takes a record's completion: the ack point, the unacknowledged completions and the ack-delay
timer (R74, R77, R78). -/
def ackCompletion (s : State) (seq : BitVec 32) : State :=
  if 0 < s.rx.carried then s.modRx fun r => { r with carried := r.carried - 1 }
  else
    let s1 := s.modRx fun r => { r with ackPoint := seq }
    if inSession s then
      let s2 := s1.modRx fun r =>
        { r with unacked := r.unacked + 1,
                 ackTimer := if r.unacked = 0 then some (after s s.params.ackDelay) else r.ackTimer }
      if s2.rx.unacked = 16 then generateAck s2 else s2
    else s1

/-- The comparison that a record's completion makes for a deferred RETRY, once: with room for record E, RETRY(E) is
generated (R76). -/
def deferredCheck (s : State) : State :=
  if s.rx.compareDue then
    let s1 := s.modRx fun r => { r with compareDue := false }
    match s.rx.deferred with
    | some need =>
      if inSession s && need ≤ freeEntries s then
        (generate s1 (.retry s.rx.expected)).modRx fun r => { r with retrySent := true, deferred := none }
      else s1
    | none => s1
  else s

/-- Step 3 of R116: the Link Receiver takes the completion, and makes the comparison for a deferred RETRY. -/
def receiverStep (s : State) (seq : BitVec 32) : State :=
  deferredCheck ((ackCompletion s seq).modRx fun r => { r with compareDue := true })

/-- The RELEASING test for a completed entry's target (R14, step 4 of R116). -/
def releaseTarget (s : State) (en : ApplyEntry) : State :=
  match en.target with
  | some e => releaseEntry s e
  | none => s

/-- Step 1 of R116: NOTE_RECEIVED for a NOTE (R117). -/
def noteStep (s : State) (en : ApplyEntry) : State :=
  match en.kind with
  | .note tag payload => emit s (.noteReceived tag payload)
  | .line .. | .rejected _ => s

/-- Step 2 of R116: RECORDS_APPLIED, unless the record was rejected or had an error; the head record error becomes
no. -/
def appliedStep (s : State) (en : ApplyEntry) : State :=
  let s1 :=
    match en.kind with
    | .rejected _ => s
    | .line .. | .note .. => if s.apply.headError then s else count s .recordsApplied
  s1.modApply fun a => { a with headError := false }

/-- A record completes with its last entry: the steps of R116, in order. -/
def completeRecord (s : State) (en : ApplyEntry) : State :=
  releaseTarget (receiverStep (appliedStep (noteStep s en) en) en.seq) en

/-- The oldest entry completes and leaves the queue (R116); the last issued entry of a record that a RESTART cut
short completes no record (R121). -/
def completeOldest (s : State) : State :=
  match s.apply.queue with
  | [] => s
  | en :: rest =>
    let s1 := setApplyWait (s.modApply fun a => { a with queue := rest }) (s.mem.applyWait - 1)
    if en.last then completeRecord s1 en
    else if en.cutShort then releaseTarget (s1.modApply fun a => { a with headError := false }) en
    else s1

/-- Passive entries at the front of the queue complete one after another; `fuel` is at least the queue's length
(R116). -/
def completePassive : Nat → State → State
  | 0, s => s
  | fuel + 1, s =>
    match s.apply.queue with
    | [] => s
    | en :: _ => if en.passive then completePassive fuel (completeOldest s) else s

/-- Every passive entry that has become the oldest completes (R116). -/
def settle (s : State) : State := completePassive s.apply.queue.length s

/-- A claim to FAILED of a target entry (R13). -/
def claimFailed (s : State) (e : RegionIx) : State :=
  if (s.entry e).state = .accepting then
    emit (setEntry s e { s.entry e with state := .failed }) (.regionState .applyError e .target .accepting .failed)
  else s

/-- An error response to the oldest entry's write: the FAILED claim, and once per record APPLY_ERROR and, in the
record's own session, REJECT (R118, R119). -/
def applyErrorOf (s : State) (en : ApplyEntry) : State :=
  match en.target, en.kind with
  | some e, .line addr _ _ kind =>
    let s1 := claimFailed s e
    if s1.apply.headError then s1
    else
      let s2 := emit (s1.modApply fun a => { a with headError := true }) (.applyError e en.seq kind addr)
      if en.epoch = s.session.epoch ∧ inSession s then
        generate s2 (.reject en.seq (BitVec.ofNat 8 e.val) .targetFailed)
      else s2
  | _, _ => s

/-- The Apply Engine takes the response to the oldest entry's write (R116, R118). -/
def applyResponse (s : State) (status : Status) : State :=
  match s.apply.queue with
  | [] => s
  | en :: _ =>
    let s1 := match status with
      | .ok => s
      | .error => applyErrorOf s en
    settle (completeOldest s1)

/-! ## Acceptance -/

/-- The outcome of validating a record against the Region Table (R113): the target to apply it to, or the reason it
is rejected. -/
inductive Verdict where
  | apply (e : RegionIx)
  | reject (target : Option RegionIx) (reason : RejectReason)
deriving DecidableEq, Repr

/-- The tests of R113 on a peer region index and whether the position lies beyond a region of size 2^n. -/
def validate (s : State) (peer : BitVec 8) (beyond : Nat → Bool) : Verdict :=
  match regionIx? peer with
  | none => .reject none .noTarget
  | some e =>
    match (s.entry e).state with
    | .accepting => if beyond (s.entry e).sizeExp then .reject (some e) .outOfRange else .apply e
    | .failed => .reject (some e) .targetFailed
    | .free | .lagging | .mirrored | .refused | .draining | .releasing => .reject (some e) .noTarget

/-- The line address of a line offset in a target (R114). -/
def targetLine (s : State) (e : RegionIx) (line : Nat) : Addr :=
  BitVec.ofNat 40 ((s.entry e).base.toNat + 64 * line)

/-- The entries of a valid BLOCK: its 64 lines in ascending address order, the last one last of record (R114). -/
def blockEntries (s : State) (seq : BitVec 32) (e : RegionIx) (block : Nat) (data : BlockData) : List ApplyEntry :=
  (List.range 64).map fun k =>
    ⟨seq, s.session.epoch, some e, .line (targetLine s e (64 * block + k)) fullMask (blockLine data k) .block,
      decide (k = 63), false, false⟩

/-- The entries of a record, and the REJECT that its acceptance generates (R113, R114). -/
def recordEntries (s : State) (seq : BitVec 32) : Inbound → List ApplyEntry × Option ControlBody
  | .write peer line mask data =>
    match validate s peer fun n => 2 ^ (n - 6) ≤ line with
    | .apply e =>
      ([⟨seq, s.session.epoch, some e, .line (targetLine s e line) mask data .write, true, false, false⟩], none)
    | .reject target reason =>
      ([⟨seq, s.session.epoch, target, .rejected reason, true, false, false⟩], some (.reject seq peer reason))
  | .block peer block data =>
    match validate s peer fun n => 2 ^ (n - 12) ≤ block with
    | .apply e => (blockEntries s seq e block data, none)
    | .reject target reason =>
      ([⟨seq, s.session.epoch, target, .rejected reason, true, false, false⟩], some (.reject seq peer reason))
  | .note tag payload => ([⟨seq, s.session.epoch, none, .note tag payload, true, false, false⟩], none)

/-- A record is accepted: its entries join the queue, its REJECT is generated, and E advances (R75, R114). -/
def acceptRecord (s : State) (entries : List ApplyEntry) (reject : Option ControlBody) : State :=
  let s1 := s.modApply fun a => { a with queue := a.queue ++ entries }
  let s2 := match reject with
    | some body => generate s1 body
    | none => s1
  settle <| s2.modRx fun r =>
    { r with expected := seqSucc r.expected, accepted := true, retrySent := false, deferred := none }

/-- A sequenced record whose number is E: accepted if the apply queue has the room it needs, else deferred (R75,
R76). -/
def inOrder (s : State) (seq : BitVec 32) (rec : Inbound) : State :=
  let need := recordEntries s seq rec
  if need.1.length ≤ freeEntries s then acceptRecord s need.1 need.2
  else s.modRx fun r => { r with deferred := some need.1.length }

/-- A gap: RETRY(E) is generated unless one stands or is deferred (R75). -/
def gapRecord (s : State) : State :=
  if s.rx.retrySent = false ∧ s.rx.deferred = none then
    count ((generate s (.retry s.rx.expected)).modRx fun r => { r with retrySent := true }) .gaps
  else s

/-- The Link Receiver takes a sequenced record of the session: duplicate, gap or in order (R75). -/
def receiveRecord (s : State) (seq : BitVec 32) (rec : Inbound) : State :=
  if seq = s.rx.expected then inOrder s seq rec
  else if seqBelow seq s.rx.expected then generateAck (count s .duplicates)
  else if seqBelow s.rx.expected seq then gapRecord s
  else s

/-! ## New session and RESTART -/

/-- Records of an earlier session still draining at entry into UP: those whose last entry is in the queue (R74). -/
def carriedRecords (s : State) : Nat := (s.apply.queue.filter fun en => en.last).length

/-- The entries that a RESTART leaves: the issued ones, each record's last of them marked where the record loses its
last entry (R121). -/
def keepIssued : List ApplyEntry → List ApplyEntry
  | [] => []
  | en :: rest =>
    if en.issued then
      { en with cutShort := en.cutShort || (!en.last && !(rest.head?.map ApplyEntry.issued).getD false) } :: keepIssued rest
    else keepIssued rest

/-- How many of the first `n` entries are issued, and 0 if the `n`-th is not: the wait of an APPLY_PENDING hold after
a RESTART's discards (R121, R124). -/
def waitAfterDiscard (q : List ApplyEntry) (n : Nat) : Nat :=
  if ((q.take n).getLast?.map ApplyEntry.issued).getD false then ((q.take n).filter ApplyEntry.issued).length else 0

/-- An entry at the front of the queue has been issued. -/
def frontIssued (q : List ApplyEntry) : Bool := (q.head?.map ApplyEntry.issued).getD false

/-- The Apply Engine at RESTART: entries not issued are discarded and every refusal report state is reset. The head
record error is kept for the entries of the head record that stay, and becomes no where none stays (R121;
notes/assumptions/32.md). -/
def restartApply (s : State) : State :=
  setApplyWait
    (s.modApply fun a =>
      { a with queue := keepIssued a.queue, headError := a.headError && frontIssued a.queue,
               reports := Vector.replicate 32 ⟨none, 0⟩ })
    (waitAfterDiscard s.apply.queue s.mem.applyWait)

end Sys2Proof.Machine
end

