-- ==== Sys2Proof/Machine/ResyncEngine.lean ====
section
/-! DEFINITION. The Resync Engine: starting a block, turns and takes, the end and the abandonment of a segment
(chapter 5), and entry into REFUSED (R9, R36). -/

namespace Sys2Proof.Machine

/-- The send queue of the region of the segment in progress. -/
def segmentQueue (s : State) (sg : Segment) : QueueClass := (s.entry sg.region).queue

/-- A block in WAITING starts when a buffer and a slot in its class queue are both free (R85). -/
def tryStart (s : State) : State :=
  match s.resync.segment, freeBuffer? s.resync with
  | some sg, some b =>
    if s.resync.block = .waiting ∧ 0 < freeSlots s (segmentQueue s sg) then
      s.modResync fun r =>
        { r with block := .reading, issued := 0, taken := 0, reserved := some (b, segmentQueue s sg),
                 buffers := setAt r.buffers b (some 0) }
    else s
  | _, _ => s

/-- The eligible region that a search from the turn pointer finds first (R83). -/
def eligible? (s : State) : Option RegionIx :=
  (entryList.map fun i => s.resync.turn + i).find? fun e => (s.entry e).state == .lagging

/-- The segment that a take finds: the first dirty one from the cursor upward, wrapping (R84). -/
def takenSegment (dirty : List Nat) (cursor : Nat) : Option Nat :=
  match dirty.find? fun k => cursor ≤ k with
  | some k => some k
  | none => dirty.head?

/-- The convergence mark: a lagging region with no dirty segment has the one at its cursor marked (R84). -/
def convergenceMark (s : State) (e : RegionIx) : State :=
  if (s.entry e).dirty = [] then mark s e (s.entry e).cursor else s

/-- The Region Table takes a segment of a LAGGING region: the mark is cleared, the cursor moves past it, and a take
of the last dirty segment makes the region MIRRORED (R7, R84). -/
def clearTaken (s : State) (e : RegionIx) (k : Nat) : State :=
  let en := s.entry e
  let rest := en.dirty.filter (· ≠ k)
  let en' := { en with dirty := rest, cursor := (k + 1) % segCount en.sizeExp }
  if rest = [] then
    emit (setEntry s e { en' with state := .mirrored }) (.regionState .converged e .source .lagging .mirrored)
  else setEntry s e en'

/-- The taken segment becomes the segment in progress, its first block WAITING (R84, R88). -/
def beginSegment (s : State) (e : RegionIx) (k : Nat) : State :=
  s.modResync fun r =>
    { r with turn := e + 1, block := .waiting,
             segment := some ⟨e, k, k * segBlocks (s.entry e).sizeExp, (s.entry e).state == .mirrored⟩ }

/-- A turn: the next eligible region has one segment taken, and its first block is tried (R83, R84). -/
def resyncTurnOf (s : State) : State :=
  if s.session.state = .up ∧ s.resync.segment = none ∧ s.resync.block = .idle then
    match eligible? s with
    | some e =>
      let s1 := convergenceMark s e
      match takenSegment (s1.entry e).dirty (s1.entry e).cursor with
      | some k => tryStart (beginSegment (clearTaken s1 e k) e k)
      | none => s1
    | none => s
  else s

/-- The block under way is released: its buffer and slot are free, the responses due join responses to discard, and a
BLOCK_READ hold ends (R91, R92). -/
def releaseBlock (s : State) : State :=
  match s.resync.reserved with
  | some (b, q) =>
    let s1 := freeBuffer s b
    let s2 := s1.modResync fun r =>
      { r with block := .idle, issued := 0, taken := 0, reserved := none, toDiscard := r.toDiscard + (r.issued - r.taken) }
    slotFreed (endHoldOf s2 .blockRead) q
  | none => s.modResync fun r => { r with block := .idle, issued := 0, taken := 0 }

/-- The segment in progress becomes absent; the abandonment of a switch segment is reported (R90, R92). -/
def dropSegment (s : State) (sg : Segment) : State :=
  let s1 := s.modResync fun r => { r with segment := none }
  if sg.switch then switchAbandoned s1 sg.region else s1

/-- The segment in progress is abandoned with its block released at once, and is marked where `marked` says so
(R92). -/
def abandonSegment (s : State) (marked : Bool) : State :=
  match s.resync.segment with
  | some sg =>
    let s1 := releaseBlock s
    dropSegment (if marked then mark s1 sg.region sg.index else s1) sg
  | none => s

/-- A block in DISCARDING is released at once (R95, R96). -/
def releaseDiscarding (s : State) : State := if s.resync.block = .discarding then releaseBlock s else s

/-- The session leaves UP: the segment in progress is abandoned and marked, and no block stays under way (R94,
R96). -/
def resyncLeavesUp (s : State) : State := releaseDiscarding (abandonSegment s true)

/-- The last response of a block in DISCARDING has been taken, or none was due: its buffer and slot are released
(R96). -/
def endDiscarding (s : State) : State :=
  if s.resync.block = .discarding ∧ s.resync.taken = s.resync.issued then releaseBlock s else s

/-- A CLOSE of the region abandons its segment in progress without a mark; a block in READING goes on in DISCARDING
until the responses due have come back (R11, R92, R96). The turn that R83 allows after it is left to a RESYNC_TURN
(notes/assumptions/11.md). -/
def closeSegment (s : State) (e : RegionIx) : State :=
  match s.resync.segment with
  | some sg =>
    if sg.region = e then
      let s1 := s.modResync fun r => { r with block := if r.block = .reading then .discarding else .idle }
      endDiscarding (dropSegment (endHoldOf s1 .blockRead) sg)
    else s
  | none => s

/-- The segment ends with its last BLOCK record, of capture number `cap`; the next turn begins (R87, R90), after the
fences that the report completes (notes/assumptions/31.md). -/
def endSegment (s : State) (sg : Segment) (cap : BitVec 48) : State :=
  let en := s.entry sg.region
  let s1 := setEntry s sg.region { en with errorReported := en.errorReported.filter (· ≠ sg.index) }
  let s2 := s1.modResync fun r => { r with segment := none }
  resyncTurnOf (if sg.switch then switchEnded s2 sg.region cap else s2)

/-- The block's 64th response was good: the reserved slot becomes occupied by its BLOCK record, and the next block of
the segment is tried or the segment ends (R35, R86, R87). DESIGN CHOICE: while the segment's next block cannot start, its
state is WAITING and not IDLE (R81, R85, R86, R92; notes/assumptions/37.md). -/
def finishBlock (s : State) (sg : Segment) (b : Fin 4) (q : QueueClass) : State :=
  let cap := s.capture.counter
  let en := s.entry sg.region
  let s1 := appendRecord s q (.block sg.region en.peer sg.nextBlock b)
  let more : Bool := decide (sg.nextBlock + 1 < (sg.index + 1) * segBlocks en.sizeExp)
  let s2 := s1.modResync fun r =>
    { r with block := if more then .waiting else .idle, issued := 0, taken := 0, reserved := none,
             segment := some { sg with nextBlock := sg.nextBlock + 1 } }
  let s3 := endHoldOf s2 .blockRead
  if more then tryStart s3 else endSegment s3 sg cap

/-- A good response fills the block buffer at the line's place (R86). -/
def goodRead (s : State) (data : Line) : State :=
  match s.resync.segment, s.resync.reserved with
  | some sg, some (b, q) =>
    let s1 := s.modResync fun r =>
      { r with buffers := setAt r.buffers b ((r.buffers[b]).map fun d => setBlockLine d r.taken data)
               taken := r.taken + 1 }
    if s1.resync.taken = 64 then finishBlock s1 sg b q else s1
  | _, _ => s

/-- The RESYNC_READ_ERROR of a segment, at most once until its flag is cleared (R91). -/
def reportReadError (s : State) (sg : Segment) (line : Nat) : State :=
  let en := s.entry sg.region
  if en.errorReported.contains sg.index then s
  else
    emit (setEntry s sg.region { en with errorReported := insertSeg sg.index en.errorReported })
      (.resyncReadError sg.region sg.index sg.nextBlock line)

/-- An error response to a read of the block in READING abandons it, and the next turn begins (R83, R91). The abandonment
completes its fences before that turn takes a segment of any region (notes/assumptions/31.md). -/
def badRead (s : State) : State :=
  match s.resync.segment with
  | some sg =>
    let line := 64 * sg.nextBlock + s.resync.taken
    let s1 := s.modResync fun r => { r with taken := r.taken + 1 }
    let s2 := mark (releaseBlock s1) sg.region sg.index
    resyncTurnOf (dropSegment (reportReadError s2 sg line) sg)
  | none => s

/-- The Resync Engine takes the response to a read (R86, R91, R96). -/
def resyncResponse (s : State) (status : Status) (data : Line) : State :=
  if 0 < s.resync.toDiscard then s.modResync fun r => { r with toDiscard := r.toDiscard - 1 }
  else
    match s.resync.block with
    | .reading =>
      match status with
      | .ok => goodRead s data
      | .error => badRead s
    | .discarding =>
      let s1 := s.modResync fun r => { r with taken := r.taken + 1 }
      if s1.resync.taken = s1.resync.issued then resyncTurnOf (endDiscarding s1) else s1
    | .idle | .waiting => s

/-! ## Entry into REFUSED (R9, R36) -/

/-- Every record of a region leaves the send queues: its slots and the buffers of its BLOCK records are freed
(R36). -/
def removeQueued (s : State) (e : RegionIx) : State :=
  let ofRegion := fun r : Record => r.region == some e
  let gone := (s.capture.sync ++ s.capture.async).filter ofRegion
  let s1 := s.modCapture fun c =>
    { c with sync := c.sync.filter fun r => !ofRegion r, async := c.async.filter fun r => !ofRegion r }
  let s2 := gone.foldl freeRecordBuffer s1
  if s.capture.sync.any ofRegion then slotFreed s2 .sync else s2

/-- A segment in progress of a region is abandoned without a mark (R9, R92). -/
def abandonOf (s : State) (e : RegionIx) : State :=
  match s.resync.segment with
  | some sg => if sg.region = e then abandonSegment s false else s
  | none => s

/-- A claim to REFUSED (R9): a MIRRORED or LAGGING region is refused, its fences fail, every segment is marked, its
queued records are removed and its segment in progress is abandoned. The fences in scope complete by the refusal,
also where the segment is the region's switch segment (notes/assumptions/30.md), and the turn that R83 allows after the
abandonment is left to a RESYNC_TURN (notes/assumptions/11.md). -/
def claimRefused (s : State) (e : RegionIx) : State :=
  let en := s.entry e
  if en.state = .mirrored ∨ en.state = .lagging then
    let s1 := setEntry s e { en with state := .refused }
    let s2 := emit s1 (.regionState .rejected e .source en.state .refused)
    let s3 := markAll (failFences s2 e .regionRefused) e
    fenceTest (leftMirrored (abandonOf (removeQueued s3 e) e) e)
  else s

end Sys2Proof.Machine
end

