-- ==== Sys2Proof/Machine/Sessions.lean ====
section
/-! DEFINITION. Sessions: entering CALLING and UP (R46, R48), the conversion of records at a loss or a RESTART (R37,
R38, R72, R73), the teardown (R55), the drain test (R51), entry into CLOSING (R50), JOIN and ACCEPT (R47, R49). -/

namespace Sys2Proof.Machine

/-! ## Conversion of records -/

/-- A record of a LAGGING region marks its segment; a record of any other region makes no mark (R37, R38, R72,
R73). -/
def markRecord (s : State) (r : Record) : State :=
  match r.body with
  | .write e _ line _ _ _ =>
    if (s.entry e).state = .lagging then mark s e (segOfLine (s.entry e).sizeExp line) else s
  | .block e _ block _ =>
    if (s.entry e).state = .lagging then mark s e (segOfBlock (s.entry e).sizeExp block) else s
  | .note .. => s

/-- A discarded NOTE's SEND_NOTE completes with LOST (R37, R72). -/
def loseNote (s : State) (r : Record) : State :=
  match r.body with
  | .note tag _ => done s .lost tag codeSendNote
  | .write .. | .block .. => s

/-- The DRAINING region of a discarded record becomes FREE if it was the last (R12). -/
def drainRegionOf (s : State) (r : Record) : State :=
  match r.region with
  | some e => drainEntry s e
  | none => s

/-- A record that a loss or a RESTART takes is converted or discarded. At a loss, a NOTE's command completes LOST and
a DRAINING region that loses its last record becomes FREE; a RESTART reports nothing (R37, R38, R72, R73). -/
def convertRecord (atLoss : Bool) (s : State) (r : Record) : State :=
  let s1 := freeRecordBuffer (markRecord s r) r
  if atLoss then drainRegionOf (loseNote s1 r) r else s1

/-- The replay list is converted, oldest first (R72, R73). -/
def convertReplay (atLoss : Bool) : List Replayed → State → State
  | [], s => s
  | r :: rest, s => convertReplay atLoss rest (convertRecord atLoss (s.modTx fun t => { t with replay := rest }) r.record)

/-- The queues' records from the oldest to the newest by capture number (R37); `fuel` is at least their number. -/
def mergeByCap : Nat → List Record → List Record → List (QueueClass × Record)
  | 0, _, _ => []
  | _ + 1, [], bs => bs.map fun b => (.async, b)
  | _ + 1, as, [] => as.map fun a => (.sync, a)
  | fuel + 1, a :: as, b :: bs =>
    if capBelow b.cap a.cap then (.async, b) :: mergeByCap fuel (a :: as) bs
    else (.sync, a) :: mergeByCap fuel as (b :: bs)

/-- A record at the head of its queue leaves it, which frees its slot (R24). -/
def popQueue (s : State) (q : QueueClass) : State :=
  slotFreed (s.modCapture fun c => c.setQueue q (c.queueOf q).tail) q

/-- The records of the send queues are converted in the given order (R37, R38). -/
def convertQueued (atLoss : Bool) : List (QueueClass × Record) → State → State
  | [], s => s
  | (q, r) :: rest, s => convertQueued atLoss rest (convertRecord atLoss (popQueue s q) r)

/-- Both send queues are converted, oldest first (R37, R38). -/
def convertQueues (atLoss : Bool) (s : State) : State :=
  convertQueued atLoss
    (mergeByCap (s.capture.sync.length + s.capture.async.length + 1) s.capture.sync s.capture.async) s

/-! ## Session states -/

/-- Entry into CALLING, apart from its JOIN (R46). -/
def enterCalling (s : State) : State :=
  s.modSession fun x =>
    { x with state := .calling, call := wrapSucc x.call, epoch := 0, answer := none, refusalReported := false }

/-- On entry into CALLING with the carrier present, a JOIN is generated and its timer starts (R46). -/
def beginCalling (s : State) : State := if s.session.carrier then sendJoin s else s

/-- Entry into DISABLED: the epoch becomes 0 and the JOIN timer stops (R44). -/
def enterDisabled (s : State) : State :=
  s.modSession fun x => { x with state := .disabled, epoch := 0, joinTimer := none }

/-- Every generated control frame not yet transmitted is discarded (R59). -/
def clearControl (s : State) : State := s.modTx fun t => { t with control := [] }

/-! ## The teardown (R55) -/

/-- The number of the highest record accepted in the session; 0 if none (R74). -/
def highestAccepted (r : Receiver) : BitVec 32 := if r.accepted then seqPred r.expected else 0

/-- Step 1: the session state, and the sweep of a session that was UP. -/
def lossState (s : State) : State :=
  if s.session.state = .up then sweep (enterCalling s) else enterDisabled s

/-- Step 2: the control list by the cause, the transmitter's fields, and the replay list (R72). -/
def lossTransmitter (s : State) (cause : LossCause) : State :=
  let s1 := if cause = .disconnected then s else clearControl s
  let s2 := s1.modTx fun t =>
    { t with timer := none, cursor := none, timeouts := 0, syncRun := 0, suspended := false }
  convertReplay true s2.tx.replay s2

/-- Step 5: the fences still pending complete NOT_DURABLE (R105). -/
def failAllFences (s : State) : State := completeFences s (fun _ => true) .notDurable .sessionDown none

/-- Step 8: a pending DISCONNECT completes with OK. -/
def completeDisconnect (s : State) : State :=
  match s.session.pendingDisconnect with
  | some tag => done (s.modSession fun x => { x with pendingDisconnect := none }) .ok tag codeDisconnect
  | none => s

/-- The teardown of a lost session, step by step (R55); `part` is the number that a PART carried. -/
def loseSession (s : State) (cause : LossCause) (part : BitVec 32) : State :=
  let wasUp : Bool := decide (s.session.state = .up)
  let s2 := lossTransmitter (lossState s) cause
  let s3 := convertQueues true s2
  let s4 := if wasUp then resyncLeavesUp s3 else s3
  let s5 := failAllFences s4
  let s6 := s5.modRx fun r => { r with ackTimer := none }
  let s7 := emit s6 (.sessionDown cause s.session.epoch s6.tx.highest (highestAccepted s6.rx) part)
  let s8 := completeDisconnect s7
  if wasUp then beginCalling s8 else s8

/-- The send queues and the replay list are empty (R51). -/
def isDry (s : State) : Bool := s.capture.sync.isEmpty && s.capture.async.isEmpty && s.tx.replay.isEmpty

/-- The drain test of CLOSING: when it passes, the last ACK if due, the PART, and the end of the session (R51). -/
def drainTest (s : State) : State :=
  if s.session.state = .closing ∧ isDry s then
    let s1 := if 0 < s.rx.unacked then generateAck s else s
    loseSession (generate s1 (.part s1.tx.highest)) .disconnected 0
  else s

/-- Entry into CLOSING on a DISCONNECT taken in UP, which becomes the pending DISCONNECT (R50). -/
def enterClosing (s : State) (tag : BitVec 16) : State :=
  let s1 := s.modSession fun x => { x with state := .closing, enable := false, pendingDisconnect := some tag }
  drainTest (failAllFences (resyncLeavesUp (sweep s1)))

/-! ## JOIN and ACCEPT -/

/-- The epoch that follows the larger of two last epochs (R47). -/
def nextEpoch (a b : BitVec 16) : BitVec 16 := wrapSucc (if a.toNat < b.toNat then b else a)

/-- Why a JOIN is refused, if it is (R47). -/
def joinRefusal (s : State) (j : JoinFields) : Option RefusalCause :=
  if j.sender = s.loader.prom.unitId then some .sameUnit
  else if j.version ≠ Config.protocolVersion then some .version
  else none

/-- A refused JOIN: one JOIN_REFUSED per call number (R47). -/
def refuseJoin (s : State) (j : JoinFields) (cause : RefusalCause) : State :=
  if s.session.refusalReported then s
  else emit (s.modSession fun x => { x with refusalReported := true }) (.joinRefused cause j.sender j.version)

/-- A JOIN that is not refused, taken in CALLING, is answered (R47). -/
def answerJoin (s : State) (j : JoinFields) : State :=
  let s1 := s.modSession fun x =>
    { x with peerUnit := j.sender, peerCall := j.call,
             answer := some ⟨nextEpoch x.lastEpoch j.last, j.call, x.lastEpoch⟩ }
  startJoinTimer (sendAnswer s1)

/-- A JOIN taken in CALLING (R47). -/
def joinInCalling (s : State) (j : JoinFields) : State :=
  match joinRefusal s j with
  | some cause => refuseJoin s j cause
  | none => answerJoin s j

/-- A JOIN taken in UP or CLOSING (R49). -/
def joinInSession (s : State) (j : JoinFields) : State :=
  match joinRefusal s j with
  | some cause => refuseJoin s j cause
  | none =>
    if j.sender = s.session.peerUnit ∧ j.call = s.session.peerCall then sendAnswer s
    else if s.session.state = .up then joinInCalling (loseSession s .peerRejoined 0) j
    else loseSession s .peerRejoined 0

/-- An ACCEPT is valid (R48). -/
def acceptValid (s : State) (a : AcceptFields) : Bool :=
  a.sender != s.loader.prom.unitId && a.echo == s.session.call && a.epoch == nextEpoch s.session.lastEpoch a.last

/-- Entry into UP under an epoch: both link halves start afresh and SESSION_UP is requested (R48). -/
def enterUp (s : State) (epoch : BitVec 16) : State :=
  let s1 := s.modSession fun x => { x with state := .up, epoch := epoch, lastEpoch := epoch, joinTimer := none }
  let s2 := s1.modTx fun t =>
    { t with replay := [], next := 1, highest := 0, cursor := none, timer := none, timeouts := 0, syncRun := 0,
             suspended := false, lossClaim := none }
  let s3 := s2.modRx fun _ =>
    { expected := 1, accepted := false, retrySent := false, deferred := none, ackPoint := 0, unacked := 0,
      ackTimer := none, carried := carriedRecords s2, compareDue := false }
  emit s3 (.sessionUp epoch s.session.peerUnit s.session.peerCall s.session.call)

/-- The part has already sent the ACCEPT that answers `a` (R48). -/
def answerMatches (s : State) (a : AcceptFields) : Bool :=
  match s.session.answer with
  | some x => x.epoch == a.epoch && x.echo == a.call
  | none => false

/-- A valid ACCEPT taken in CALLING: answered unless that answer was sent, then the part enters UP (R48). -/
def takeAccept (s : State) (a : AcceptFields) : State :=
  let s1 := s.modSession fun x => { x with peerUnit := a.sender, peerCall := a.call }
  let s2 :=
    if answerMatches s a then s1
    else sendAnswer (s1.modSession fun x => { x with answer := some ⟨a.epoch, a.call, x.lastEpoch⟩ })
  enterUp s2 a.epoch

end Sys2Proof.Machine
end

