-- ==== Sys2Proof/Machine/MemoryPath.lean ====
section
/-! DEFINITION. The Memory Path: presentation of the head request (R130, R131), the response list (R135), the
memory-port arbiter (R138, R139) and the routing of responses (R136). -/

namespace Sys2Proof.Machine

/-! ## Responses to the masters (R135) -/

/-- The response that a READY entry returns (R128). -/
def masterResponse (r : RespEntry) : MasterResponse := ⟨r.isRead, r.tag, r.status, r.data⟩

/-- READY entries at the front of the response list are returned to their masters (R135). -/
def returnReady (s : State) : State :=
  let ready := s.mem.responses.takeWhile fun r => r.ready
  (s.modOut fun o => { o with toMasters := o.toMasters ++ ready.map masterResponse }).modMem fun m =>
    { m with responses := m.responses.dropWhile fun r => r.ready }

/-- The tag of a request. -/
def requestTag : SysRequest → BitVec 16
  | .read tag _ _ => tag
  | .write tag _ _ _ => tag

def requestIsRead : SysRequest → Bool
  | .read .. => true
  | .write .. => false

/-- A request as the memory port carries it (R128). -/
def requestForm : SysRequest → MemForm
  | .read _ addr len => .read addr len
  | .write _ addr mask data => .write addr mask data

/-- A READ that is not within one line, or whose length is not 1 to 64 (R128). -/
def malformed : SysRequest → Bool
  | .read _ addr len => len == 0 || 64 < len || 64 < addr.toNat % 64 + len
  | .write .. => false

/-- The sixteen places of the response list. -/
def places : List (BitVec 4) := (List.range 16).map (BitVec.ofNat 4)

/-- The place that the next entry of the response list takes: the lowest that no entry holds (R136;
notes/assumptions/4.md). -/
def nextPlace (rs : List RespEntry) : BitVec 4 := (places.find? fun p => rs.all fun r => r.place != p).getD 0

/-- The head request leaves the head with an entry in the response list, and the first of the requests that wait
behind it becomes the head (R130). -/
def leaveHead (s : State) (r : RespEntry) : State :=
  s.modMem fun m =>
    { m with head := m.behind.head?, behind := m.behind.tail, presented := false, limitExpired := false,
             responses := m.responses ++ [r] }

/-- The head request is issued to the memory port, with the region index that R33 keeps; its internal tag names its
place in the response list (R130, R135, R136, R138). -/
def issueHead (s : State) (req : SysRequest) (region : Option RegionIx) : State :=
  let place := nextPlace s.mem.responses
  (leaveHead s ⟨place, requestTag req, requestIsRead req, region, false, .ok, []⟩).modMem fun m =>
    { m with run := min 3 (m.run + 1), outstanding := m.outstanding ++ [⟨.passThrough, 0#1 ++ place, requestForm req⟩] }

/-- The part answers the head request itself, with an error and no data (R128, R130, R135). -/
def answerHead (s : State) (req : SysRequest) : State :=
  returnReady
    (leaveHead s ⟨nextPlace s.mem.responses, requestTag req, requestIsRead req, none, true, .error, []⟩)

/-- The head request is held (R132). -/
def holdHead (s : State) (r : HoldReason) : State := s.modMem fun m => { m with hold := r, presented := true }

/-! ## Presentation of a write (R131) -/

/-- The Apply Engine takes a refusal: TARGET_WRITE_REFUSED, at most once per quiet time (R123). -/
def refusalReport (s : State) (e : RegionIx) (a : Nat) : State :=
  let rep := (s.apply.reports)[e]
  match rep.timer with
  | none =>
    emit (s.modApply fun x => { x with reports := setAt x.reports e ⟨some (after s Config.quietTime), 0⟩ })
      (.targetWriteRefused e (BitVec.ofNat 40 a) rep.unreported)
  | some _ =>
    s.modApply fun x => { x with reports := setAt x.reports e { rep with unreported := min 65535 (rep.unreported + 1) } }

/-- A write into a target range is refused with an error response (R122). -/
def refuseWrite (s : State) (req : SysRequest) (e : RegionIx) (a : Nat) : State :=
  answerHead (refusalReport (count s .targetWritesRefused) e a) req

/-- A write issued without being captured: its segment is marked and LAGGING is claimed (R29, R30, R31, R133). -/
def issueUncaptured (s : State) (req : SysRequest) (e : RegionIx) (a : Nat) (cause : RegionCause) : State :=
  claimLagging (markAddr (issueHead s req (some e)) e a) e cause .regionLagging

/-- The line lies in the block that the Resync Engine is reading (R89). -/
def inBlockRead (s : State) (e : RegionIx) (a : Nat) : Bool :=
  match s.resync.segment with
  | some sg => s.resync.block = .reading && sg.region = e && lineOffset (s.entry e) a / 64 = sg.nextBlock
  | none => false

/-- A SYNC_FULL hold begins, with the HOLD_LIMIT of this moment (R28, R133). -/
def holdSyncFull (s : State) : State :=
  (holdHead (count s .holds) .syncFull).modMem fun m => { m with holdTimer := some (after s s.params.holdLimit) }

/-- Tests 2 and 3 of R131: a write into a MIRRORED region. -/
def presentMirrored (s : State) (req : SysRequest) (e : RegionIx) (a : Nat) (mask : ByteMask) (data : Line) : State :=
  if inBlockRead s e a then holdHead s .blockRead
  else if s.mem.limitExpired ∧ (s.entry e).queue = .sync then issueUncaptured s req e a .holdExpired
  else match captureWrite s e a mask data with
    | some t => issueHead t req (some e)
    | none =>
      match (s.entry e).queue with
      | .sync =>
        if s.params.holdLimit = 0 then issueUncaptured (count s .holdExpiries) req e a .holdExpired
        else holdSyncFull s
      | .async => issueUncaptured s req e a .queueFull

/-- Tests 5 and 6 of R131, and partial control writes: a write to the control page (R142). -/
def presentControl (s : State) (req : SysRequest) (mask : ByteMask) (data : Line) : State :=
  if mask = fullMask then
    if Config.commandSlots ≤ s.cmd.queue.length then holdHead s .commandFull
    else issueHead (s.modCmd fun c => { c with queue := c.queue ++ [data] }) req none
  else issueHead (count s .controlErrors) req none

/-- A write is presented (R17, R131). -/
def presentWrite (s : State) (req : SysRequest) (a : Nat) (mask : ByteMask) (data : Line) : State :=
  match classify s a with
  | .control => presentControl s req mask data
  | .region e =>
    match (s.entry e).state with
    | .accepting | .failed | .releasing => refuseWrite s req e a
    | .mirrored => presentMirrored s req e a mask data
    | .lagging | .refused => markAddr (issueHead s req (some e)) e a
    | .draining | .free => issueHead s req none
  | .ring | .unwatched => issueHead s req none

/-- A read is presented: a target read is held at its first presentation while applies to its line are pending (R18,
R124, R131). -/
def presentRead (s : State) (req : SysRequest) (a : Nat) : State :=
  match classify s a with
  | .region e =>
    let n := waitFor (BitVec.ofNat 40 a) s.apply.queue
    if roleOf (s.entry e).state = .target ∧ s.mem.presented = false ∧ 0 < n then
      (holdHead s .applyPending).modMem fun m => { m with applyWait := n }
    else issueHead s req none
  | .control | .ring | .unwatched => issueHead s req none

/-- The head request is presented and issued, answered or held (R131). -/
def present (s : State) (req : SysRequest) : State :=
  match req with
  | .read .. => presentRead s req (requestLine req)
  | .write _ _ mask data => presentWrite s req (requestLine req) mask data

/-- A grant of the memory port to the pass-through requester (R130); in BYPASS nothing is presented (R140). -/
def grantHead (s : State) (req : SysRequest) : State :=
  if malformed req then answerHead s req
  else if s.loader.loadState = .bypass then issueHead s req none
  else present s req

/-! ## The arbiter (R138, R139) -/

/-- A request of an injected source. -/
def MemRequest.injected (r : MemRequest) : Bool := r.source != .passThrough

def MemRequest.fromWriter (r : MemRequest) : Bool :=
  match r.source with
  | .writer _ => true
  | .passThrough | .apply | .resync => false

/-- Injected requests issued and not answered (R129, R137). -/
def injectedOutstanding (s : State) : Nat := (s.mem.outstanding.filter MemRequest.injected).length

/-- The writer's requests issued and not answered (R166). -/
def writerOutstanding (s : State) : Nat := (s.mem.outstanding.filter MemRequest.fromWriter).length

/-- An injected source has a request ready (R138, R166). -/
def hasRequest (s : State) : Injected → Bool
  | .apply => (issueNext s.apply.queue).isSome
  | .resync => s.resync.block = .reading && s.resync.issued < 64
  | .writer =>
    (!s.ev.list.isEmpty || !s.ev.writeOutLines.isEmpty) && writerOutstanding s < Config.writerSlots

/-- Fewer than 16 injected requests are outstanding, so that one more may be issued (R137). -/
def injectedRoom (s : State) : Bool := injectedOutstanding s < Config.portSlots

/-- An injected source is waiting: it has a request ready and fewer than 16 injected requests are outstanding. Whether it
counts as waiting also with 16 outstanding, R137 and R138 say differently, and the model leaves free (R137, R138;
notes/assumptions/33.md). -/
def injectedWaiting (s : State) (i : Injected) : Bool :=
  hasRequest s i && (injectedRoom s || Config.freeWaitsAtLimit)

/-- The cycle of the injected sources (R139). -/
def nextSource : Injected → Injected
  | .apply => .resync
  | .resync => .writer
  | .writer => .apply

/-- The injected source that is granted: the first waiting one in the cycle from the pointer (R139). -/
def grantedSource (s : State) : Option Injected :=
  [s.mem.pointer, nextSource s.mem.pointer, nextSource (nextSource s.mem.pointer)].find? fun i => injectedWaiting s i

/-- The place of an injected source in the cycle of R139. -/
def sourceIndex : Injected → BitVec 4
  | .apply => 0
  | .resync => 1
  | .writer => 2

/-- The internal tag that names an injected source: 16 to 31, another one for each source (R136;
notes/assumptions/4.md). -/
def sourceTag (i : Injected) : BitVec 5 := 1#1 ++ (Config.freeSourceBase + sourceIndex i)

/-- An injected request is issued (R136, R138, R139). -/
def issueInjected (s : State) (i : Injected) (source : MemSource) (form : MemForm) : State :=
  s.modMem fun m =>
    { m with run := 0, pointer := nextSource i, outstanding := m.outstanding ++ [⟨source, sourceTag i, form⟩] }

/-- The Apply Engine's next write (R115). -/
def issueApply (s : State) : State :=
  match issueNext s.apply.queue with
  | some (en, q) =>
    match en.kind with
    | .line addr mask data _ =>
      issueInjected (s.modApply fun a => { a with queue := q }) .apply .apply (.write addr mask data)
    | .rejected _ | .note .. => s
  | none => s

/-- The Resync Engine's next read (R86). -/
def issueResync (s : State) : State :=
  match s.resync.segment with
  | some sg =>
    issueInjected (s.modResync fun r => { r with issued := r.issued + 1 }) .resync .resync
      (.read (BitVec.ofNat 40 ((s.entry sg.region).base.toNat + 4096 * sg.nextBlock + 64 * s.resync.issued)) 64)
  | none => s

/-- The Event Writer's next line: from the event list and the write-out list alternately while both hold lines
(R160, R166). -/
def issueWriter (s : State) : State :=
  match s.ev.list, s.ev.writeOutLines with
  | it :: rest, [] =>
    issueInjected (s.modEv fun e => { e with list := rest, entriesNext := false }) .writer (.writer (.entry it.current))
      (entryWrite it)
  | [], (a, l) :: rest =>
    issueInjected (s.modEv fun e => { e with writeOutLines := rest, entriesNext := true }) .writer (.writer .writeOut)
      (.write a fullMask l)
  | it :: rest, (a, l) :: lines =>
    if s.ev.entriesNext then
      issueInjected (s.modEv fun e => { e with list := rest, entriesNext := false }) .writer
        (.writer (.entry it.current)) (entryWrite it)
    else
      issueInjected (s.modEv fun e => { e with writeOutLines := lines, entriesNext := true }) .writer (.writer .writeOut)
        (.write a fullMask l)
  | [], [] => s

/-- A granted injected source issues one request; with 16 outstanding it waits, and nothing is issued until an answer
comes (R137, R139). -/
def grantInjected (s : State) (i : Injected) : State :=
  if injectedRoom s then
    match i with
    | .apply => issueApply s
    | .resync => issueResync s
    | .writer => issueWriter s
  else s

/-- The pass-through requester's waiting request: the head, not held, with room in the response list (R138). -/
def waitingHead (s : State) : Option SysRequest :=
  if s.mem.hold = .none ∧ s.mem.responses.length < Config.portSlots then s.mem.head else none

/-- One choice of the memory-port arbiter (R138). -/
def arbiterStep (s : State) : State :=
  match grantedSource s, waitingHead s with
  | some i, some req => if s.mem.run = 3 then grantInjected s i else grantHead s req
  | some i, none => grantInjected s i
  | none, some req => grantHead s req
  | none, none => s

/-- The choice grants the pass-through requester (R138). -/
def passGranted (s : State) : Bool := (waitingHead s).isSome && ((grantedSource s).isNone || s.mem.run != 3)

/-- The grant that made `t` of `s` ended in a hold or a part-generated answer: nothing was issued, and the arbiter
chooses again at once (R130, R138). -/
def choosesAgain (s t : State) : Bool := passGranted s && t.mem.outstanding.length == s.mem.outstanding.length

/-- Choices of the arbiter up to the first that issues a request or finds none waiting; `fuel` bounds their number. -/
def arbiterRounds : Nat → State → State
  | 0, s => s
  | fuel + 1, s => if choosesAgain s (arbiterStep s) then arbiterRounds fuel (arbiterStep s) else arbiterStep s

/-- The memory port is ready for a request: the arbiter chooses until it has issued one or none is waiting. Each choice
that is made again takes a request from those that wait, or holds one (R138). -/
def arbiterChoice (s : State) : State := arbiterRounds (s.mem.behind.length + 2) s

/-! ## Responses of memory (R136) -/

/-- The oldest outstanding request leaves, if it is one of a source; memory answers in issue order (R136). An answer to
a request issued before the last reset answers nothing (R174). -/
def takeAnswer (s : State) (answer : MemAnswer) (p : MemSource → Bool) : Option (MemRequest × State) :=
  if answer.preReset then none
  else match s.mem.outstanding with
    | r :: rest => if p r.source then some (r, s.modMem fun m => { m with outstanding := rest }) else none
    | [] => none

/-- The oldest AWAITING entry becomes READY with its status and data (R135). -/
def answerOldest (status : Status) (data : List Byte) : List RespEntry → List RespEntry
  | [] => []
  | r :: rest =>
    if r.ready then r :: answerOldest status data rest
    else { r with ready := true, status := status, data := data } :: rest

/-- The region index of the oldest AWAITING entry (R33). -/
def oldestRegion (rs : List RespEntry) : Option RegionIx :=
  match rs.find? fun r => !r.ready with
  | some r => r.region
  | none => none

/-- The bytes that an answer brings fit its request: as many as a READ's length, none for a WRITE (R128). -/
def answerFits (form : MemForm) (data : List Byte) : Bool :=
  match form with
  | .read _ len => data.length == len
  | .write .. => data.isEmpty

/-- The address of a request's line. -/
def formLine : MemForm → Nat
  | .read addr _ => lineOf addr
  | .write addr _ _ => lineOf addr

/-- An error answer to a write kept with a region index: the mark and the claim of R33. -/
def writeError (s : State) (e : RegionIx) (a : Nat) : State :=
  claimLagging (markAddr s e a) e .writeError .regionLagging

/-- Memory answers a pass-through request (R33, R135). -/
def passThroughAnswer (s : State) (r : MemRequest) (status : Status) (data : List Byte) : State :=
  let s1 := s.modMem fun m => { m with responses := answerOldest status data m.responses }
  let s2 :=
    match status, oldestRegion s.mem.responses with
    | .error, some e => writeError s1 e (formLine r.form)
    | .error, none => s1
    | .ok, _ => s1
  returnReady s2

/-- W advances past an entry of the current ring (R160, R163). -/
def advanceWrite (s : State) : State :=
  s.modEv fun e =>
    attnTest s.params (visible e) { e with write := nextIndex e e.write, unwritten := e.unwritten - 1 }

/-- The write-out completes with OK and its error count, once every line is answered (R154). -/
def completeWriteOut (s : State) : State :=
  match s.cmd.writeOut with
  | some w =>
    if w.left = 0 then
      emit (s.modCmd fun c => { c with writeOut := none })
        (.commandDone .ok w.tag (BitVec.ofNat 16 (if w.isSnapshot then codeSnapshot else codeDumpStats)) 0 w.errors)
    else s
  | none => s

/-- A line of the write-out has been answered (R154). -/
def writeOutAnswered (s : State) (status : Status) : State :=
  match s.cmd.writeOut with
  | some w =>
    completeWriteOut <| s.modCmd fun c =>
      { c with writeOut := some { w with left := w.left - 1
                                         errors := if status = .error then w.errors + 1 else w.errors } }
  | none => s

/-- Memory answers a writer request (R136, R160, R166). -/
def writerAnswer (s : State) (item : WriterItem) (status : Status) : State :=
  match item with
  | .entry true => advanceWrite s
  | .entry false => s
  | .writeOut => writeOutAnswered s status

end Sys2Proof.Machine
end

