-- ==== Sys2Proof/Machine/WriteOuts.lean ====
section
/-! DEFINITION. The contents of a write-out: the statistics block and the SNAPSHOT's session record, session extension
and region records (R154, R167, R178). -/

namespace Sys2Proof.Machine

/-- Bytes cut into lines with their addresses, in ascending order from a destination (R167). -/
def cutLines (dest : Nat) (n : Nat) (bs : List Byte) : List (Addr × Line) :=
  (List.range n).map fun k => (spaceAddr (dest + 64 * k), lineAt bs (64 * k))

/-- The statistics block: counter k at byte 8k (R167). -/
def statsBytes (s : State) : List Byte := s.stats.toList.flatMap fun c => leBytes 8 c.toNat

/-- The value a SNAPSHOT shows in a field whose subject is absent and whose absent value no rule gives: the `k`-th
free value of this SNAPSHOT (notes/assumptions/5.md). -/
def absentField (s : State) (k : Nat) : Nat := (Config.freeAbsentField (s.freeCount + k)).toNat

/-- Free values that one SNAPSHOT may draw: three of the session record and extension, one for each entry. -/
def snapshotDraws : Nat := 35

def bit (b : Bool) (k : Nat) : Nat := if b then 2 ^ k else 0

/-- The base-2 logarithm of the ring's entry count (R178). -/
def log2Count (n : Nat) : Nat := Nat.log2 n

/-- The 64 bytes of the session record (R178). -/
def sessionRecord (s : State) : List Byte :=
  let x := s.session
  leBytes 1 (sessionStateCode x.state) ++
  leBytes 1 (bit x.enable 0 + bit x.carrier 1 + bit x.refusalReported 2 + bit x.answer.isSome 3 +
    bit x.pendingDisconnect.isSome 4 + bit s.ev.attn 6) ++
  [s.loader.prom.unitId, x.peerUnit] ++
  leBytes 2 x.call.toNat ++ leBytes 2 x.lastEpoch.toNat ++ leBytes 2 x.epoch.toNat ++ leBytes 2 x.peerCall.toNat ++
  (match x.answer with
    | some a => leBytes 2 a.epoch.toNat ++ leBytes 2 a.echo.toNat ++ leBytes 2 a.last.toNat
    | none => leBytes 6 0) ++
  leBytes 2 (match x.pendingDisconnect with
    | some tag => tag.toNat
    | none => absentField s 0) ++
  leBytes 6 s.capture.counter.toNat ++ leBytes 6 s.capture.boundary.toNat ++
  leBytes 1 s.capture.sync.length ++ leBytes 1 (reservedIn s .sync + reservedIn s .async) ++
  leBytes 2 s.capture.async.length ++
  leBytes 4 s.tx.next.toNat ++ leBytes 4 s.tx.highest.toNat ++
  leBytes 2 s.tx.replay.length ++ leBytes 2 s.tx.control.length ++
  leBytes 4 ((s.tx.replay.head?.map fun r => r.seq.toNat).getD 0) ++ leBytes 4 ((s.tx.cursor.map BitVec.toNat).getD 0) ++
  leBytes 1 s.tx.timeouts ++ leBytes 1 (bit s.rx.retrySent 0) ++ leBytes 1 (s.rx.deferred.getD 0) ++
  leBytes 1 s.rx.unacked ++ leBytes 4 s.rx.expected.toNat

/-- The 64 bytes of the session extension (R178). The switch segment flag is coded 1 for yes and 0 for no
(notes/assumptions/34.md). -/
def sessionExtension (s : State) : List Byte :=
  leBytes 4 s.rx.ackPoint.toNat ++
  leBytes 1 (buffersHeld s.resync) ++
  leBytes 1 (regionByte (s.resync.segment.map Segment.region)) ++
  leBytes 2 (match s.resync.segment with
    | some sg => sg.index
    | none => absentField s 1) ++
  leBytes 4 (match s.resync.segment with
    | some sg => sg.nextBlock
    | none => absentField s 2) ++
  leBytes 1 (blockStateCode s.resync.block) ++
  leBytes 1 (bit ((s.resync.segment.map Segment.switch).getD false) 0) ++
  leBytes 1 s.fences.length ++ leBytes 1 0 ++
  leBytes 2 ((s.fences.head?.map fun f => f.tag.toNat).getD 0) ++
  leBytes 6 ((s.fences.head?.map fun f => f.boundary.toNat).getD 0) ++
  leBytes 1 s.apply.queue.length ++ leBytes 1 (issuedEntries s) ++ leBytes 1 s.rx.carried ++
  leBytes 1 (holdReasonCode s.mem.hold) ++
  leBytes 4 ((s.apply.queue.head?.map fun en => en.seq.toNat).getD 0) ++
  leBytes 1 s.mem.responses.length ++ leBytes 1 (injectedOutstanding s) ++
  leBytes 1 s.cmd.queue.length ++
  leBytes 1 (s.cmd.pendingClose.toList.filter Option.isSome).length ++ leBytes 1 0 ++
  leBytes 1 (log2Count s.ev.count) ++ leBytes 2 0 ++
  leBytes 2 s.ev.produce ++ leBytes 2 s.ev.release ++ leBytes 2 s.ev.write ++ leBytes 2 0 ++
  leBytes 4 s.ev.lost.toNat ++ leBytes 4 s.ev.timeBase.toNat ++ leBytes 8 s.ev.ringBase.toNat

/-- Bytes 0 to 23 of an entry's region record; zeros for a FREE entry (R1, R178). -/
def regionFields (s : State) (e : RegionIx) : List Byte :=
  let en := s.entry e
  if en.state = .free then leBytes 24 0
  else
    [BitVec.ofNat 8 (roleCode (roleOf en.state)), BitVec.ofNat 8 (regionStateCode en.state),
      BitVec.ofNat 8 (classCode en.cls), BitVec.ofNat 8 en.sizeExp, BitVec.ofNat 8 en.peer.val,
      BitVec.ofNat 8 (bit ((s.cmd.pendingClose)[e]).isSome 0)] ++
    leBytes 2 (match (s.cmd.pendingClose)[e] with
      | some tag => tag.toNat
      | none => absentField s (3 + e.val)) ++
    leBytes 8 en.base.toNat ++ leBytes 2 en.cursor ++ leBytes 2 en.dirty.length ++
    leBytes 2 ((s.apply.reports)[e]).unreported ++ leBytes 2 0

/-- The 32 bytes of an entry's region record: records 0 to 7 carry the session extension in their last 8 bytes
(R178). -/
def regionRecord (s : State) (ext : List Byte) (e : RegionIx) : List Byte :=
  regionFields s e ++ (if e.val < 8 then (ext.drop (8 * e.val)).take 8 else leBytes 8 0)

/-- The 1088 bytes of a SNAPSHOT (R178). -/
def snapshotBytes (s : State) : List Byte :=
  sessionRecord s ++ entryList.flatMap (regionRecord s (sessionExtension s))

end Sys2Proof.Machine
end

