-- ==== Sys2Proof/Machine/Commands.lean ====
section
/-! DEFINITION. The commands of the control page (chapter 9): the Command Unit takes the oldest line of its queue, and
the line is decided in the action of the take (R144). -/

namespace Sys2Proof.Machine

/-! ## The take (R144) -/

/-- The oldest line leaves the command queue, which ends a COMMAND_FULL hold (R132, R144). -/
def popLine (s : State) : State := endHoldOf (s.modCmd fun c => { c with queue := c.queue.tail }) .commandFull

/-- The line that the Command Unit takes next: the oldest, unless it waits for RESTARTED (R144). -/
def nextLine (s : State) : Option Line := if s.cmd.waiting.isSome then none else s.cmd.queue.head?

/-- The take of the oldest line, when its code is one of a row's; the row's command does not occur otherwise
(notes/assumptions/7.md). -/
def take (s : State) (codes : Nat → Bool) (run : Line → State → State) : Outcome :=
  .next <|
    match nextLine s with
    | some l => if codes (lineCode l).toNat then run l (popLine s) else s
    | none => s

/-- NONE (R144): the line is discarded. -/
def execNoneCommand (s : State) : Outcome := take s (· == 0) fun _ t => t

/-- BAD_COMMAND (R144): the code names no command. -/
def execBadCommand (s : State) : Outcome :=
  take s (fun c => decide (codeRestart < c)) fun l t =>
    done t .badCommand (lineTag l) (lineCode l).toNat

/-! ## The session (R45, R50, R148) -/

/-- The Session Controller takes a CONNECT: in DISABLED the enable flag is set and the part enters CALLING (R45,
R46). -/
def connect (s : State) : State :=
  if s.session.state = .disabled then beginCalling (enterCalling (s.modSession fun x => { x with enable := true })) else s

/-- CONNECT (R45, R148). -/
def execConnect (s : State) : Outcome :=
  take s (· == codeConnect) fun l t => done (connect t) .ok (lineTag l) codeConnect

/-- The part leaves CALLING for DISABLED on a DISCONNECT; what it was about to send is discarded (R50). -/
def stopCalling (s : State) : State := clearControl (enterDisabled (s.modSession fun x => { x with enable := false }))

/-- The Session Controller takes a DISCONNECT (R50). -/
def disconnect (s : State) (tag : BitVec 16) : State :=
  match s.session.state with
  | .disabled | .closing => done s .ok tag codeDisconnect
  | .calling => done (stopCalling s) .ok tag codeDisconnect
  | .up => enterClosing s tag

/-- DISCONNECT (R50, R148). -/
def execDisconnect (s : State) : Outcome := take s (· == codeDisconnect) fun l t => disconnect t (lineTag l)

/-! ## Opening regions (R4, R5, R146) -/

/-- First byte of the range that an OPEN names, and its end. -/
def openLow (l : Line) : Nat := lineAddress l
def openHigh (l : Line) : Nat := lineAddress l + 2 ^ (lineByte l 5).toNat

/-- The Region Table's checks of an OPEN on entry `e`, which `install` then opens (R4, R5, R6). -/
def openEntry (s : State) (l : Line) (e : RegionIx) (code : Nat) (install : State → State) : State :=
  if (s.entry e).state ≠ .free then done s .entryBusy (lineTag l) code (lineByte l 4)
  else if openOverlaps s (openLow l) (openHigh l) then done s .overlap (lineTag l) code (lineByte l 4)
  else done (install s) .ok (lineTag l) code (lineByte l 4)

/-- The argument checks of an OPEN in their order, then the Region Table's (R146). -/
def openCommand (s : State) (l : Line) (code : Nat) (argsGood : Bool) (install : RegionIx → State → State) : State :=
  match regionIx? (lineByte l 4) with
  | none => done s .badEntry (lineTag l) code (lineByte l 4)
  | some e =>
    if argsGood && rangeValid (lineByte l 5).toNat (lineAddress l) then openEntry s l e code (install e)
    else done s .badArgument (lineTag l) code (lineByte l 4)

/-- An entry opens as a LAGGING source with every segment marked (R4). -/
def installSource (l : Line) (e : RegionIx) (s : State) : State :=
  let en : Entry :=
    ⟨.lagging, BitVec.ofNat 40 (lineAddress l), (lineByte l 5).toNat, classOf (lineByte l 6),
      (regionIx? (lineByte l 7)).getD 0, 0, [], []⟩
  emit (markAll (setEntry s e en) e) (.regionState .opened e .source .free .lagging)

/-- OPEN_SOURCE (R4, R146). -/
def execOpenSource (s : State) : Outcome :=
  take s (· == codeOpenSource) fun l t =>
    openCommand t l codeOpenSource ((classOf (lineByte l 6)).isSome && (regionIx? (lineByte l 7)).isSome) (installSource l)

/-- An entry opens as an ACCEPTING target, with its refusal report state reset (R5, R123). -/
def installTarget (l : Line) (e : RegionIx) (s : State) : State :=
  let en : Entry := ⟨.accepting, BitVec.ofNat 40 (lineAddress l), (lineByte l 5).toNat, none, 0, 0, [], []⟩
  emit (resetReport (setEntry s e en) e) (.regionState .opened e .target .free .accepting)

/-- OPEN_TARGET (R5, R146). -/
def execOpenTarget (s : State) : Outcome :=
  take s (· == codeOpenTarget) fun l t => openCommand t l codeOpenTarget true (installTarget l)

/-! ## CLOSE (R11, R14, R147) -/

/-- The command's tag becomes the entry's pending CLOSE (R147). -/
def setPendingClose (s : State) (e : RegionIx) (tag : BitVec 16) : State :=
  s.modCmd fun c => { c with pendingClose := setAt c.pendingClose e (some tag) }

/-- A CLOSE clears the entry's index from every forwarded write not yet answered (R33). -/
def forgetRegion (s : State) (e : RegionIx) : State :=
  s.modMem fun m =>
    { m with responses := m.responses.map fun r =>
        if r.ready = false ∧ r.region = some e then { r with region := none } else r }

/-- The test of R12 at the take of a CLOSE: the fences that the departure lets pass complete before the command
(R106, R145). -/
def drainAtClose (s : State) (e : RegionIx) : State :=
  if isDrained s e then completeClose (fenceTest (freeSource s e)) e else s

/-- A source goes DRAINING (R11). That the fences which the abandonment of its switch segment completes stand before the
REGION_STATE (FREE) of the same action is the model's reading (R104, R107; notes/assumptions/35.md). -/
def closeSource (s : State) (e : RegionIx) (tag : BitVec 16) : State :=
  let en := s.entry e
  let s1 := setEntry s e { en with state := .draining, dirty := [], errorReported := [] }
  let s2 := emit s1 (.regionState .closed e .source en.state .draining)
  let s3 := forgetRegion (setPendingClose s2 e tag) e
  drainAtClose (closeSegment (leftMirrored s3 e) e) e

/-- A target goes RELEASING (R14). -/
def closeTarget (s : State) (e : RegionIx) (tag : BitVec 16) : State :=
  let en := s.entry e
  let s1 := setEntry s e { en with state := .releasing }
  let s2 := emit s1 (.regionState .closed e .target en.state .releasing)
  releaseEntry (setPendingClose s2 e tag) e

/-- The Region Table takes a CLOSE of entry `e` (R11, R14, R147). -/
def closeEntry (s : State) (e : RegionIx) (tag : BitVec 16) : State :=
  match (s.entry e).state with
  | .free | .draining | .releasing => done s .entryBusy tag codeClose (BitVec.ofNat 8 e.val)
  | .lagging | .mirrored | .refused => closeSource s e tag
  | .accepting | .failed => closeTarget s e tag

/-- CLOSE (R147). -/
def execClose (s : State) : Outcome :=
  take s (· == codeClose) fun l t =>
    match regionIx? (lineByte l 4) with
    | none => done t .badEntry (lineTag l) codeClose (lineByte l 4)
    | some e => closeEntry t e (lineTag l)

/-! ## FENCE (R99 to R101) -/

/-- The source entries that a region mask names, in ascending order (R99). -/
def fenceScope (s : State) (mask : BitVec 32) : List RegionIx :=
  entryList.filter fun e => mask.getLsbD e.val && roleOf (s.entry e).state == .source

/-- The switch wait that a fence takes for an entry of its scope (R101). -/
def switchWaitOf (s : State) (e : RegionIx) : SwitchWait :=
  match s.resync.segment with
  | some sg => if sg.switch ∧ sg.region = e then .waiting else .none
  | none => .none

/-- What decides a FENCE at its take (R100). -/
inductive FenceDecision where
  | complete (outcome : FenceOutcome) (cause : FenceCause) (region : Option RegionIx)
  | append
deriving DecidableEq, Repr

/-- The conditions of R100 in their order. -/
def decideFence (s : State) (scope : List RegionIx) : FenceDecision :=
  if Config.fenceSlots ≤ s.fences.length then .complete .notTaken .listFull none
  else if s.session.state ≠ .up then .complete .notDurable .notUp none
  else match scope.find? fun e => (s.entry e).state == .lagging with
    | some e => .complete .notDurable .regionLagging (some e)
    | none =>
      match scope.find? fun e => (s.entry e).state == .refused with
      | some e => .complete .notDurable .regionRefused (some e)
      | none =>
        match scope.find? fun e => (s.entry e).state == .mirrored && !(s.entry e).dirty.isEmpty with
        | some e => .complete .notDurable .resyncError (some e)
        | none => if scope.isEmpty then .complete .durable .none none else .append

/-- The fence that a take makes (R98, R99, R101). -/
def newFence (s : State) (tag : BitVec 16) (scope : List RegionIx) : Fence :=
  ⟨tag, s.capture.counter, scope.map fun e => ⟨e, switchWaitOf s e⟩⟩

/-- The Fence Tracker takes a FENCE: boundary and scope, then the decision (R99, R100). -/
def takeFence (s : State) (tag : BitVec 16) (mask : BitVec 32) : State :=
  let scope := fenceScope s mask
  let f := newFence s tag scope
  let s1 := s.modCapture fun c => { c with boundary := c.counter }
  match decideFence s scope with
  | .complete outcome cause region => emit s1 (fenceEvent f outcome cause region)
  | .append => fenceTest (s1.modFences fun fs => fs ++ [f])

/-- FENCE (R99, R149). -/
def execFence (s : State) : Outcome := take s (· == codeFence) fun l t => takeFence t (lineTag l) (lineU32 l 4)

/-! ## SEND_NOTE (R34) -/

/-- The Capture Unit takes a SEND_NOTE (R34). -/
def takeNote (s : State) (tag : BitVec 16) (payload : BitVec 128) : State :=
  if s.session.state ≠ .up then done s .notConnected tag codeSendNote
  else if freeSlots s .sync = 0 then done s .busy tag codeSendNote
  else appendRecord s .sync (.note tag payload)

/-- SEND_NOTE (R34, R149). -/
def execSendNote (s : State) : Outcome := take s (· == codeSendNote) fun l t => takeNote t (lineTag l) (linePayload l)

/-! ## SET_PARAMETER (R150) -/

/-- A parameter takes a value in its range (R150). -/
def takeParameter (s : State) (tag : BitVec 16) (id : Nat) (value : BitVec 32) : State :=
  if paramValid id value.toNat then done (s.modParams fun p => setParam p id value) .ok tag codeSetParameter
  else done s .badArgument tag codeSetParameter

/-- SET_PARAMETER (R150). -/
def execSetParameter (s : State) : Outcome :=
  take s (· == codeSetParameter) fun l t => takeParameter t (lineTag l) (lineU16 l 4).toNat (lineU32 l 8)

/-! ## The event ring (R151, R152, R161, R162) -/

/-- The writer's outstanding entry writes belong to a replaced ring from now on (R160). -/
def MemRequest.replaced (r : MemRequest) : MemRequest :=
  match r.source with
  | .writer (.entry _) => { r with source := .writer (.entry false) }
  | .writer .writeOut | .passThrough | .apply | .resync => r

/-- A new ring is installed (R162). -/
def installRing (s : State) (base count : Nat) : State :=
  (s.modEv fun e =>
    { e with ringBase := BitVec.ofNat 40 base, count := count, produce := 0, release := 0, write := 0, unwritten := 0,
             attn := false, attnTimer := none, list := e.list.map fun it => { it with current := false } }).modMem fun m =>
    { m with outstanding := m.outstanding.map MemRequest.replaced }

/-- The checks of R151 in their order, and the new ring. -/
def takeRing (s : State) (tag : BitVec 16) (base count : Nat) : State :=
  if !(addressValid base && base % 4096 == 0 && entryCountValid count) then done s .badArgument tag codeSetEventRing
  else if 0 < unreleased s.ev then done s .busy tag codeSetEventRing
  else if ringOverlaps s base (base + 32 * count) then done s .overlap tag codeSetEventRing
  else done (installRing s base count) .ok tag codeSetEventRing

/-- SET_EVENT_RING (R151, R162). -/
def execSetEventRing (s : State) : Outcome :=
  take s (· == codeSetEventRing) fun l t => takeRing t (lineTag l) (lineAddress l) (lineU32 l 4).toNat

/-- A new release index lies between C and P, both included, modulo 2N (R152). -/
def releaseValid (e : EventWriter) (new : Nat) : Bool :=
  new < 2 * e.count && (new + 2 * e.count - e.release) % (2 * e.count) ≤ unreleased e

/-- C takes a new value; the ATTN line is tested where C changes (R161, R163). -/
def setRelease (s : State) (new : Nat) : State :=
  if new = s.ev.release then s else s.modEv fun e => attnTest s.params (visible e) { e with release := new }

/-- An EVENTS_LOST is due on a release that frees room (step 1 of R161). -/
def lostDue (s : State) (new : Nat) : Bool := new != s.ev.release && s.ev.lost != 0

/-- Step 1 of R161: EVENTS_LOST, with the lost count, which becomes 0. -/
def reportLost (s : State) : State := emit (s.modEv fun e => { e with lost := 0 }) (.eventsLost s.ev.lost)

/-- COMMAND_DONE of a release. -/
def releaseDone (tag : BitVec 16) : Event := .commandDone .ok tag (BitVec.ofNat 16 codeReleaseEvents) 0 0

/-- RELEASE_EVENTS of a valid index, by the steps of R161; a release of everything releases its own COMMAND_DONE
(R152). -/
def releaseTo (s : State) (tag : BitVec 16) (new : Nat) : State :=
  if lostDue s new then emit (reportLost (setRelease s new)) (releaseDone tag)
  else if new = s.ev.produce then (setRelease s new).modEv (produceReleased s.params (releaseDone tag))
  else emit (setRelease s new) (releaseDone tag)

/-- RELEASE_EVENTS (R152, R161). -/
def execReleaseEvents (s : State) : Outcome :=
  take s (· == codeReleaseEvents) fun l t =>
    if releaseValid t.ev (lineU32 l 4).toNat then releaseTo t (lineTag l) (lineU32 l 4).toNat
    else done t .badArgument (lineTag l) codeReleaseEvents

/-! ## Write-outs (R153, R154, R167) -/

/-- Lines of a write-out (R153). -/
def writeOutLineCount (isSnapshot : Bool) : Nat := if isSnapshot then 17 else 2

/-- A write-out starts with its content (R153, R167). -/
def startWriteOut (s : State) (isSnapshot : Bool) (tag : BitVec 16) (dest : Nat) (content : List Byte) : State :=
  (s.modCmd fun c => { c with writeOut := some ⟨isSnapshot, tag, dest, writeOutLineCount isSnapshot, 0⟩ }).modEv fun e =>
    { e with writeOutLines := cutLines dest (writeOutLineCount isSnapshot) content }

/-- The checks of R153 in their order, and the write-out that `start` makes. -/
def writeOutCommand (s : State) (l : Line) (code : Nat) (isSnapshot : Bool) (start : State → State) : State :=
  let dest := lineAddress l
  if !(addressValid dest && dest % 64 == 0) then done s .badArgument (lineTag l) code
  else if s.cmd.writeOut.isSome then done s .busy (lineTag l) code
  else if writeOutOverlaps s dest (dest + writeOutBytes isSnapshot) then done s .overlap (lineTag l) code
  else start s

/-- Every statistics counter becomes 0 (R165). -/
def clearStats (s : State) : State := s.modStats fun _ => Vector.replicate 16 0

/-- DUMP_STATS starts: the copy, and the clear where the flag is set (R154, R167). -/
def startDump (l : Line) (s : State) : State :=
  let s1 := startWriteOut s false (lineTag l) (lineAddress l) (statsBytes s)
  if lineByte l 4 = 0 then s1 else clearStats s1

/-- DUMP_STATS (R153). -/
def execDumpStats (s : State) : Outcome :=
  take s (· == codeDumpStats) fun l t => writeOutCommand t l codeDumpStats false (startDump l)

/-- SNAPSHOT starts: the copy of the session record and the region records (R154, R167). -/
def startSnapshot (l : Line) (s : State) : State :=
  (startWriteOut s true (lineTag l) (lineAddress l) (snapshotBytes s)).drew snapshotDraws

/-- SNAPSHOT (R153). -/
def execSnapshot (s : State) : Outcome :=
  take s (· == codeSnapshot) fun l t => writeOutCommand t l codeSnapshot true (startSnapshot l)

/-! ## RESTART (R155 to R157) -/

/-- Step 2: the Session Controller and the Link Receiver (R57, R74). -/
def restartSession (s : State) : State :=
  (clearControl <| s.modSession fun x =>
    { x with state := .disabled, enable := false, epoch := 0, answer := none, joinTimer := none,
             pendingDisconnect := none }).modRx fun _ =>
    { expected := 1, accepted := false, retrySent := false, deferred := none, ackPoint := 0, unacked := 0,
      ackTimer := none, carried := 0, compareDue := false }

/-- An entry after a RESTART; a RELEASING one becomes FREE in `restartReleasing` (R15). -/
def restartEntry (en : Entry) : Entry :=
  match en.state with
  | .mirrored => { en with state := .lagging }
  | .draining => Entry.zero
  | .free | .lagging | .refused | .accepting | .failed | .releasing => en

/-- Step 3: the Region Table, without an event (R15). -/
def restartRegions (s : State) : State := s.modRegions fun v => v.map restartEntry

/-- Step 4: the replay list, then the send queues, the capture counter and the fence boundary (R38, R58, R73). -/
def restartQueues (s : State) : State :=
  let s1 := (convertReplay false s.tx.replay s).modTx fun t =>
    { t with next := 1, highest := 0, cursor := none, timer := none, timeouts := 0, syncRun := 0, suspended := false }
  (convertQueues false s1).modCapture fun c => { c with counter := 1, boundary := 0 }

/-- Step 5: the segment in progress is abandoned and marked, no block stays under way, and no report goes to the
fences, which RESTART empties without an event (R92, R95, R109). -/
def restartResync (s : State) : State :=
  let s1 := match s.resync.segment with
    | some sg => (mark (releaseBlock s) sg.region sg.index).modResync fun r => { r with segment := none }
    | none => s
  (releaseDiscarding s1).modResync fun r => { r with turn := 0 }

/-- Step 8: the commands in progress are dropped, and the Command Unit waits for RESTARTED (R156, R168). -/
def restartCommands (s : State) (tag : BitVec 16) : State :=
  (s.modCmd fun c =>
    { c with pendingClose := Vector.replicate 32 none, writeOut := none,
             waiting := some ⟨tag, injectedOutstanding s⟩ }).modEv fun e => { e with writeOutLines := [] }

/-- The RELEASING targets with no issued entry become FREE (R15). -/
def restartReleasing (s : State) : State := entryList.foldl releaseEntry s

/-- Step 9: a SYNC_FULL or BLOCK_READ hold ends, as its region has left MIRRORED (R141). -/
def restartHead (s : State) : State := endHoldOf (endHoldOf s .syncFull) .blockRead

/-- The work of a RESTART, step by step (R155), and RESTARTED if nothing is outstanding (R168). -/
def restart (s : State) (tag : BitVec 16) : State :=
  let s4 := restartQueues (restartRegions (restartSession (clearStats s)))
  let s7 := restartApply ((restartResync s4).modFences fun _ => [])
  finishRestart (restartHead (restartReleasing (restartCommands s7 tag)))

/-- RESTART (R155). -/
def execRestart (s : State) : Outcome := take s (· == codeRestart) fun l t => restart t (lineTag l)

end Sys2Proof.Machine
end

