-- ==== Sys2Proof/Machine/Internal.lean ====
section
/-! DEFINITION. The part's own steps of the table, each by its rule. Where a rule makes the same test inside another
action, that action has already made it. -/

namespace Sys2Proof.Machine

/-- WRITE_OUT_DONE (R154). -/
def execWriteOutDone (s : State) : Outcome := .next (completeWriteOut s)

/-- RESYNC_TURN (R83). -/
def execResyncTurn (s : State) : Outcome := .next (resyncTurnOf s)

/-- BLOCK_START (R85). -/
def execBlockStart (s : State) : Outcome := .next (tryStart s)

/-- DEFERRED_RETRY (R76): the comparison, where a record's completion has not made it yet. -/
def execDeferredRetry (s : State) : Outcome := .next (deferredCheck s)

/-- DRAIN_TEST_PASSED (R51). -/
def execDrainTestPassed (s : State) : Outcome := .next (drainTest s)

/-- DRAINED (R12): the test of the entry, and the durability tests after it (R106). -/
def execDrained (entry : RegionIx) (s : State) : Outcome :=
  .next (if isDrained s entry then fenceTest (drainEntry s entry) else s)

/-- RELEASED (R14). -/
def execReleased (entry : RegionIx) (s : State) : Outcome := .next (releaseEntry s entry)

/-- FENCE_DURABLE (R102). -/
def execFenceDurable (s : State) : Outcome := .next (fenceTest s)

/-- RESTARTED (R168). -/
def execRestarted (s : State) : Outcome := .next (finishRestart s)

end Sys2Proof.Machine
end

