-- ==== Sys2Proof/Machine/Link.lean ====
section
/-! DEFINITION. The mirror link: carrier reports (R53), inbound frames (R42, R43), the Link Transmitter's handling of
ACK, RETRY and REJECT (R65 to R67, R125), loss claims (R54) and the transmit arbiter (R60 to R64). -/

namespace Sys2Proof.Machine

/-! ## Carrier (R40, R53) -/

/-- The carrier flag is set; in CALLING a JOIN is generated and the JOIN timer starts (R46, R53). -/
def raiseCarrier (s : State) : State :=
  let s1 := s.modSession fun x => { x with carrier := true }
  if s.session.state = .calling then sendJoin s1 else s1

/-- CARRIER_UP (R53): a report that changes the flag of a transceiver that has been started. -/
def execCarrierUp (s : State) : Outcome :=
  .next (if s.session.transceiver ∧ s.session.carrier = false then raiseCarrier s else s)

/-- The carrier flag is cleared, by state (R53). -/
def dropCarrier (s : State) : State :=
  let s1 := s.modSession fun x => { x with carrier := false, dropped := true }
  match s.session.state with
  | .disabled => clearControl s1
  | .calling => clearControl (s1.modSession fun x => { x with joinTimer := none })
  | .up | .closing => loseSession s1 .carrier 0

/-- CARRIER_DOWN (R53): a report that changes the flag. -/
def execCarrierDown (s : State) : Outcome := .next (if s.session.carrier then dropCarrier s else s)

/-! ## Checking and sorting inbound frames (R42, R43) -/

/-- A frame may have been delivered: the carrier is present, or it has dropped and the frame came before (R40, R43;
notes/assumptions/9.md). -/
def framesCome (s : State) : Bool := s.session.carrier || s.session.dropped

/-- The Link Receiver takes a delivered frame. One that fails the checks of R42 is counted and has no other effect; any
other is judged against the state as it stands, also behind a carrier-down report (R42, R43, R108). -/
def deliver (s : State) (frame : List Byte) (handle : State → State) : State :=
  if framesCome s then if frameGood frame then handle s else count s .framesBad else s

/-- In UP and CLOSING, a frame of the current epoch and peer goes to its handler; every other PART, record or
acknowledgment frame is stale (R43). -/
def sortSession (s : State) (frame : List Byte) (handle : State → State) : State :=
  if inSession s ∧ frameEpoch frame = s.session.epoch ∧ frameSender frame = s.session.peerUnit then handle s
  else count s .framesStale

/-- UNKNOWN_FRAME (R42): a frame of no known kind or of a bad length is discarded and counted. -/
def execUnknownFrame (frame : List Byte) (s : State) : Outcome := .next (deliver s frame id)

/-- JOIN (R43, R47, R49). -/
def execJoin (rest : List Byte) (s : State) : Outcome :=
  let frame := frameOf .join rest
  .next <| deliver s frame fun s =>
    match s.session.state with
    | .disabled => s
    | .calling => joinInCalling s (joinFields frame)
    | .up | .closing => joinInSession s (joinFields frame)

/-- ACCEPT (R43, R48, R49): an invalid one, and one taken in a session, is ignored. -/
def execAccept (rest : List Byte) (s : State) : Outcome :=
  let frame := frameOf .accept rest
  .next <| deliver s frame fun s =>
    match s.session.state with
    | .calling => if acceptValid s (acceptFields frame) then takeAccept s (acceptFields frame) else s
    | .disabled | .up | .closing => s

/-- PART (R52). -/
def execPart (rest : List Byte) (s : State) : Outcome :=
  let frame := frameOf .part rest
  .next <| deliver s frame fun s => sortSession s frame fun s => loseSession s .peerLeft (frameSeq frame)

/-- WRITE_FRAME (R75). -/
def execWriteFrame (rest : List Byte) (s : State) : Outcome :=
  let frame := frameOf .write rest
  .next <| deliver s frame fun s => sortSession s frame fun s => receiveRecord s (frameSeq frame) (writeFields frame)

/-- BLOCK_FRAME (R75). -/
def execBlockFrame (rest : List Byte) (s : State) : Outcome :=
  let frame := frameOf .block rest
  .next <| deliver s frame fun s => sortSession s frame fun s => receiveRecord s (frameSeq frame) (blockFields frame)

/-- NOTE_FRAME (R75). -/
def execNoteFrame (rest : List Byte) (s : State) : Outcome :=
  let frame := frameOf .note rest
  .next <| deliver s frame fun s => sortSession s frame fun s => receiveRecord s (frameSeq frame) (noteFields frame)

/-! ## ACK, RETRY and REJECT at the sender -/

/-- A loss claim with cause PROTOCOL, unless the part is suspended (R71). -/
def protocolClaim (s : State) : State := if s.tx.suspended then s else claimLoss s .protocol

/-- The replay list's records of number `n` or below, from its head on, which an ACK(n) removes, and the rest (R63,
R65). -/
def coveredBy (n : BitVec 32) (rs : List Replayed) : List Replayed := rs.takeWhile fun r => seqUpTo r.seq n
def afterAck (n : BitVec 32) (rs : List Replayed) : List Replayed := rs.dropWhile fun r => seqUpTo r.seq n

/-- The sequence number of the oldest record of a replay list. -/
def oldestSeq (rs : List Replayed) : Option (BitVec 32) := rs.head?.map Replayed.seq

/-- A cursor on a removed record moves to the new oldest, or becomes absent (R64). -/
def keepCursor (rest : List Replayed) (c : Option (BitVec 32)) : Option (BitVec 32) :=
  match c with
  | some n => if rest.any fun r => r.seq == n then some n else oldestSeq rest
  | none => none

/-- A removed record's part of step 1 of R66: its buffer is freed; a NOTE's SEND_NOTE completes with OK. -/
def acknowledge (s : State) (r : Replayed) : State :=
  let s1 := freeRecordBuffer s r.record
  match r.record.body with
  | .note tag _ => done s1 .ok tag codeSendNote
  | .write .. | .block .. => s1

/-- The entries in ascending order that had a record removed and are tested by R12 (step 2 of R66). -/
def drainRemoved (s : State) (gone : List Replayed) : State :=
  (entryList.filter fun e => gone.any fun r => r.record.region == some e).foldl drainEntry s

/-- Records leave the replay list on an acknowledgment: the transmitter's fields (R64, R65), then the steps of
R66. -/
def removeAcked (s : State) (n : BitVec 32) : State :=
  let gone := coveredBy n s.tx.replay
  let rest := afterAck n s.tx.replay
  let s1 := s.modTx fun t =>
    { t with replay := rest, cursor := keepCursor rest t.cursor, timeouts := 0,
             timer := if rest.isEmpty ∨ t.suspended then none else some (replayExpiry s) }
  drainTest (fenceTest (drainRemoved (gone.foldl acknowledge s1) gone))

/-- The Link Transmitter takes an ACK(n): with no record of number `n` or below to remove, nothing changes (R65;
notes/assumptions/18.md). -/
def takeAck (s : State) (n : BitVec 32) : State :=
  if seqBelow s.tx.highest n then protocolClaim s
  else if (coveredBy n s.tx.replay).isEmpty then s
  else removeAcked s n

/-- ACK (R65). -/
def execAck (rest : List Byte) (s : State) : Outcome :=
  let frame := frameOf .ack rest
  .next <| deliver s frame fun s => sortSession s frame fun s => takeAck s (frameSeq frame)

/-- The Link Transmitter takes a RETRY(n) (R67). -/
def takeRetry (s : State) (n : BitVec 32) : State :=
  if seqBelow (seqSucc s.tx.highest) n then protocolClaim s
  else match oldestSeq s.tx.replay with
    | none => s
    | some oldest =>
      if seqBelow n oldest then s
      else if n = seqSucc s.tx.highest then s.modTx fun t => { t with cursor := none }
      else if s.tx.replay.any fun r => r.seq == n then s.modTx fun t => { t with cursor := some n }
      else s

/-- RETRY (R67). -/
def execRetry (rest : List Byte) (s : State) : Outcome :=
  let frame := frameOf .retry rest
  .next <| deliver s frame fun s => sortSession s frame fun s => takeRetry s (frameSeq frame)

/-- The kind of a record. -/
def Record.kind (r : Record) : RecordKind :=
  match r.body with
  | .write .. => .write
  | .block .. => .block
  | .note .. => .note

/-- The Link Transmitter takes a REJECT naming a sequence number (R125). -/
def takeReject (s : State) (seq : BitVec 32) (peer reason : BitVec 8) : State :=
  match s.tx.replay.find? fun r => r.seq == seq with
  | some r =>
    match r.record.region with
    | some e =>
      drainTest (claimRefused (emit s (.recordRejected e seq r.record.cap r.record.kind peer reason)) e)
    | none => count s .framesStale
  | none => count s .framesStale

/-- REJECT (R125). -/
def execReject (rest : List Byte) (s : State) : Outcome :=
  let frame := frameOf .reject rest
  .next <| deliver s frame fun s => sortSession s frame fun s =>
    takeReject s (frameSeq frame) (framePeer frame) (byteAt frame 13)

/-! ## Loss claims (R54) -/

/-- LOSS_CLAIM (R54): the Session Controller takes the claim the Link Transmitter made; in UP and CLOSING it ends the
session, in DISABLED and CALLING it is dropped. -/
def execLossClaim (s : State) : Outcome :=
  .next <|
    match s.tx.lossClaim with
    | some cause =>
      let s1 := s.modTx fun t => { t with lossClaim := none }
      if inSession s then loseSession s1 cause 0 else s1
    | none => s

/-! ## The transmit arbiter (R60) -/

/-- The transceiver takes a frame. -/
def transmit (s : State) (bytes : List Byte) : State := s.modOut fun o => { o with toLink := o.toLink ++ [bytes] }

/-- The frame of a record of the replay list, under the current epoch (R179). -/
def frameBytes (s : State) (r : Replayed) : List Byte :=
  recordBytes s.loader.prom.unitId s.session.epoch s.resync.buffers r

/-- The record of the replay list after the one that a cursor names (R64). -/
def nextAfter (n : BitVec 32) : List Replayed → Option (BitVec 32)
  | [] => none
  | r :: rest => if r.seq = n then oldestSeq rest else nextAfter n rest

/-- Step 2 of R60: the record that the cursor names is transmitted again (R64). -/
def retransmit (s : State) (r : Replayed) : State :=
  count ((transmit s (frameBytes s r)).modTx fun t => { t with cursor := nextAfter r.seq t.replay }) .recordsResent

/-- The queue that a new record is taken from (R61). -/
def chosenQueue (s : State) : Option QueueClass :=
  if s.capture.sync.isEmpty then (if s.capture.async.isEmpty then none else some .async)
  else if s.tx.syncRun = 8 ∧ s.capture.async.isEmpty = false then some .async
  else some .sync

/-- First transmission of the head of a queue (R61, R62). -/
def firstTransmit (s : State) (q : QueueClass) (r : Record) : State :=
  let rep : Replayed := ⟨s.tx.next, r⟩
  let s1 := popQueue (transmit s (frameBytes s rep)) q
  let s2 := s1.modTx fun t =>
    { t with next := seqSucc t.next, highest := t.next, replay := t.replay ++ [rep],
             timer := if t.replay.isEmpty then some (replayExpiry s) else t.timer,
             syncRun := match q with
               | .sync => min 8 (t.syncRun + 1)
               | .async => 0 }
  let s3 := count s2 .recordsSent
  drainTest (if r.kind = .block then count s3 .blocksSent else s3)

/-- Step 3 of R60: a new record, if the session, the suspension and the replay list allow one. -/
def transmitNew (s : State) : State :=
  if inSession s ∧ s.tx.replay.length < Config.replaySlots then
    match chosenQueue s with
    | some q =>
      match s.capture.queueOf q with
      | r :: _ => firstTransmit s q r
      | [] => s
    | none => s
  else s

/-- One choice of the transmit arbiter (R60). -/
def transmitChoice (s : State) : State :=
  match s.tx.control with
  | f :: rest =>
    (transmit s (controlBytes s.loader.prom.unitId f)).modTx fun t => { t with control := rest }
  | [] =>
    if s.tx.suspended then s
    else match s.tx.cursor with
      | some n =>
        match s.tx.replay.find? fun r => r.seq == n with
        | some r => retransmit s r
        | none => s
      | none => transmitNew s

/-- TRANSMIT_ARBITER_CHOICE (R60): the transceiver is ready; while the carrier is absent it takes no frame (R40). -/
def execTransmitArbiterChoice (s : State) : Outcome := .next (if s.session.carrier then transmitChoice s else s)

end Sys2Proof.Machine
end

