-- ==== Sys2Proof/Machine/Ports.lean ====
section
/-! DEFINITION. The commands of the two ports: a master's request, a choice of the memory-port arbiter, and the
answers of memory (chapter 8). -/

namespace Sys2Proof.Machine

/-- SYSTEM_PORT_REQUEST (R130): when the head request is absent, the presented request becomes it; otherwise it waits
in the interconnect behind the requests presented before it. While RESET_N is asserted the port is stopped (R174). -/
def execSystemPortRequest (req : SysRequest) (s : State) : Outcome :=
  .next <|
    if s.resetN then
      s.modMem fun m =>
        match m.head with
        | none => { m with head := some req, presented := false }
        | some _ => { m with behind := m.behind ++ [req] }
    else s

/-- MEMORY_PORT_ARBITER (R138): the memory port is ready. -/
def execMemoryPortArbiter (s : State) : Outcome := .next (arbiterChoice s)

/-- PASS_THROUGH_RESPONSE (R135). An answer whose bytes do not fit the oldest request is none of it (R128;
notes/assumptions/3.md). -/
def execPassThroughResponse (answer : MemAnswer) (data : List Byte) (s : State) : Outcome :=
  .next <|
    match takeAnswer s answer fun x => x == .passThrough with
    | some (r, s1) => if answerFits r.form data then passThroughAnswer s1 r answer.status data else s
    | none => s

/-- APPLY_WRITE_RESPONSE (R116). -/
def execApplyWriteResponse (answer : MemAnswer) (s : State) : Outcome :=
  .next <|
    match takeAnswer s answer fun x => x == .apply with
    | some (_, s1) => injectedAnswered (applyResponse s1 answer.status)
    | none => s

/-- RESYNC_READ_RESPONSE (R86). -/
def execResyncReadResponse (answer : MemAnswer) (data : Line) (s : State) : Outcome :=
  .next <|
    match takeAnswer s answer fun x => x == .resync with
    | some (_, s1) => injectedAnswered (resyncResponse s1 answer.status data)
    | none => s

/-- A request source is the writer. -/
def isWriter : MemSource → Bool
  | .writer _ => true
  | .passThrough | .apply | .resync => false

/-- WRITER_RESPONSE (R160). -/
def execWriterResponse (answer : MemAnswer) (s : State) : Outcome :=
  .next <|
    match takeAnswer s answer isWriter with
    | some (r, s1) =>
      match r.source with
      | .writer item => injectedAnswered (writerAnswer s1 item answer.status)
      | .passThrough | .apply | .resync => s
    | none => s

end Sys2Proof.Machine
end

