-- ==== Sys2Proof/Machine/PowerOn.lean ====
section
/-! DEFINITION. Power-on, reset and the configuration load (chapter 11), and the passing of a microsecond. -/

namespace Sys2Proof.Machine

/-- Every block at its power-on value; the waiting commands, what has left the part and the count of free values are
not the part's to reset (R174). -/
def powerOnState (s : State) : State :=
  { State.reset with pending := s.pending, out := s.out, freeCount := s.freeCount }

/-- POWER_ON (R170, R174): every block takes its power-on value and the load begins. -/
def execPowerOn (s : State) : Outcome := .next (powerOnState s)

/-- RESET_ASSERT (R174): everything in flight ends without an event; no load runs while RESET_N is asserted. -/
def execResetAssert (s : State) : Outcome :=
  .next (({ powerOnState s with resetN := false }).modLoader fun l => { l with loadTimer := none })

/-- The load is running: the load state is LOADING and the load timer has not stopped. -/
def loadRunning (s : State) : Bool := s.loader.loadState = .loading && s.loader.loadTimer.isSome

/-- A failed load places the part in BYPASS (R173). -/
def enterBypass (s : State) : State :=
  endHoldOf (s.modLoader fun l => { l with loadState := .bypass, loadTimer := none }) .loading

/-- The load timer loses a microsecond of its own clock; at its end the load fails with cause TIMEOUT (R170). -/
def loadTick (s : State) : State :=
  match s.loader.loadTimer with
  | some n => if n ≤ 1 then enterBypass s else s.modLoader fun l => { l with loadTimer := some (n - 1) }
  | none => s

/-- One microsecond passes: the load timer runs down while the part loads, and the time base counts once the load has
succeeded (R158, R170; notes/assumptions/1.md). -/
def tick (s : State) : State :=
  match s.loader.loadState with
  | .loading => loadTick s
  | .running => s.modEv fun e => { e with timeBase := e.timeBase + 1 }
  | .bypass => s

/-- A good image brings the part into operation: RUNNING, the parameters, the default ring, READY, the transceiver,
and the end of the LOADING hold (R172). -/
def loadSucceeds (s : State) (p : PromFields) : State :=
  let s1 := s.modLoader fun l => { l with loadState := .running, loadTimer := none }
  let s2 := s1.modParams fun _ => promParams p
  let s3 := s2.modEv fun e =>
    { e with ringBase := BitVec.ofNat 40 (p.controlBase.toNat + 4096), count := 64, produce := 0, release := 0,
             write := 0, unwritten := 0, timeBase := 0 }
  let s4 := emit s3 (.ready p.unitId p.controlBase p.linkRate)
  endHoldOf (s4.modSession fun x => { x with transceiver := true }) .loading

/-- PROM_IMAGE_READ (R170, R171): the fields are read and checked, and the load succeeds or fails. A read that
finishes after the load has ended is ignored. -/
def execPromImageRead (image : Line) (s : State) : Outcome :=
  .next <|
    if loadRunning s then
      let s1 := s.modLoader fun l => { l with prom := promFields image }
      if imageGood image then loadSucceeds s1 (promFields image) else enterBypass s1
    else s

/-- LOAD_TIMER_EXPIRY (R170): the load fails with cause TIMEOUT. -/
def execLoadTimerExpiry (s : State) : Outcome := .next (if loadRunning s then enterBypass s else s)

/-- The ATTN output (R163). -/
def attnPin (s : State) : Bool := s.ev.attn

/-- The BYPASS output (R173). -/
def bypassPin (s : State) : Bool := s.loader.loadState = .bypass

end Sys2Proof.Machine
end

