-- ==== Sys2Proof/Machine/Timers.lean ====
section
/-! DEFINITION. The expiries of the timers that run on the time base (R46, R69, R78, R123, R133, R163). An expiry of a
timer that is stopped does not happen. -/

namespace Sys2Proof.Machine

/-- JOIN_TIMER_EXPIRY (R46): in CALLING with the carrier present, a JOIN is generated again and the timer restarts; with
the carrier absent the timer stops (notes/assumptions/36.md). -/
def execJoinTimerExpiry (s : State) : Outcome :=
  .next <|
    match s.session.joinTimer with
    | some t =>
      if s.session.state = .calling then
        if s.session.carrier then sendJoin (reach s t)
        else (reach s t).modSession fun x => { x with joinTimer := none }
      else s
    | none => s

/-- The count rises; past RETRY_LIMIT a loss claim is made, else the cursor goes to the oldest record and the timer
restarts (R69). -/
def replayExpired (s : State) : State :=
  let s1 := s.modTx fun t => { t with timeouts := t.timeouts + 1 }
  if s.params.retryLimit.toNat < s1.tx.timeouts then claimLoss s1 .retryLimit
  else s1.modTx fun t => { t with cursor := t.replay.head?.map Replayed.seq, timer := some (replayExpiry s) }

/-- REPLAY_TIMER_EXPIRY (R69). -/
def execReplayTimerExpiry (s : State) : Outcome :=
  .next <|
    match s.tx.timer with
    | some t => replayExpired (reach s t)
    | none => s

/-- ACK_DELAY_TIMER_EXPIRY (R78): an ACK of the ack point; none outside UP and CLOSING. -/
def execAckDelayTimerExpiry (s : State) : Outcome :=
  .next <|
    match s.rx.ackTimer with
    | some t => if inSession s then generateAck (reach s t) else s
    | none => s

/-- HOLD_LIMIT_EXPIRY (R133): the SYNC_FULL hold ends with limit expired set. -/
def execHoldLimitExpiry (s : State) : Outcome :=
  .next <|
    match s.mem.holdTimer with
    | some t =>
      if s.mem.hold = .syncFull then
        (endHold (count (reach s t) .holdExpiries)).modMem fun m => { m with limitExpired := true }
      else s
    | none => s

/-- QUIET_TIMER_EXPIRY (R123): the quiet timer of the entry stops. -/
def execQuietTimerExpiry (entry : RegionIx) (s : State) : Outcome :=
  .next <|
    match ((s.apply.reports)[entry]).timer with
    | some t =>
      (reach s t).modApply fun a => { a with reports := setAt a.reports entry { (a.reports)[entry] with timer := none } }
    | none => s

/-- ATTN_DELAY_EXPIRY (R163): in DEASSERTED with unreleased entries, ATTN asserts. -/
def execAttnDelayExpiry (s : State) : Outcome :=
  .next <|
    match s.ev.attnTimer with
    | some t =>
      (reach s t).modEv fun e =>
        { e with attnTimer := none, attn := e.attn || decide (0 < unreleased e) }
    | none => s

end Sys2Proof.Machine
end

