-- ==== Sys2Proof/Machine/Dispatch.lean ====
section
/-! DEFINITION. The effect of each command on everything but the queue: one arm per row of spec/opcode_table.json. -/

namespace Sys2Proof.Machine

def exec (i : Instr) (s : State) : Host.Outcome State Fault Refusal :=
  match i with
  | .powerOn => Sys2Proof.Machine.execPowerOn s
  | .resetAssert => Sys2Proof.Machine.execResetAssert s
  | .promImageRead image => Sys2Proof.Machine.execPromImageRead image s
  | .loadTimerExpiry => Sys2Proof.Machine.execLoadTimerExpiry s
  | .carrierUp => Sys2Proof.Machine.execCarrierUp s
  | .carrierDown => Sys2Proof.Machine.execCarrierDown s
  | .unknownFrame frame => Sys2Proof.Machine.execUnknownFrame frame s
  | .join rest => Sys2Proof.Machine.execJoin rest s
  | .accept rest => Sys2Proof.Machine.execAccept rest s
  | .part rest => Sys2Proof.Machine.execPart rest s
  | .writeFrame rest => Sys2Proof.Machine.execWriteFrame rest s
  | .blockFrame rest => Sys2Proof.Machine.execBlockFrame rest s
  | .noteFrame rest => Sys2Proof.Machine.execNoteFrame rest s
  | .ack rest => Sys2Proof.Machine.execAck rest s
  | .retry rest => Sys2Proof.Machine.execRetry rest s
  | .reject rest => Sys2Proof.Machine.execReject rest s
  | .lossClaim => Sys2Proof.Machine.execLossClaim s
  | .transmitArbiterChoice => Sys2Proof.Machine.execTransmitArbiterChoice s
  | .joinTimerExpiry => Sys2Proof.Machine.execJoinTimerExpiry s
  | .replayTimerExpiry => Sys2Proof.Machine.execReplayTimerExpiry s
  | .ackDelayTimerExpiry => Sys2Proof.Machine.execAckDelayTimerExpiry s
  | .holdLimitExpiry => Sys2Proof.Machine.execHoldLimitExpiry s
  | .quietTimerExpiry entry => Sys2Proof.Machine.execQuietTimerExpiry entry s
  | .attnDelayExpiry => Sys2Proof.Machine.execAttnDelayExpiry s
  | .systemPortRequest req => Sys2Proof.Machine.execSystemPortRequest req s
  | .memoryPortArbiter => Sys2Proof.Machine.execMemoryPortArbiter s
  | .passThroughResponse answer data => Sys2Proof.Machine.execPassThroughResponse answer data s
  | .applyWriteResponse answer => Sys2Proof.Machine.execApplyWriteResponse answer s
  | .resyncReadResponse answer data => Sys2Proof.Machine.execResyncReadResponse answer data s
  | .writerResponse answer => Sys2Proof.Machine.execWriterResponse answer s
  | .writeOutDone => Sys2Proof.Machine.execWriteOutDone s
  | .resyncTurn => Sys2Proof.Machine.execResyncTurn s
  | .blockStart => Sys2Proof.Machine.execBlockStart s
  | .deferredRetry => Sys2Proof.Machine.execDeferredRetry s
  | .drainTestPassed => Sys2Proof.Machine.execDrainTestPassed s
  | .drained entry => Sys2Proof.Machine.execDrained entry s
  | .released entry => Sys2Proof.Machine.execReleased entry s
  | .fenceDurable => Sys2Proof.Machine.execFenceDurable s
  | .restarted => Sys2Proof.Machine.execRestarted s
  | .noneCommand => Sys2Proof.Machine.execNoneCommand s
  | .badCommand => Sys2Proof.Machine.execBadCommand s
  | .connect => Sys2Proof.Machine.execConnect s
  | .disconnect => Sys2Proof.Machine.execDisconnect s
  | .openSource => Sys2Proof.Machine.execOpenSource s
  | .openTarget => Sys2Proof.Machine.execOpenTarget s
  | .close => Sys2Proof.Machine.execClose s
  | .fence => Sys2Proof.Machine.execFence s
  | .sendNote => Sys2Proof.Machine.execSendNote s
  | .setParameter => Sys2Proof.Machine.execSetParameter s
  | .setEventRing => Sys2Proof.Machine.execSetEventRing s
  | .releaseEvents => Sys2Proof.Machine.execReleaseEvents s
  | .dumpStats => Sys2Proof.Machine.execDumpStats s
  | .snapshot => Sys2Proof.Machine.execSnapshot s
  | .restart => Sys2Proof.Machine.execRestart s

end Sys2Proof.Machine
end

