-- ==== Sys2Proof/Safety.lean ====
section
/-! DEFINITION. What statements about the machine are made of: frames, the arrivals a command brings, the conditions
under which a step does its work, and the invariants that every step keeps. -/

namespace Sys2Proof.Machine

/-! ## Frames -/

/-- The parts of the state, one for each field of `State`. -/
inductive Part where
  | pending | resetN | loader | params | regions | session | capture | tx | rx | apply | resync | fences | mem | cmd
  | ev | stats | out | freeCount
deriving DecidableEq, Repr

/-- Every part of the state that is not listed is unchanged. -/
structure SameBut (ps : List Part) (s t : State) : Prop where
  pending : Part.pending ∉ ps → t.pending = s.pending
  resetN : Part.resetN ∉ ps → t.resetN = s.resetN
  loader : Part.loader ∉ ps → t.loader = s.loader
  params : Part.params ∉ ps → t.params = s.params
  regions : Part.regions ∉ ps → t.regions = s.regions
  session : Part.session ∉ ps → t.session = s.session
  capture : Part.capture ∉ ps → t.capture = s.capture
  tx : Part.tx ∉ ps → t.tx = s.tx
  rx : Part.rx ∉ ps → t.rx = s.rx
  apply : Part.apply ∉ ps → t.apply = s.apply
  resync : Part.resync ∉ ps → t.resync = s.resync
  fences : Part.fences ∉ ps → t.fences = s.fences
  mem : Part.mem ∉ ps → t.mem = s.mem
  cmd : Part.cmd ∉ ps → t.cmd = s.cmd
  ev : Part.ev ∉ ps → t.ev = s.ev
  stats : Part.stats ∉ ps → t.stats = s.stats
  out : Part.out ∉ ps → t.out = s.out
  freeCount : Part.freeCount ∉ ps → t.freeCount = s.freeCount

/-- The events of the event list, oldest first. -/
def eventsOf (s : State) : List Event := s.ev.list.map EventItem.event

/-- The ring has room for `n` more events (R159). -/
def ringRoom (s : State) (n : Nat) : Prop := unreleased s.ev + n ≤ s.ev.count

/-- The ring's indices lie in their range, and no more than N entries are unreleased (R158). -/
def RingInRange (e : EventWriter) : Prop :=
  0 < e.count ∧ e.produce < 2 * e.count ∧ e.release < 2 * e.count ∧ e.write < 2 * e.count ∧ unreleased e ≤ e.count

/-! ## Arrivals -/

/-- The bytes of the frame that a command brings, if it brings one. -/
def frameArrival : Instr → Option (List Byte)
  | .unknownFrame frame => some frame
  | .join rest => some (frameOf .join rest)
  | .accept rest => some (frameOf .accept rest)
  | .part rest => some (frameOf .part rest)
  | .writeFrame rest => some (frameOf .write rest)
  | .blockFrame rest => some (frameOf .block rest)
  | .noteFrame rest => some (frameOf .note rest)
  | .ack rest => some (frameOf .ack rest)
  | .retry rest => some (frameOf .retry rest)
  | .reject rest => some (frameOf .reject rest)
  | _ => none

/-- The bytes of a PART, a record or an acknowledgment frame, which only a session takes (R43). -/
def sessionArrival : Instr → Option (List Byte)
  | .part rest => some (frameOf .part rest)
  | .writeFrame rest => some (frameOf .write rest)
  | .blockFrame rest => some (frameOf .block rest)
  | .noteFrame rest => some (frameOf .note rest)
  | .ack rest => some (frameOf .ack rest)
  | .retry rest => some (frameOf .retry rest)
  | .reject rest => some (frameOf .reject rest)
  | _ => none

/-- The sequence number and the content of the sequenced record that a command brings (R75). -/
def recordArrival : Instr → Option (BitVec 32 × Inbound)
  | .writeFrame rest => some (frameSeq (frameOf .write rest), writeFields (frameOf .write rest))
  | .blockFrame rest => some (frameSeq (frameOf .block rest), blockFields (frameOf .block rest))
  | .noteFrame rest => some (frameSeq (frameOf .note rest), noteFields (frameOf .note rest))
  | _ => none

/-- A frame has been delivered, before a drop of the carrier where it is absent, and passes the checks of R42 (R40, R43;
notes/assumptions/9.md). -/
def Delivered (s : State) (bytes : List Byte) : Prop :=
  (s.session.carrier = true ∨ s.session.dropped = true) ∧ frameGood bytes = true

/-- A delivered frame is of the session's epoch and peer (R43). -/
def Current (s : State) (bytes : List Byte) : Prop :=
  Delivered s bytes ∧ inSession s = true ∧ frameEpoch bytes = s.session.epoch ∧ frameSender bytes = s.session.peerUnit

/-- The Command Unit takes the line, whose command code is `code` (R144). -/
def Takes (s : State) (l : Line) (code : Nat) : Prop :=
  s.cmd.waiting = none ∧ s.cmd.queue.head? = some l ∧ (lineCode l).toNat = code

/-- The arbiter grants the pass-through requester, whose head is `req` (R138). -/
def Granted (s : State) (req : SysRequest) : Prop :=
  waitingHead s = some req ∧ (grantedSource s = none ∨ s.mem.run ≠ 3)

/-- The arbiter grants an injected source (R138, R139). -/
def GrantedInjected (s : State) (i : Injected) : Prop :=
  grantedSource s = some i ∧ injectedRoom s = true ∧ (waitingHead s = none ∨ s.mem.run = 3)

/-- The oldest request outstanding at the memory port is `r`, and the answer is its answer (R136, R174). -/
def Answers (s : State) (a : MemAnswer) (r : MemRequest) (rest : List MemRequest) : Prop :=
  a.preReset = false ∧ s.mem.outstanding = r :: rest

/-- The answer answers no request of the sources that `own` names: it answers one issued before the last reset, nothing
is outstanding at the memory port, or the oldest request outstanding is another source's (R136, R174). -/
def NoAnswer (s : State) (a : MemAnswer) (own : MemSource → Prop) : Prop :=
  a.preReset = true ∨ s.mem.outstanding = [] ∨ ∃ r rest, s.mem.outstanding = r :: rest ∧ ¬own r.source

/-- What an injected answer leaves, whose own effect leaves `v`: while the part waits for RESTARTED one answer fewer is
due, and the last one brings RESTARTED and ends the wait (R155, R156, R168). That RESTARTED stands behind the events of
the answer's own effect is the model's choice (notes/assumptions/38.md). -/
def answerCounted (v : State) : State :=
  match v.cmd.waiting with
  | none => v
  | some w =>
    if 1 < w.due then { v with cmd := { v.cmd with waiting := some { w with due := w.due - 1 } } }
    else emit { v with cmd := { v.cmd with waiting := none } } (.restarted w.tag)

/-- The lowest place of the response list that no entry holds: by the model's reading the one that the next entry takes
(R136; notes/assumptions/4.md). -/
def LowestFree (rs : List RespEntry) (p : BitVec 4) : Prop :=
  (∀ r ∈ rs, r.place ≠ p) ∧ ∀ q, q < p → ∃ r ∈ rs, r.place = q

/-- The Memory Path once its head request has left: the first of the requests that wait behind it is the head, not yet
presented (R130). -/
def headGone (m : MemPath) : MemPath :=
  { m with head := m.behind.head?, behind := m.behind.tail, presented := false, limitExpired := false }

/-- From `s` to `t` the head request is issued unchanged, kept with a region index, its tag naming its place in the
response list (R130, R135, R136, R138). That the place is the lowest free one is the model's reading
(notes/assumptions/4.md). -/
def Issued (s t : State) (req : SysRequest) (region : Option RegionIx) : Prop :=
  ∃ p, LowestFree s.mem.responses p ∧
    t.mem = { headGone s.mem with
      run := min 3 (s.mem.run + 1)
      responses := s.mem.responses ++ [⟨p, requestTag req, requestIsRead req, region, false, .ok, []⟩]
      outstanding := s.mem.outstanding ++ [⟨.passThrough, 0#1 ++ p, requestForm req⟩] }

/-- From `s` to `t` the READY responses at the front of a list are returned to their masters in order, and the rest is
the response list (R135). -/
def Returned (s t : State) (list : List RespEntry) : Prop :=
  t.mem.responses = list.dropWhile RespEntry.ready ∧
  t.out = { s.out with toMasters := s.out.toMasters ++ (list.takeWhile RespEntry.ready).map masterResponse }

/-- From `s` to `t` the part answers the head request itself, with an error, in its place in response order (R130,
R135). That its entry takes the lowest free place is the model's reading (notes/assumptions/4.md). -/
def Answered (s t : State) (req : SysRequest) : Prop :=
  ∃ p, LowestFree s.mem.responses p ∧
    Returned s t (s.mem.responses ++ [⟨p, requestTag req, requestIsRead req, none, true, .error, []⟩]) ∧
    t.mem = { headGone s.mem with responses := t.mem.responses }

/-! ## Regions and records -/

/-- From `s` to `t` segment `k` of a MIRRORED entry is marked and the entry lags with a cause: its other fields and the
other entries are kept, a clean segment is counted, and the fences in whose scope it stands complete NOT_DURABLE with
REGION_LAGGING behind its event (R8, R80, R104). -/
def Lagged (s t : State) (e : RegionIx) (k : Nat) (cause : RegionCause) : Prop :=
  t.entry e = { s.entry e with state := .lagging, dirty := (t.entry e).dirty } ∧
  (∀ j, j ∈ (t.entry e).dirty ↔ j = k ∨ j ∈ (s.entry e).dirty) ∧ (∀ e', e' ≠ e → t.entry e' = s.entry e') ∧
  (t.stats)[statIx .dirtyMarks] = (s.stats)[statIx .dirtyMarks] + (if k ∈ (s.entry e).dirty then 0 else 1) ∧
  t.fences = (s.fences.filter fun f => !f.covers e) ∧
  (ringRoom s (1 + s.fences.length) → eventsOf t = eventsOf s ++ .regionState cause e .source .mirrored .lagging ::
    (s.fences.filter fun f => f.covers e).map fun f =>
      .fenceDone .notDurable .regionLagging f.tag (some e) f.boundary)

/-- The segment of a region of size 2^n that a WRITE or BLOCK record lies in (R2, R37). -/
def recordSegment (n : Nat) (r : Record) : Option Nat :=
  match r.body with
  | .write _ _ line _ _ _ => some (segOfLine n line)
  | .block _ _ block _ => some (segOfBlock n block)
  | .note .. => none

/-- A record of the region stands in a send queue or the replay list. -/
def Holds (s : State) (e : RegionIx) : Prop := ∃ r ∈ heldRecords s, r.region = some e

/-- A held record of the region lies in segment `k`. -/
def HoldsIn (s : State) (e : RegionIx) (k : Nat) : Prop :=
  ∃ r ∈ heldRecords s, r.region = some e ∧ recordSegment (s.entry e).sizeExp r = some k

/-- Segment `k` of the region is the segment in progress. -/
def InProgress (s : State) (e : RegionIx) (k : Nat) : Prop :=
  ∃ sg, s.resync.segment = some sg ∧ sg.region = e ∧ sg.index = k

/-- A fence that a switch wait or one of the records keeps waiting (R102). -/
def FenceWaits (records : List Record) (f : Fence) : Prop :=
  ∃ x ∈ f.scope, x.wait = .waiting ∨ ∃ r ∈ records, r.region = some x.entry ∧
    (capBelow r.cap f.boundary = true ∨ ∃ c, x.wait = .upTo c ∧ (r.cap = c ∨ capBelow r.cap c = true))

/-- From `s` to `t` an entry keeps its fields, but for a state and for the segments that a condition marks. -/
def Marked (s t : State) (e : RegionIx) (state : RegionState) (more : Nat → Prop) : Prop :=
  t.entry e = { s.entry e with state := state, dirty := (t.entry e).dirty } ∧
  ∀ k, k ∈ (t.entry e).dirty ↔ k ∈ (s.entry e).dirty ∨ more k

/-- The segment in progress is one of the region's (R81). -/
def SegmentOf (s : State) (e : RegionIx) : Prop := ∃ sg, s.resync.segment = some sg ∧ sg.region = e

/-- A segment is in progress, or a block is in DISCARDING (R81, R96). -/
def UnderWay (s : State) : Prop := s.resync.segment ≠ none ∨ s.resync.block = .discarding

/-- From `s` to `t` the block buffers of some records are freed, and where `ends` says that the segment and its block end
also the block's, whose responses due are to be discarded; the others are kept (R82, R91, R92, R95, R96). -/
def BuffersFreed (s t : State) (records : List Record) (ends : Prop) : Prop :=
  let freed := fun b : Fin 4 =>
    (∃ r ∈ records, r.buffer = some b) ∨ (ends ∧ ∃ q, s.resync.reserved = some (b, q))
  (∀ b : Fin 4, (freed b → (t.resync.buffers)[b] = none) ∧
    (¬freed b → (t.resync.buffers)[b] = (s.resync.buffers)[b])) ∧
  (ends → t.resync.segment = none ∧ t.resync.block = .idle ∧ t.resync.issued = 0 ∧ t.resync.taken = 0 ∧
    t.resync.reserved = none ∧ t.resync.toDiscard =
      s.resync.toDiscard + (if s.resync.reserved = none then 0 else s.resync.issued - s.resync.taken)) ∧
  (¬ends → t.resync.segment = s.resync.segment ∧ t.resync.block = s.resync.block ∧
    t.resync.issued = s.resync.issued ∧ t.resync.taken = s.resync.taken ∧
    t.resync.reserved = s.resync.reserved ∧ t.resync.toDiscard = s.resync.toDiscard)

/-! ## Holds and marks -/

/-- From one Memory Path to the next the hold ends where `ends` says so, and nothing else changes (R132, R133). -/
def HoldEnds (m m' : MemPath) (ends : Prop) : Prop :=
  (ends → m' = { m with hold := .none, holdTimer := none }) ∧ (¬ends → m' = m)

/-- The head request is a write held on the region: with SYNC_FULL or BLOCK_READ, which a transition of the region out of
MIRRORED ends (R19, R29, R89). -/
def HeldOn (s : State) (e : RegionIx) : Prop :=
  (s.mem.hold = .syncFull ∨ s.mem.hold = .blockRead) ∧ headRegion s = some e

/-- The release of the block's buffer and slot ends the hold: BLOCK_READ, and SYNC_FULL where the slot is a SYNC one
(R24, R89). -/
def ReleaseEndsHold (s : State) : Prop :=
  ∃ b q, s.resync.reserved = some (b, q) ∧ (s.mem.hold = .blockRead ∨ (q = .sync ∧ s.mem.hold = .syncFull))

/-- The session's departure from UP ends the hold: the sweep takes the region out of MIRRORED, or the block under way is
released (R10, R19, R92). -/
def SweepEndsHold (s : State) : Prop :=
  (∃ e, (s.entry e).state = .mirrored ∧ HeldOn s e) ∨ (UnderWay s ∧ ReleaseEndsHold s)

/-- The Memory Path once `n` of the oldest apply entries have left: an APPLY_PENDING hold waits for as many fewer, and
ends when it waits for none (R116, R124). -/
def applyLeft (m : MemPath) (n : Nat) : MemPath :=
  if m.hold = .applyPending then
    if m.applyWait ≤ n then { m with hold := .none, holdTimer := none, applyWait := 0 }
    else { m with applyWait := m.applyWait - n }
  else m

/-- The dirty flags that are set in `t` and clear in `s` (R79). -/
def marksMade (s t : State) : Nat :=
  ((List.finRange 32).map fun e => ((t.entry e).dirty.filter fun k => k ∉ (s.entry e).dirty).length).sum

/-- From `s` to `t` DIRTY_MARKS counts `n` marks, and of the other counters only EVENTS_LOST may change, for events that
found the ring full (R80, R159, R165). -/
def MarksCounted (s t : State) (n : Nat) : Prop :=
  (t.stats)[statIx .dirtyMarks] = (s.stats)[statIx .dirtyMarks] + BitVec.ofNat 64 n ∧
  ∀ c, c ≠ .dirtyMarks → c ≠ .eventsLost → (t.stats)[statIx c] = (s.stats)[statIx c]

/-! ## Completion of a record -/

/-- What the Link Receiver becomes when it takes the completion of record `seq`, and the control frames that this
generates: a record carried over only counts down; any other moves the ack point, and in a session it counts as
unacknowledged, the 16th drawing an ACK and the first starting the ack-delay timer; a deferred RETRY goes out where the
`free` entries are room for it (R74, R76, R77, R78). -/
def completionTaken (s : State) (seq : BitVec 32) (free : Nat) : Receiver × List ControlFrame :=
  let next := s.rx.unacked + 1
  let taken :=
    if 0 < s.rx.carried then { s.rx with carried := s.rx.carried - 1, compareDue := false }
    else if inSession s then
      if next = 16 then { s.rx with ackPoint := seq, unacked := 0, ackTimer := none, compareDue := false }
      else { s.rx with
        ackPoint := seq, unacked := next, compareDue := false
        ackTimer := if s.rx.unacked = 0 then some (s.ev.timeBase + s.params.ackDelay) else s.rx.ackTimer }
    else { s.rx with ackPoint := seq, compareDue := false }
  let acks := if s.rx.carried = 0 ∧ inSession s = true ∧ next = 16 then
    [(⟨s.session.epoch, .ack seq⟩ : ControlFrame)] else []
  match s.rx.deferred with
  | some need =>
    if inSession s = true ∧ need ≤ free then
      ({ taken with retrySent := true, deferred := none }, acks ++ [⟨s.session.epoch, .retry s.rx.expected⟩])
    else (taken, acks)
  | none => (taken, acks)

/-- From `w` to `t` the RELEASING target `e` becomes FREE, with its event and its CLOSE where one is pending (R14, R123,
R147). That the event shows the role TARGET is the model's reading (notes/assumptions/14.md). -/
def TargetFreed (w t : State) (e : RegionIx) : Prop :=
  t.entry e = Entry.zero ∧ (∀ e', e' ≠ e → t.entry e' = w.entry e') ∧
  t.apply = { w.apply with reports := t.apply.reports } ∧ (t.apply.reports)[e] = ⟨none, 0⟩ ∧
  (∀ e', e' ≠ e → (t.apply.reports)[e'] = (w.apply.reports)[e']) ∧
  t.cmd = { w.cmd with pendingClose := t.cmd.pendingClose } ∧ (t.cmd.pendingClose)[e] = none ∧
  (∀ e', e' ≠ e → (t.cmd.pendingClose)[e'] = (w.cmd.pendingClose)[e']) ∧ MarksCounted w t 0 ∧
  ((w.cmd.pendingClose)[e] = none → t.ev = w.ev) ∧
  (∀ tag, (w.cmd.pendingClose)[e] = some tag → ringRoom w 2 → eventsOf t = eventsOf w ++
    [.regionState .released e .target .releasing .free, .commandDone .ok tag 5 (BitVec.ofNat 8 e.val) 0]) ∧
  SameBut [.regions, .apply, .cmd, .ev, .stats] w t

/-- What the test of R14 makes of a state whose oldest entry, of the target `e`, has just gone: a RELEASING target with
no line left is freed, and nothing else changes. -/
def TargetTested (w t : State) (e : RegionIx) : Prop :=
  let stays := (w.entry e).state ≠ .releasing ∨ ∃ y ∈ w.apply.queue, y.isLine = true ∧ y.target = some e
  (stays → t = w) ∧ (¬stays → TargetFreed w t e)

/-- The state once the passive entry `p` before `rest`, the last of its record, has completed, but for the test of its
target: a NOTE is delivered, and RECORDS_APPLIED counts the record unless it was rejected or had an error (R116, R117,
R124). -/
def passiveDone (u : State) (p : ApplyEntry) (rest : List ApplyEntry) : State :=
  let noted := match p.kind with
    | .note tag payload => emit u (.noteReceived tag payload)
    | .line .. | .rejected _ => u
  let counted := match p.kind with
    | .rejected _ => noted
    | .line .. | .note .. => if u.apply.headError then noted else count noted .recordsApplied
  { counted with
    mem := applyLeft u.mem 1
    apply := { u.apply with queue := rest, headError := false }
    rx := (completionTaken u p.seq (128 - rest.length)).1
    tx := { u.tx with control := u.tx.control ++ (completionTaken u p.seq (128 - rest.length)).2 } }

/-- What passive entries are (R115), and that they complete one after another while the oldest entry is one (R116). -/
def PassivesComplete (u : State) : Prop :=
  (∀ p : ApplyEntry, p.passive = true ↔ (∃ reason, p.kind = .rejected reason) ∨ (∃ tag payload, p.kind = .note tag payload) ∨
    ∃ addr data kind, p.kind = .line addr 0 data kind) ∧
  ((∀ p, u.apply.queue.head? = some p → p.passive = false) → settle u = u) ∧
  ∀ p rest, u.apply.queue = p :: rest → p.passive = true →
    (p.last = true → ∃ t, settle u = settle t ∧ (p.target = none → t = passiveDone u p rest) ∧
      ∀ e, p.target = some e → TargetTested (passiveDone u p rest) t e) ∧
    (p.last = false → p.cutShort = false →
      settle u = settle { u with mem := applyLeft u.mem 1, apply := { u.apply with queue := rest } })

/-! ## A session loss -/

/-- What a loss makes of the session, which stands as `x` when it is lost: from UP the part calls again, with its JOIN
timer running where the carrier is present and as it stood, stopped in UP, where it is not; from CLOSING it is
DISABLED. Every other field is kept (R44, R46, R55). -/
def lostSession (s : State) (x : Session) : Session :=
  if x.state = .up then
    { x with
      state := .calling, call := wrapSucc x.call, epoch := 0, answer := none, refusalReported := false
      pendingDisconnect := none
      joinTimer := if x.carrier then some (s.ev.timeBase + s.params.joinInterval) else x.joinTimer }
  else { x with state := .disabled, epoch := 0, joinTimer := none, pendingDisconnect := none }

/-- What the teardown of a loss leaves of the session, the link halves, the queues and the fences, by R55. -/
def SessionEnded (s t : State) : Prop :=
  t.capture.sync = [] ∧ t.capture.async = [] ∧ t.tx.replay = [] ∧ t.fences = [] ∧
  t.capture.counter = s.capture.counter ∧ t.capture.boundary = s.capture.boundary ∧
  t.session.state = (if s.session.state = .up then .calling else .disabled) ∧
  t.session.call = (if s.session.state = .up then wrapSucc s.session.call else s.session.call) ∧
  t.session.epoch = 0 ∧ t.session.lastEpoch = s.session.lastEpoch ∧ t.session.pendingDisconnect = none ∧
  t.tx.timer = none ∧ t.tx.cursor = none ∧ t.tx.timeouts = 0 ∧ t.tx.syncRun = 0 ∧ t.tx.suspended = false ∧
  t.tx.next = s.tx.next ∧ t.tx.highest = s.tx.highest ∧ t.rx.ackTimer = none ∧ t.rx.expected = s.rx.expected

/-- What the teardown leaves of a region: the records that were held and, from UP, the segment in progress become marks;
a MIRRORED region lags from UP; a DRAINING region that held a record is FREE and its CLOSE completed (R10, R12, R37,
R72, R94). -/
def RegionTornDown (s t : State) (e : RegionIx) : Prop :=
  let up := s.session.state = .up
  let same := t.entry e = s.entry e ∧ (t.cmd.pendingClose)[e] = (s.cmd.pendingClose)[e]
  let kept := (t.cmd.pendingClose)[e] = (s.cmd.pendingClose)[e]
  match (s.entry e).state with
  | .lagging => Marked s t e .lagging (fun k => HoldsIn s e k ∨ (up ∧ InProgress s e k)) ∧ kept
  | .mirrored =>
    (up → Marked s t e .lagging (fun k => HoldsIn s e k ∨ InProgress s e k) ∧ kept) ∧ (¬up → same)
  | .refused => Marked s t e .refused (fun k => up ∧ InProgress s e k) ∧ kept
  | .draining => (Holds s e → t.entry e = Entry.zero ∧ (t.cmd.pendingClose)[e] = none) ∧ (¬Holds s e → same)
  | .free | .accepting | .failed | .releasing => same

/-- The events that a teardown requests, where the ring has room for all of them: SESSION_DOWN; LOST for each NOTE held;
NOT_DURABLE for each fence; each region that is swept or drained; the CLOSE of the latter and a pending DISCONNECT with
OK (R10, R12, R37, R55, R105). The role shown by the REGION_STATE of a region that becomes FREE is the model's reading
(notes/assumptions/14.md). -/
def LossReported (s t : State) (cause : LossCause) (part : BitVec 32) : Prop :=
  ringRoom s (34 + s.fences.length + 2 * (heldRecords s).length) →
  ∃ more, eventsOf t = eventsOf s ++ more ∧
    .sessionDown cause s.session.epoch s.tx.highest
      (if s.rx.accepted = true then seqPred s.rx.expected else 0) part ∈ more ∧
    (∀ r ∈ heldRecords s, ∀ tag payload, r.body = .note tag payload → .commandDone .lost tag 7 0 0 ∈ more) ∧
    (∀ f ∈ s.fences, ∃ c e, .fenceDone .notDurable c f.tag e f.boundary ∈ more) ∧
    (∀ e, s.session.state = .up → (s.entry e).state = .mirrored →
      .regionState .sessionDown e .source .mirrored .lagging ∈ more) ∧
    (∀ e, (s.entry e).state = .draining → Holds s e →
      .regionState .drained e .source .draining .free ∈ more ∧
      ∀ tag, (s.cmd.pendingClose)[e] = some tag → .commandDone .ok tag 5 (BitVec.ofNat 8 e.val) 0 ∈ more) ∧
    (∀ tag, s.session.pendingDisconnect = some tag → .commandDone .ok tag 2 0 0 ∈ more)

/-- What the teardown of a loss leaves and reports (R55). The Command Unit keeps its queue, its write-out and its wait
for RESTARTED (R143). A hold ends where the sweep or the end of the block under way ends it, or where a record leaves
the SYNC queue (R19, R24). -/
structure TornDown (s t : State) (cause : LossCause) (part : BitVec 32) : Prop where
  session : SessionEnded s t
  regions : ∀ e, RegionTornDown s t e
  buffers : BuffersFreed s t (heldRecords s) (s.session.state = .up ∧ UnderWay s)
  turn : t.resync.turn = s.resync.turn
  commands : t.cmd = { s.cmd with pendingClose := t.cmd.pendingClose }
  hold : HoldEnds s.mem t.mem ((s.session.state = .up ∧ SweepEndsHold s) ∨ (s.mem.hold = .syncFull ∧ s.capture.sync ≠ []))
  marks : MarksCounted s t (marksMade s t)
  events : LossReported s t cause part

/-! ## Invariants -/

/-- Until a load has succeeded the part is as power-on leaves it, but for the loader, the Memory Path and what its
outputs have carried: nothing is held but by LOADING, nothing is injected, and no forwarded write is kept with a region
(R134, R140, R170, R173). -/
def QuietUntilRunning (s : State) : Prop :=
  s.loader.loadState ≠ .running →
    SameBut [.pending, .resetN, .loader, .mem, .out, .freeCount] State.reset s ∧
    s.mem.hold = (if s.loader.loadState = .loading then .loading else .none) ∧ s.mem.holdTimer = none ∧
    (∀ r ∈ s.mem.outstanding, r.source = .passThrough) ∧ ∀ r ∈ s.mem.responses, r.region = none

/-- The range of a non-FREE entry shares no byte with another one's, with the control page, with the event ring, or with
the destination of the write-out in progress (R6). -/
def RangesApart (s : State) : Prop :=
  let apart := fun (e : RegionIx) (lo hi : Nat) => entryEnd (s.entry e) ≤ lo ∨ hi ≤ (s.entry e).base.toNat
  ∀ e, (s.entry e).state ≠ .free →
    (∀ e', e' ≠ e → (s.entry e').state ≠ .free → apart e (s.entry e').base.toNat (entryEnd (s.entry e'))) ∧
    apart e s.loader.prom.controlBase.toNat (s.loader.prom.controlBase.toNat + 4096) ∧
    apart e s.ev.ringBase.toNat (s.ev.ringBase.toNat + 32 * s.ev.count) ∧
    ∀ w, s.cmd.writeOut = some w → apart e w.dest (w.dest + if w.isSnapshot then 1088 else 128)

/-- The block buffers that the held records and the block under way have (R82). -/
def heldBuffers (s : State) : List (Fin 4) :=
  (heldRecords s).filterMap Record.buffer ++ (s.resync.reserved.map Prod.fst).toList

/-- Each block buffer held has one holder, a held BLOCK record or the block in READING or DISCARDING; a block in
DISCARDING has no segment, and outside a session the replay list is empty (R82, R96). -/
def BuffersAccounted (s : State) : Prop :=
  (heldBuffers s).Nodup ∧ (∀ b : Fin 4, (s.resync.buffers)[b] ≠ none ↔ b ∈ heldBuffers s) ∧
  (s.resync.reserved ≠ none ↔ s.resync.block = .reading ∨ s.resync.block = .discarding) ∧
  (s.resync.block = .discarding → s.resync.segment = none) ∧ (inSession s = false → s.tx.replay = [])

/-- The entries of the current ring that memory has yet to answer stand in the event list or are outstanding at the
memory port, and W lies that many indices before P (R158, R160). -/
def EntriesAccounted (s : State) : Prop :=
  s.ev.unwritten = (s.ev.list.filter EventItem.current).length +
    (s.mem.outstanding.filter fun r => r.source == .writer (.entry true)).length ∧
  s.ev.produce = (s.ev.write + s.ev.unwritten) % (2 * s.ev.count)

/-- While the session is not UP, no source is MIRRORED and no fence is pending (R10, R105). -/
def NoMirrorDown (s : State) : Prop :=
  s.session.state ≠ .up → (∀ e, (s.entry e).state ≠ .mirrored) ∧ s.fences = []

/-- No queue or list holds more than its rule allows (R23, R58, R98, R111, R129, R137, R143, R158, R166). -/
def WithinCapacity (s : State) : Prop :=
  (∀ q, (s.capture.queueOf q).length + reservedIn s q ≤ capacity q) ∧
  s.tx.replay.length ≤ Config.replaySlots ∧ s.apply.queue.length ≤ Config.applySlots ∧
  s.fences.length ≤ Config.fenceSlots ∧ s.cmd.queue.length ≤ Config.commandSlots ∧
  s.mem.responses.length ≤ Config.portSlots ∧ injectedOutstanding s ≤ Config.portSlots ∧
  writerOutstanding s ≤ Config.writerSlots ∧ RingInRange s.ev

/-- Each record's number is the successor of the number before it (R63). -/
def consecutive : List Replayed → Prop
  | a :: b :: rest => b.seq = seqSucc a.seq ∧ consecutive (b :: rest)
  | [_] | [] => True

/-- The replay list holds consecutive numbers up to the highest sent, and the next number follows it (R58, R63). -/
def ReplayInOrder (s : State) : Prop :=
  s.tx.next = seqSucc s.tx.highest ∧ consecutive s.tx.replay ∧
  ∀ r, s.tx.replay.getLast? = some r → r.seq = s.tx.highest

/-- A FREE entry's fields are 0, a target's source fields are 0, and only a LAGGING, MIRRORED or REFUSED entry has a
dirty segment (R1, R11, R79). -/
def EntriesInShape (s : State) : Prop :=
  ∀ e, (let en := s.entry e
    (en.state = .free → en.base = 0 ∧ en.sizeExp = 0) ∧
    (roleOf en.state ≠ .source → en.cls = none ∧ en.peer = 0 ∧ en.cursor = 0) ∧
    (markable en.state = false → en.dirty = []))

end Sys2Proof.Machine
end

