-- ==== Sys2Proof/Certificates/Slice0/Obligations.lean ====
section
/-! DEFINITION. The statements for the provers: what the spec's rules say each command does, what it leaves alone,
and the invariants that every step keeps. -/

open Sys2Proof Sys2Proof.Machine

/-! ## The machine -/

/-- O1. A step takes the command at the front of the queue. -/
def Obligations.StepTakesTheFrontCommand : Prop :=
  ∀ (c : Instr) (rest : List Instr) (s : State), s.pending = c :: rest → step s = exec c { s with pending := rest }

/-- O2. While no command waits, a step passes one microsecond: the time base counts while the part runs, and the load
timer runs down while it loads, until its expiry places the part in BYPASS (R170, R173). That a step on an empty queue
passes a microsecond is the model's choice (notes/assumptions/1.md). -/
def Obligations.IdleStepPassesAMicrosecond : Prop :=
  ∀ s : State, s.pending = [] →
    (s.loader.loadState = .running → step s = .next { s with ev := { s.ev with timeBase := s.ev.timeBase + 1 } }) ∧
    (∀ n, s.loader.loadState = .loading → s.loader.loadTimer = some n →
      (1 < n → step s = .next { s with loader := { s.loader with loadTimer := some (n - 1) } }) ∧
      (n ≤ 1 → step s = .next { s with
        loader := { s.loader with loadState := .bypass, loadTimer := none }
        mem := if s.mem.hold = .loading then { s.mem with hold := .none, holdTimer := none } else s.mem })) ∧
    (s.loader.loadState = .loading → s.loader.loadTimer = none → step s = .next s) ∧
    (s.loader.loadState = .bypass → step s = .next s)

/-- O3. Every command completes in every state, and leaves the commands that wait behind it. That a command answers in a
state where its event cannot occur is the model's choice (notes/assumptions/3.md), and that POWER_ON and RESET_ASSERT
keep the waiting commands is another (notes/assumptions/20.md). -/
def Obligations.EveryCommandCompletes : Prop :=
  ∀ (c : Instr) (s : State), ∃ t, exec c s = .next t ∧ t.pending = s.pending

/-- O4. The state right after reset: the values that the tables of R1, R44, R58, R74, R81, R98, R111, R129, R143 and
R158 give for power-on, with those of the capture counter, the queues and the fence boundary (R22, R39), the carrier and
the transceiver (R40), ATTN (R164), the counters (R165), the load timer and BYPASS (R170, R173). That no command waits is
the model's choice (notes/assumptions/8.md), as are the fields compareDue, behind and unwritten
(notes/assumptions/21.md) and dropped (notes/assumptions/9.md). -/
def Obligations.ResetIsPowerOn : Prop :=
  let s := State.reset
  s.pending = [] ∧ s.resetN = true ∧
  s.loader.loadState = .loading ∧ s.loader.loadTimer = some 20000 ∧
  (∀ e, s.entry e = Entry.zero) ∧
  s.session.state = .disabled ∧ s.session.enable = false ∧ s.session.carrier = false ∧ s.session.transceiver = false ∧
  s.session.dropped = false ∧
  s.session.call = 0 ∧ s.session.lastEpoch = 0 ∧ s.session.epoch = 0 ∧ s.session.peerUnit = 0 ∧
  s.session.peerCall = 0 ∧ s.session.answer = none ∧ s.session.refusalReported = false ∧ s.session.joinTimer = none ∧
  s.session.pendingDisconnect = none ∧
  s.capture = ⟨1, [], [], 0⟩ ∧
  s.tx.control = [] ∧ s.tx.replay = [] ∧ s.tx.next = 1 ∧ s.tx.highest = 0 ∧ s.tx.cursor = none ∧ s.tx.timer = none ∧
  s.tx.timeouts = 0 ∧ s.tx.syncRun = 0 ∧ s.tx.suspended = false ∧
  s.rx.expected = 1 ∧ s.rx.retrySent = false ∧ s.rx.deferred = none ∧ s.rx.ackPoint = 0 ∧ s.rx.unacked = 0 ∧
  s.rx.ackTimer = none ∧ s.rx.carried = 0 ∧ s.rx.compareDue = false ∧
  s.apply.queue = [] ∧ s.apply.headError = false ∧ (∀ e : RegionIx, (s.apply.reports)[e] = ⟨none, 0⟩) ∧
  s.resync.turn = 0 ∧ s.resync.segment = none ∧ s.resync.block = .idle ∧ s.resync.issued = 0 ∧ s.resync.taken = 0 ∧
  s.resync.reserved = none ∧ s.resync.toDiscard = 0 ∧ buffersHeld s.resync = 0 ∧
  s.fences = [] ∧
  s.mem.head = none ∧ s.mem.behind = [] ∧ s.mem.hold = .loading ∧ s.mem.holdTimer = none ∧ s.mem.limitExpired = false ∧
  s.mem.presented = false ∧ s.mem.responses = [] ∧ injectedOutstanding s = 0 ∧ s.mem.run = 0 ∧
  s.mem.pointer = .apply ∧
  s.cmd.queue = [] ∧ (∀ e : RegionIx, (s.cmd.pendingClose)[e] = none) ∧ s.cmd.writeOut = none ∧ s.cmd.waiting = none ∧
  s.ev.count = 64 ∧ s.ev.produce = 0 ∧ s.ev.release = 0 ∧ s.ev.write = 0 ∧ s.ev.unwritten = 0 ∧ s.ev.lost = 0 ∧ s.ev.list = [] ∧
  s.ev.timeBase = 0 ∧ attnPin s = false ∧ s.ev.attnTimer = none ∧
  (∀ k : Fin 16, (s.stats)[k] = 0) ∧ bypassPin s = false

/-! ## Power-on and the configuration load -/

/-- O5. POWER_ON gives every block its power-on value; RESET_ASSERT ends everything in flight without an event and
stops the load. While RESET_N stays asserted, the part takes no request, no image and no carrier report, issues nothing
at the memory port or on the link, and keeps ATTN and BYPASS deasserted (R174). That RESET_ASSERT gives the power-on
values at the assertion, where R174 gives them at the release, that the waiting commands and what has left the part are
kept, and that a command then leaves the part as it is are the model's choices (notes/assumptions/3.md,
notes/assumptions/20.md). -/
def Obligations.PowerOnAndReset : Prop :=
  ∀ s : State,
    let off := { State.reset with
      pending := s.pending, out := s.out, freeCount := s.freeCount, resetN := false,
      loader := { State.reset.loader with loadTimer := none } }
    exec .powerOn s = .next { State.reset with pending := s.pending, out := s.out, freeCount := s.freeCount } ∧
    exec .resetAssert s = .next off ∧ attnPin off = false ∧ bypassPin off = false ∧
    (∀ (req : SysRequest) (image : Line),
      exec (.systemPortRequest req) off = .next off ∧ exec (.promImageRead image) off = .next off) ∧
    exec .loadTimerExpiry off = .next off ∧ exec .carrierUp off = .next off ∧
    exec .memoryPortArbiter off = .next off ∧ exec .transmitArbiterChoice off = .next off ∧
    step { off with pending := [] } = .next { off with pending := [] }

/-- O6. A good image read within the load time brings the part into operation (R172). The fields of the image stand at
the offsets of R180, the image is good when the five checks of R171 pass, and a parameter starts at its loaded value
where its present flag is set, else at its default (R169). -/
def Obligations.GoodImageStartsThePart : Prop :=
  ∀ (image : Line) (s : State),
    let p := promFields image
    let bytes := lineBytes image
    let ranges : Vector (Nat × Nat) 7 :=
      #v[(1, 255), (10, 10000), (1, 15), (0, 1000), (10, 10000), (1, 255), (0, 10000)]
    let start := fun (i : Fin 7) (default : BitVec 32) =>
      if p.present.getLsbD i.val then (p.values[i]).setWidth 32 else default
    (p.signature.toNat = fieldAt bytes 0 4 ∧ p.unitId.toNat = fieldAt bytes 4 1 ∧ p.linkRate.toNat = fieldAt bytes 5 1 ∧
      p.present.toNat = fieldAt bytes 6 2 ∧ p.controlBase.toNat = fieldAt bytes 8 8 ∧
      (∀ i : Fin 7, (p.values[i]).toNat = fieldAt bytes (16 + 2 * i.val) 2) ∧ p.crc.toNat = fieldAt bytes 62 2) ∧
    (imageGood image = true ↔
      p.signature = 0xC3160A5E#32 ∧ crc16 (bytes.take 62) = p.crc ∧
      (p.controlBase.toNat % 4096 = 0 ∧ p.controlBase.toNat < 2 ^ 40 ∧ p.controlBase.toNat + 8192 ≤ 2 ^ 40) ∧
      (1 ≤ p.linkRate.toNat ∧ p.linkRate.toNat ≤ 4) ∧
      ∀ i : Fin 7, p.present.getLsbD i.val = true →
        (ranges[i]).1 ≤ (p.values[i]).toNat ∧ (p.values[i]).toNat ≤ (ranges[i]).2) ∧
    promParams p = ⟨start 0 8, start 1 200, start 2 8, start 3 50, start 4 100, start 5 1, start 6 0⟩ ∧
    (loadRunning s = true → imageGood image = true →
      ∃ t, exec (.promImageRead image) s = .next t ∧
        t.loader = ⟨.running, none, p⟩ ∧ t.params = promParams p ∧ t.session = { s.session with transceiver := true } ∧
        t.ev.ringBase.toNat = p.controlBase.toNat + 4096 ∧
        t.ev = { s.ev with
          ringBase := t.ev.ringBase, count := 64, produce := 1, release := 0, write := 0, unwritten := 1, timeBase := 0
          list := s.ev.list ++ [⟨.ready p.unitId p.controlBase p.linkRate, true, 0, t.ev.ringBase, true⟩] } ∧
        t.mem = (if s.mem.hold = .loading then { s.mem with hold := .none, holdTimer := none } else s.mem) ∧
        SameBut [.loader, .params, .session, .ev, .mem] s t)

/-- O7. A failed check and the load timer's expiry place the part in BYPASS; once the load has ended, neither the end
of a read nor an expiry does anything (R170, R171, R173): that the row then leaves the state as it is is the model's
choice (notes/assumptions/3.md). -/
def Obligations.FailedLoadBypasses : Prop :=
  ∀ (image : Line) (s : State),
    let bypassed : PromFields → State := fun p =>
      { s with
        loader := ⟨.bypass, none, p⟩
        mem := if s.mem.hold = .loading then { s.mem with hold := .none, holdTimer := none } else s.mem }
    (loadRunning s = true → imageGood image = false →
      exec (.promImageRead image) s = .next (bypassed (promFields image))) ∧
    (loadRunning s = true → exec .loadTimerExpiry s = .next (bypassed s.loader.prom)) ∧
    (loadRunning s = false → exec (.promImageRead image) s = .next s ∧ exec .loadTimerExpiry s = .next s)

/-! ## The mirror link -/

/-- O8. Frames that have no effect beyond a count. A delivered frame that fails the checks of R42 is counted. A good
PART, record or acknowledgment frame that is not of the session's epoch and peer is stale and counted; a JOIN in
DISABLED and an ACCEPT outside CALLING are dropped without a count (R43, R49). A frame delivered before the carrier
dropped is taken so behind the drop too (R43, R108); that every frame taken then was delivered before is the model's
choice (notes/assumptions/9.md). Before the carrier has first been present R40 delivers none, and that the row then leaves
the state as it is is another (notes/assumptions/3.md). -/
def Obligations.FramesThatAreNotTaken : Prop :=
  (∀ (c : Instr) (bytes : List Byte) (s : State), frameArrival c = some bytes →
    (frameGood bytes = true ↔
      (4 ≤ bytes.length ∧ leNat (bytes.drop (bytes.length - 4)) = (crc32 (bytes.take (bytes.length - 4))).toNat) ∧
      ∃ k, frameCode k = fieldAt bytes 0 1 ∧ fieldAt bytes 6 2 = frameLength k ∧ bytes.length = frameLength k ∧
        (k = .join ∨ k = .accept → fieldAt bytes 2 2 = 0)) ∧
    (s.session.carrier = true ∨ s.session.dropped = true → frameGood bytes = false →
      exec c s = .next (count s .framesBad)) ∧
    (s.session.carrier = false → s.session.dropped = false → exec c s = .next s)) ∧
  (∀ (c : Instr) (bytes : List Byte) (s : State), sessionArrival c = some bytes → Delivered s bytes →
    ¬(inSession s = true ∧ frameEpoch bytes = s.session.epoch ∧ frameSender bytes = s.session.peerUnit) →
    exec c s = .next (count s .framesStale)) ∧
  (∀ (rest : List Byte) (s : State), Delivered s (frameOf .join rest) → s.session.state = .disabled →
    exec (.join rest) s = .next s) ∧
  (∀ (rest : List Byte) (s : State), Delivered s (frameOf .accept rest) → s.session.state ≠ .calling →
    exec (.accept rest) s = .next s)

/-- O9. Every frame that the part builds passes the checks of R42, and its fields read back as what went into it (R41,
R179, section 12.6). -/
def Obligations.BuiltFramesReadBack : Prop :=
  (∀ (unit : BitVec 8) (f : ControlFrame),
    (match f.body with
      | .join .. | .accept .. => f.epoch = 0
      | .part .. | .ack .. | .retry .. | .reject .. => True) →
    let bytes := controlBytes unit f
    frameGood bytes = true ∧ frameEpoch bytes = f.epoch ∧ frameSender bytes = unit ∧
    (match f.body with
      | .join call last => joinFields bytes = ⟨unit, call, last, Config.protocolVersion⟩
      | .accept epoch call echo last => acceptFields bytes = ⟨unit, epoch, call, echo, last⟩
      | .part seq => frameSeq bytes = seq
      | .ack seq => frameSeq bytes = seq
      | .retry seq => frameSeq bytes = seq
      | .reject seq peer reason =>
        frameSeq bytes = seq ∧ framePeer bytes = peer ∧ (byteAt bytes 13).toNat = rejectReasonCode reason)) ∧
  (∀ (unit : BitVec 8) (epoch : BitVec 16) (buffers : Vector (Option BlockData) 4) (r : Replayed),
    let bytes := recordBytes unit epoch buffers r
    frameGood bytes = true ∧ frameEpoch bytes = epoch ∧ frameSender bytes = unit ∧ frameSeq bytes = r.seq ∧
    (match r.record.body with
      | .write _ peer line mask data _ =>
        writeFields bytes = .write (BitVec.ofNat 8 peer.val) (line % 2 ^ 32) mask data
      | .block _ peer block buffer =>
        blockFields bytes = .block (BitVec.ofNat 8 peer.val) (block % 2 ^ 32) ((buffers[buffer]).getD 0)
      | .note tag payload => noteFields bytes = .note tag payload))

/-- O10. A JOIN taken in CALLING is refused, with at most one JOIN_REFUSED for each call number, or answered by an
ACCEPT (R47). -/
def Obligations.JoinInCalling : Prop :=
  ∀ (rest : List Byte) (s : State), Delivered s (frameOf .join rest) → s.session.state = .calling →
    let j := joinFields (frameOf .join rest)
    let e := wrapSucc (if s.session.lastEpoch.toNat < j.last.toNat then j.last else s.session.lastEpoch)
    let refused := j.sender = s.loader.prom.unitId ∨ j.version ≠ 1
    let cause : RefusalCause := if j.sender = s.loader.prom.unitId then .sameUnit else .version
    (refused → s.session.refusalReported = true → exec (.join rest) s = .next s) ∧
    (refused → s.session.refusalReported = false →
      exec (.join rest) s =
        .next (emit { s with session := { s.session with refusalReported := true } }
          (.joinRefused cause j.sender j.version))) ∧
    (¬refused →
      exec (.join rest) s = .next { s with
        session := { s.session with
          peerUnit := j.sender, peerCall := j.call, answer := some ⟨e, j.call, s.session.lastEpoch⟩,
          joinTimer := some (s.ev.timeBase + s.params.joinInterval) }
        tx := { s.tx with
          control := s.tx.control ++ [⟨0, .accept e s.session.call j.call s.session.lastEpoch⟩] } })

/-- O11. A JOIN taken in UP or CLOSING: a refused one is reported at most once, by one JOIN_REFUSED; the current
peer's is answered with the answer unchanged; any other ends the session with PEER_REJOINED, and from UP the same JOIN
is then answered in CALLING by an ACCEPT, behind the part's own JOIN where the carrier is present (R46, R49). What the
loss keeps of the session and the link halves stays (R44). That REGION_STATE of a DRAINING region that becomes FREE
with the session shows the role SOURCE is the model's reading (notes/assumptions/14.md), and that a loss claim stands
until it is taken another (notes/assumptions/13.md). By the model's reading a loss leaves the unacknowledged
completions, the deferred RETRY and RETRY sent as they are (notes/assumptions/24.md). -/
def Obligations.JoinInSession : Prop :=
  ∀ (rest : List Byte) (s : State), Delivered s (frameOf .join rest) → inSession s = true →
    let j := joinFields (frameOf .join rest)
    let refused := j.sender = s.loader.prom.unitId ∨ j.version ≠ 1
    let cause : RefusalCause := if j.sender = s.loader.prom.unitId then .sameUnit else .version
    let current := j.sender = s.session.peerUnit ∧ j.call = s.session.peerCall
    let call := wrapSucc s.session.call
    let last := s.session.lastEpoch
    let e := wrapSucc (if last.toNat < j.last.toNat then j.last else last)
    (refused → s.session.refusalReported = true → exec (.join rest) s = .next s) ∧
    (refused → s.session.refusalReported = false →
      exec (.join rest) s =
        .next (emit { s with session := { s.session with refusalReported := true } }
          (.joinRefused cause j.sender j.version))) ∧
    (¬refused → current → ∀ a, s.session.answer = some a →
      exec (.join rest) s = .next { s with
        tx := { s.tx with control := s.tx.control ++ [⟨0, .accept a.epoch s.session.call a.echo a.last⟩] } }) ∧
    (¬refused → ¬current → s.session.state = .closing → ∃ t, exec (.join rest) s = .next t ∧
      TornDown s t .peerRejoined 0 ∧ t.tx.control = [] ∧ t.session = lostSession s s.session ∧
      t.rx = { s.rx with ackTimer := none } ∧ t.tx.lossClaim = s.tx.lossClaim ∧
      SameBut [.regions, .session, .capture, .tx, .rx, .resync, .fences, .mem, .cmd, .ev, .stats] s t) ∧
    (¬refused → ¬current → s.session.state = .up → ∃ t, exec (.join rest) s = .next t ∧
      TornDown s t .peerRejoined 0 ∧
      t.session = { lostSession s s.session with
        peerUnit := j.sender, peerCall := j.call, answer := some ⟨e, j.call, last⟩
        joinTimer := some (s.ev.timeBase + s.params.joinInterval) } ∧
      t.session.refusalReported = false ∧ t.rx = { s.rx with ackTimer := none } ∧ t.tx.lossClaim = s.tx.lossClaim ∧
      t.tx.control = (if s.session.carrier = true then [⟨0, .join call last⟩] else []) ++
        [⟨0, .accept e call j.call last⟩] ∧
      SameBut [.regions, .session, .capture, .tx, .rx, .resync, .fences, .mem, .cmd, .ev, .stats] s t)

/-- O12. A valid ACCEPT taken in CALLING: it is answered unless its answer was already sent, the part enters UP with
both link halves started afresh, the records of earlier sessions still draining carried over (R74), and SESSION_UP is
requested; any other ACCEPT is ignored (R48). That entry into UP discards a loss claim that is left is the model's
reading (notes/assumptions/13.md), and that the first turn of R83 is the step behind it another
(notes/assumptions/11.md). -/
def Obligations.AcceptInCalling : Prop :=
  ∀ (rest : List Byte) (s : State), Delivered s (frameOf .accept rest) → s.session.state = .calling →
    let a := acceptFields (frameOf .accept rest)
    let valid := a.sender ≠ s.loader.prom.unitId ∧ a.echo = s.session.call ∧
      a.epoch = wrapSucc (if s.session.lastEpoch.toNat < a.last.toNat then a.last else s.session.lastEpoch)
    let sent := ∃ x, s.session.answer = some x ∧ x.epoch = a.epoch ∧ x.echo = a.call
    (¬valid → exec (.accept rest) s = .next s) ∧
    (∀ answer frames, valid →
      (sent → answer = s.session.answer ∧ frames = []) →
      (¬sent → answer = some ⟨a.epoch, a.call, s.session.lastEpoch⟩ ∧
        frames = [⟨0, .accept a.epoch s.session.call a.call s.session.lastEpoch⟩]) →
      exec (.accept rest) s = .next (emit { s with
        session := { s.session with
          state := .up, epoch := a.epoch, lastEpoch := a.epoch, joinTimer := none, peerUnit := a.sender,
          peerCall := a.call, answer := answer }
        tx :=
          { control := s.tx.control ++ frames, replay := [], next := 1, highest := 0, cursor := none, timer := none,
            timeouts := 0, syncRun := 0, suspended := false, lossClaim := none }
        rx :=
          { expected := 1, accepted := false, retrySent := false, deferred := none, ackPoint := 0, unacked := 0,
            ackTimer := none, carried := (s.apply.queue.filter fun en => en.last).length, compareDue := false } }
        (.sessionUp a.epoch a.sender a.call s.session.call)))

/-- O13. The three losses that a PART, a loss claim and the carrier's drop bring in UP or CLOSING tear the session
down, and turn what was held of LAGGING regions into marks (R37, R52, R53, R54, R55, R72); the frames waiting for the
link are discarded, and from UP the part calls again if the carrier is present. A claim taken in DISABLED or CALLING
is dropped. What the loss enters anew of the session, and what it keeps of the session, the link halves and the
Command Unit, are those of R44, R46 and R143. The holds that the teardown ends, the marks that it makes and their
count are those of R10, R19, R24 and R80. A PART that ends a session with nothing in flight requests SESSION_DOWN and
no other event. An ACK delivered before the carrier dropped and taken behind the report is stale (R43, R108), where
that it was delivered before is the model's choice (notes/assumptions/9.md). That REGION_STATE of a DRAINING region
that becomes FREE shows the role SOURCE is the model's reading (notes/assumptions/14.md), and that a loss claim stands
until it is taken another (notes/assumptions/13.md). By the model's reading a loss leaves the unacknowledged
completions, the deferred RETRY and RETRY sent as they are (notes/assumptions/24.md). -/
def Obligations.LossTearsTheSessionDown : Prop :=
  (∀ (rest : List Byte) (s : State), Current s (frameOf .part rest) → ∃ t, exec (.part rest) s = .next t ∧
    TornDown s t .peerLeft (frameSeq (frameOf .part rest)) ∧ t.session = lostSession s s.session ∧
    t.rx = { s.rx with ackTimer := none } ∧ t.tx.lossClaim = s.tx.lossClaim ∧
    t.tx.control = (if s.session.state = .up ∧ s.session.carrier = true then
      [⟨0, .join t.session.call t.session.lastEpoch⟩] else []) ∧
    SameBut [.regions, .session, .capture, .tx, .rx, .resync, .fences, .mem, .cmd, .ev, .stats] s t) ∧
  (∀ (cause : LossCause) (s : State), s.tx.lossClaim = some cause →
    (inSession s = false → exec .lossClaim s = .next { s with tx := { s.tx with lossClaim := none } }) ∧
    (inSession s = true → ∃ t, exec .lossClaim s = .next t ∧ TornDown s t cause 0 ∧ t.tx.lossClaim = none ∧
      t.session = lostSession s s.session ∧ t.rx = { s.rx with ackTimer := none } ∧
      (cause ≠ .disconnected → t.tx.control =
        (if s.session.state = .up ∧ s.session.carrier = true then [⟨0, .join t.session.call t.session.lastEpoch⟩]
          else [])) ∧
      SameBut [.regions, .session, .capture, .tx, .rx, .resync, .fences, .mem, .cmd, .ev, .stats] s t)) ∧
  (∀ s : State, s.session.carrier = true → inSession s = true → ∃ t, exec .carrierDown s = .next t ∧
    TornDown s t .carrier 0 ∧ t.tx.control = [] ∧
    t.session = lostSession s { s.session with carrier := false, dropped := true } ∧
    t.rx = { s.rx with ackTimer := none } ∧ t.tx.lossClaim = s.tx.lossClaim ∧
    (∀ rest, frameGood (frameOf .ack rest) = true → exec (.ack rest) t = .next (count t .framesStale)) ∧
    SameBut [.regions, .session, .capture, .tx, .rx, .resync, .fences, .mem, .cmd, .ev, .stats] s t) ∧
  (∀ (rest : List Byte) (s : State), Current s (frameOf .part rest) → s.session.state = .up →
    (∀ e, (s.entry e).state ≠ .mirrored) → s.capture.sync = [] → s.capture.async = [] → s.tx.replay = [] →
    s.resync.segment = none → s.resync.block = .idle → s.fences = [] → s.session.pendingDisconnect = none →
    ringRoom s 1 →
    ∃ t, exec (.part rest) s = .next t ∧
      eventsOf t = eventsOf s ++ [.sessionDown .peerLeft s.session.epoch s.tx.highest
        (if s.rx.accepted = true then seqPred s.rx.expected else 0) (frameSeq (frameOf .part rest))] ∧
      t.regions = s.regions ∧ t.stats = s.stats)

/-- O14. Carrier reports (R53): carrier-up sets the flag of a started transceiver, and in CALLING a JOIN goes out at
once; carrier-down outside a session clears the flag and discards the frames that wait. That a report which does not
change the flag leaves the state as it is is the model's choice (notes/assumptions/3.md): the transceiver reports changes
(R40). The field `dropped`, which a drop sets, is the model's own (notes/assumptions/9.md). -/
def Obligations.CarrierReports : Prop :=
  ∀ s : State,
    (s.session.transceiver = true → s.session.carrier = false → s.session.state ≠ .calling →
      exec .carrierUp s = .next { s with session := { s.session with carrier := true } }) ∧
    (s.session.transceiver = true → s.session.carrier = false → s.session.state = .calling →
      exec .carrierUp s = .next { s with
        session := { s.session with
          carrier := true, joinTimer := some (s.ev.timeBase + s.params.joinInterval) }
        tx := { s.tx with control := s.tx.control ++ [⟨0, .join s.session.call s.session.lastEpoch⟩] } }) ∧
    (s.session.carrier = true → exec .carrierUp s = .next s) ∧
    (s.session.carrier = false → exec .carrierDown s = .next s) ∧
    (s.session.carrier = true → s.session.state = .disabled →
      exec .carrierDown s = .next { s with
        session := { s.session with carrier := false, dropped := true }, tx := { s.tx with control := [] } }) ∧
    (s.session.carrier = true → s.session.state = .calling →
      exec .carrierDown s = .next { s with
        session := { s.session with carrier := false, dropped := true, joinTimer := none }
        tx := { s.tx with control := [] } })

/-- O15. A sequenced record whose number is E and which finds room is accepted: its entries join the apply queue, its
REJECT is generated, and E advances (R75, R114). Passive entries that have become the oldest complete at once (R116):
a NOTE that finds the queue empty is delivered by NOTE_RECEIVED and counted (R117), and a rejected record, or a WRITE
with an empty mask, that finds it empty completes in the same action behind its REJECT (R77, R114). That REGION_STATE
of a target that becomes FREE shows the role TARGET is the model's reading (notes/assumptions/14.md). -/
def Obligations.InOrderRecordIsAccepted : Prop :=
  ∀ (c : Instr) (bytes : List Byte) (seq : BitVec 32) (rec : Inbound) (s : State),
    sessionArrival c = some bytes → recordArrival c = some (seq, rec) → Current s bytes → seq = s.rx.expected →
    (recordEntries s seq rec).1.length ≤ Config.applySlots - s.apply.queue.length →
    let entries := (recordEntries s seq rec).1
    let accepted := { s with
      apply := { s.apply with queue := s.apply.queue ++ entries }
      tx := { s.tx with
        control := s.tx.control ++ ((recordEntries s seq rec).2.map fun b => ⟨s.session.epoch, b⟩).toList }
      rx := { s.rx with expected := seqSucc s.rx.expected, accepted := true, retrySent := false, deferred := none } }
    (exec c s = .next (settle accepted) ∧ PassivesComplete accepted) ∧
    (∀ p, s.apply.queue = [] → entries = [p] → p.passive = true → ∃ t, exec c s = .next t ∧
      (p.target = none → t = passiveDone accepted p []) ∧
      ∀ e, p.target = some e → TargetTested (passiveDone accepted p []) t e) ∧
    (∃ t, exec c s = .next t ∧
      t.rx.expected = seqSucc s.rx.expected ∧ t.rx.accepted = true ∧ t.rx.retrySent = false ∧ t.rx.deferred = none ∧
      (∀ en, t.apply.queue.head? = some en → en.passive = false) ∧
      SameBut [.apply, .tx, .rx, .regions, .cmd, .mem, .ev, .stats] s t ∧
      ((∀ en, (s.apply.queue ++ (recordEntries s seq rec).1).head? = some en → en.passive = false) →
        t.apply = { s.apply with queue := s.apply.queue ++ (recordEntries s seq rec).1 } ∧
        t.tx = { s.tx with
          control := s.tx.control ++ ((recordEntries s seq rec).2.map fun b => ⟨s.session.epoch, b⟩).toList } ∧
        t.rx = { s.rx with expected := seqSucc s.rx.expected, accepted := true, retrySent := false, deferred := none } ∧
        SameBut [.apply, .tx, .rx] s t)) ∧
    (∀ tag payload, rec = .note tag payload → s.apply.queue = [] → s.apply.headError = false → s.rx.carried = 0 →
      s.rx.unacked = 0 → s.mem.hold ≠ .applyPending →
      exec c s = .next { count (emit s (.noteReceived tag payload)) .recordsApplied with
        rx := { s.rx with
          expected := seqSucc seq, accepted := true, retrySent := false, deferred := none, ackPoint := seq, unacked := 1,
          ackTimer := some (s.ev.timeBase + s.params.ackDelay), compareDue := false } })

/-- O16. Validation of a record against the Region Table: the reasons in their order, and what the record needs of the
apply queue (R113). -/
def Obligations.RecordValidation : Prop :=
  ∀ (s : State) (seq : BitVec 32) (peer : BitVec 8),
    let rejected := fun (target : Option RegionIx) (reason : RejectReason) =>
      (([⟨seq, s.session.epoch, target, .rejected reason, true, false, false⟩] : List ApplyEntry),
        some (ControlBody.reject seq peer reason))
    (∀ line mask data,
      (32 ≤ peer.toNat → recordEntries s seq (.write peer line mask data) = rejected none .noTarget) ∧
      (∀ e : RegionIx, e.val = peer.toNat →
        (roleOf (s.entry e).state ≠ .target ∨ (s.entry e).state = .releasing →
          recordEntries s seq (.write peer line mask data) = rejected (some e) .noTarget) ∧
        ((s.entry e).state = .failed →
          recordEntries s seq (.write peer line mask data) = rejected (some e) .targetFailed) ∧
        ((s.entry e).state = .accepting → 2 ^ ((s.entry e).sizeExp - 6) ≤ line →
          recordEntries s seq (.write peer line mask data) = rejected (some e) .outOfRange) ∧
        ((s.entry e).state = .accepting → line < 2 ^ ((s.entry e).sizeExp - 6) →
          recordEntries s seq (.write peer line mask data) =
            ([⟨seq, s.session.epoch, some e,
              .line (BitVec.ofNat 40 ((s.entry e).base.toNat + 64 * line)) mask data .write, true, false, false⟩],
              none)))) ∧
    (∀ block data,
      (32 ≤ peer.toNat → recordEntries s seq (.block peer block data) = rejected none .noTarget) ∧
      (∀ e : RegionIx, e.val = peer.toNat →
        (roleOf (s.entry e).state ≠ .target ∨ (s.entry e).state = .releasing →
          recordEntries s seq (.block peer block data) = rejected (some e) .noTarget) ∧
        ((s.entry e).state = .failed →
          recordEntries s seq (.block peer block data) = rejected (some e) .targetFailed) ∧
        ((s.entry e).state = .accepting → 2 ^ ((s.entry e).sizeExp - 12) ≤ block →
          recordEntries s seq (.block peer block data) = rejected (some e) .outOfRange) ∧
        ((s.entry e).state = .accepting → block < 2 ^ ((s.entry e).sizeExp - 12) →
          (recordEntries s seq (.block peer block data)).2 = none ∧
          (recordEntries s seq (.block peer block data)).1.length = 64 ∧
          ∀ k, k < 64 → (recordEntries s seq (.block peer block data)).1[k]? =
            some ⟨seq, s.session.epoch, some e,
              .line (BitVec.ofNat 40 ((s.entry e).base.toNat + 4096 * block + 64 * k)) (BitVec.allOnes 64)
                (blockLine data k) .block, decide (k = 63), false, false⟩))) ∧
    (∀ tag payload, recordEntries s seq (.note tag payload) =
      ([⟨seq, s.session.epoch, none, .note tag payload, true, false, false⟩], none))

/-- O17. A duplicate is counted and answered with an ACK; a gap draws one RETRY; a record in order that finds too
little room is deferred (R75, R76). -/
def Obligations.DuplicateGapAndDeferred : Prop :=
  ∀ (c : Instr) (bytes : List Byte) (seq : BitVec 32) (rec : Inbound) (s : State),
    sessionArrival c = some bytes → recordArrival c = some (seq, rec) → Current s bytes →
    (seqBelow seq s.rx.expected = true →
      exec c s = .next { count s .duplicates with
        tx := { s.tx with control := s.tx.control ++ [⟨s.session.epoch, .ack s.rx.ackPoint⟩] }
        rx := { s.rx with unacked := 0, ackTimer := none } }) ∧
    (seqBelow s.rx.expected seq = true → s.rx.retrySent = false → s.rx.deferred = none →
      exec c s = .next { count s .gaps with
        tx := { s.tx with control := s.tx.control ++ [⟨s.session.epoch, .retry s.rx.expected⟩] }
        rx := { s.rx with retrySent := true } }) ∧
    (seqBelow s.rx.expected seq = true → (s.rx.retrySent = true ∨ s.rx.deferred ≠ none) → exec c s = .next s) ∧
    (seq = s.rx.expected → Config.applySlots - s.apply.queue.length < (recordEntries s seq rec).1.length →
      exec c s = .next { s with rx := { s.rx with deferred := some (recordEntries s seq rec).1.length } })

/-- O18. An ACK(n): beyond the highest sent it makes a PROTOCOL claim, unless one stands; with nothing to remove it is
ignored; otherwise the records of number n or below leave the replay list, the timeout count becomes 0 and the replay
timer restarts or stops (R64, R65, R71). In UP the steps of R66 follow in order: the buffers of the removed BLOCKs are
freed and the SEND_NOTE of each removed NOTE completes with OK; each DRAINING region whose last record was removed
becomes FREE and its CLOSE completes (R12); the fences that nothing keeps waiting complete DURABLE (R102, R103, R106).
In CLOSING the same steps but the last are followed by the drain test (R51). By the model's readings REGION_STATE of a
region that becomes FREE shows the role SOURCE (notes/assumptions/14.md), and a block that waits for a freed buffer
starts in a step of its own (notes/assumptions/11.md). That an ACK which is neither beyond the highest sent nor below
the oldest record, and has no record of its number or below, is ignored too is the model's reading
(notes/assumptions/18.md). -/
def Obligations.AckRemovesTheCovered : Prop :=
  ∀ (rest : List Byte) (s : State), Current s (frameOf .ack rest) →
    let n := frameSeq (frameOf .ack rest)
    let covered := fun r : Replayed => r.seq == n || seqBelow r.seq n
    let gone := s.tx.replay.takeWhile covered
    let left := s.tx.replay.dropWhile covered
    let records := s.capture.sync ++ s.capture.async ++ left.map Replayed.record
    (seqBelow s.tx.highest n = true → s.tx.suspended = true → exec (.ack rest) s = .next s) ∧
    (seqBelow s.tx.highest n = true → s.tx.suspended = false →
      exec (.ack rest) s = .next { s with
        tx := { s.tx with timer := none, suspended := true, lossClaim := some .protocol } }) ∧
    (seqBelow s.tx.highest n = false → (∀ r, s.tx.replay.head? = some r → covered r = false) →
      exec (.ack rest) s = .next s) ∧
    (∀ oldest, seqBelow s.tx.highest n = false → s.tx.replay.head? = some oldest → covered oldest = true →
      ∃ t u, exec (.ack rest) s = .next t ∧ exec .drainTestPassed u = .next t ∧ t.tx.replay = left ∧
        SameBut [.regions, .session, .capture, .tx, .rx, .resync, .fences, .mem, .cmd, .ev, .stats] s t ∧
        (s.session.state = .up → t = u) ∧
        u.tx = { s.tx with
          replay := left
          timeouts := 0
          cursor := (match s.tx.cursor with
            | some m => if left.any fun r => r.seq == m then some m else left.head?.map Replayed.seq
            | none => none)
          timer := if left = [] ∨ s.tx.suspended = true then none
            else some (s.ev.timeBase + s.params.replayTimeout) } ∧
        u.resync = { s.resync with buffers := u.resync.buffers } ∧
        (∀ b : Fin 4,
          ((∃ r ∈ gone, r.record.buffer = some b) → (u.resync.buffers)[b] = none) ∧
          ((∀ r ∈ gone, r.record.buffer ≠ some b) → (u.resync.buffers)[b] = (s.resync.buffers)[b])) ∧
        u.cmd = { s.cmd with pendingClose := u.cmd.pendingClose } ∧
        MarksCounted s u 0 ∧ SameBut [.tx, .resync, .regions, .cmd, .fences, .ev, .stats] s u ∧
        (∀ (drained : RegionIx → Bool) (kept : Fence → Bool),
          (∀ e, drained e = true ↔ (s.entry e).state = .draining ∧ (∃ r ∈ gone, r.record.region = some e) ∧
            ∀ r ∈ records, r.region ≠ some e) →
          (∀ f, kept f = true ↔ s.session.state ≠ .up ∨ FenceWaits records f) →
          let fences := s.fences.map fun f => { f with scope := f.scope.filter fun x => !drained x.entry }
          (∀ e, u.entry e = (if drained e then Entry.zero else s.entry e) ∧
            (u.cmd.pendingClose)[e] = (if drained e then none else (s.cmd.pendingClose)[e])) ∧
          u.fences = fences.filter kept ∧
          (ringRoom s (3 * gone.length + s.fences.length) → eventsOf u = eventsOf s ++
            (gone.filterMap fun r => match r.record.body with
              | .note tag _ => some (.commandDone .ok tag 7 0 0)
              | _ => none) ++
            ((List.finRange 32).filter drained).flatMap (fun e =>
              .regionState .drained e .source .draining .free ::
                (((s.cmd.pendingClose)[e]).map fun tag => .commandDone .ok tag 5 (BitVec.ofNat 8 e.val) 0).toList) ++
            (fences.filter fun f => !kept f).map fun f => .fenceDone .durable .none f.tag none f.boundary))) ∧
    (∀ cap tag payload, seqBelow s.tx.highest n = false → s.tx.replay = [⟨n, ⟨cap, .note tag payload⟩⟩] →
      s.session.state = .up → s.fences = [] →
      exec (.ack rest) s = .next (emit { s with
        tx := { s.tx with replay := [], timeouts := 0, cursor := none, timer := none } }
        (.commandDone .ok tag 7 0 0)))

/-- O19. A RETRY(n): two or more beyond the highest sent it makes a PROTOCOL claim, unless one stands; with the replay
list empty, or below its oldest record, it is ignored; the highest sent plus one clears the cursor, and a record held
sets it. Nothing is removed (R67, R71). -/
def Obligations.RetrySetsTheCursor : Prop :=
  ∀ (rest : List Byte) (s : State), Current s (frameOf .retry rest) →
    let n := frameSeq (frameOf .retry rest)
    let beyond := seqBelow (seqSucc s.tx.highest) n
    (beyond = true → s.tx.suspended = true → exec (.retry rest) s = .next s) ∧
    (beyond = true → s.tx.suspended = false →
      exec (.retry rest) s = .next { s with
        tx := { s.tx with timer := none, suspended := true, lossClaim := some .protocol } }) ∧
    (beyond = false → s.tx.replay = [] → exec (.retry rest) s = .next s) ∧
    (∀ oldest, beyond = false → s.tx.replay.head? = some oldest →
      (seqBelow n oldest.seq = true → exec (.retry rest) s = .next s) ∧
      (seqBelow n oldest.seq = false → n = seqSucc s.tx.highest →
        exec (.retry rest) s = .next { s with tx := { s.tx with cursor := none } }) ∧
      (seqBelow n oldest.seq = false → n ≠ seqSucc s.tx.highest → (∃ r ∈ s.tx.replay, r.seq = n) →
        exec (.retry rest) s = .next { s with tx := { s.tx with cursor := some n } }))

/-- O20. A REJECT that names a WRITE or BLOCK of the replay list requests RECORD_REJECTED and claims REFUSED: a
MIRRORED or LAGGING region is refused with every segment marked, its queued records and its segment in progress
gone, their buffers freed and the responses due counted to be discarded; the fences of whose scope it is complete
NOT_DURABLE with REGION_REFUSED, and those that the removal lets pass DURABLE; a hold on it, on a SYNC slot or on the block
ends; in any other state the claim is dropped. Any other REJECT is stale (R9, R19, R24, R36, R80, R92, R103, R104, R125).
By the model's readings the fences complete in that order (notes/assumptions/15.md), with REGION_REFUSED also for a switch
segment (notes/assumptions/30.md), and the next turn is a step of its own (notes/assumptions/11.md). -/
def Obligations.RejectRefusesTheRegion : Prop :=
  ∀ (rest : List Byte) (s : State), Current s (frameOf .reject rest) →
    let seq := frameSeq (frameOf .reject rest)
    let event := fun (r : Replayed) (e : RegionIx) =>
      Event.recordRejected e seq r.record.cap r.record.kind (framePeer (frameOf .reject rest))
        (byteAt (frameOf .reject rest) 13)
    let found := s.tx.replay.find? fun r => r.seq == seq
    (found = none → exec (.reject rest) s = .next (count s .framesStale)) ∧
    (∀ r, found = some r → r.record.region = none → exec (.reject rest) s = .next (count s .framesStale)) ∧
    (∀ r e, found = some r → r.record.region = some e →
      ((s.entry e).state ≠ .mirrored → (s.entry e).state ≠ .lagging →
        exec (.reject rest) s = .next (emit s (event r e))) ∧
      ((s.entry e).state = .mirrored ∨ (s.entry e).state = .lagging →
        ∃ t, exec (.reject rest) s = .next t ∧
          t.entry e =
            { s.entry e with state := .refused, dirty := List.range (segCount (s.entry e).sizeExp) } ∧
          (∀ e', e' ≠ e → t.entry e' = s.entry e') ∧
          t.capture = { s.capture with
            sync := s.capture.sync.filter fun x => x.region != some e
            async := s.capture.async.filter fun x => x.region != some e } ∧
          BuffersFreed s t ((s.capture.sync ++ s.capture.async).filter fun x => x.region == some e) (SegmentOf s e) ∧
          t.resync.turn = s.resync.turn ∧
          HoldEnds s.mem t.mem (HeldOn s e ∨ (s.mem.hold = .syncFull ∧ ∃ x ∈ s.capture.sync, x.region = some e) ∨
            (SegmentOf s e ∧ ReleaseEndsHold s)) ∧
          MarksCounted s t (segCount (s.entry e).sizeExp - (s.entry e).dirty.length) ∧
          (∀ kept : Fence → Bool, (∀ f, kept f = true ↔ s.session.state ≠ .up ∨ FenceWaits (heldRecords t) f) →
            let left := s.fences.filter fun f => !f.covers e
            t.fences = left.filter kept ∧
            (ringRoom s (2 + s.fences.length) → eventsOf t =
              eventsOf s ++ event r e :: .regionState .rejected e .source (s.entry e).state .refused ::
                ((s.fences.filter fun f => f.covers e).map fun f =>
                  .fenceDone .notDurable .regionRefused f.tag (some e) f.boundary) ++
                (left.filter fun f => !kept f).map fun f => .fenceDone .durable .none f.tag none f.boundary)) ∧
          SameBut [.regions, .capture, .resync, .fences, .mem, .ev, .stats] s t))

/-- O21. The transmit arbiter sends the control list's head first, then the record that the cursor names; suspended,
or with nothing to send, or without a carrier, it sends nothing (R40, R60, R64). A new record is taken from the ASYNC
queue when the SYNC queue is empty, or when eight SYNC records have gone since the last ASYNC one and the ASYNC queue
holds one, and else from the SYNC queue; it moves to the replay list under the next sequence number, and its frame
leaves (R61, R62). That a block which waits for the freed slot starts in a step of its own is the model's reading
(notes/assumptions/11.md). -/
def Obligations.TransmitArbiter : Prop :=
  (∀ s : State,
    (s.session.carrier = false → exec .transmitArbiterChoice s = .next s) ∧
    (∀ f rest, s.session.carrier = true → s.tx.control = f :: rest →
      exec .transmitArbiterChoice s = .next { s with
        tx := { s.tx with control := rest }
        out := { s.out with toLink := s.out.toLink ++ [controlBytes s.loader.prom.unitId f] } }) ∧
    (s.session.carrier = true → s.tx.control = [] → s.tx.suspended = true →
      exec .transmitArbiterChoice s = .next s) ∧
    (∀ before r after, s.session.carrier = true → s.tx.control = [] → s.tx.suspended = false →
      s.tx.cursor = some r.seq → s.tx.replay = before ++ r :: after → (∀ x ∈ before, x.seq ≠ r.seq) →
      exec .transmitArbiterChoice s = .next { count s .recordsResent with
        tx := { s.tx with cursor := after.head?.map Replayed.seq }
        out := { s.out with
          toLink := s.out.toLink ++ [recordBytes s.loader.prom.unitId s.session.epoch s.resync.buffers r] } }) ∧
    (s.session.carrier = true → s.tx.control = [] → s.tx.cursor = none →
      (inSession s = false ∨ Config.replaySlots ≤ s.tx.replay.length ∨
        (s.capture.sync = [] ∧ s.capture.async = [])) →
      exec .transmitArbiterChoice s = .next s)) ∧
  (∀ (q : QueueClass) (r : Record) (rest : List Record) (s : State),
    s.session.carrier = true → s.tx.control = [] → s.tx.suspended = false → s.tx.cursor = none → inSession s = true →
    s.tx.replay.length < Config.replaySlots →
    (q = .async ↔ s.capture.sync = [] ∨ (s.tx.syncRun = 8 ∧ s.capture.async ≠ [])) →
    s.capture.queueOf q = r :: rest →
    ∃ t, exec .transmitArbiterChoice s = .next t ∧
      t.capture = s.capture.setQueue q rest ∧
      t.tx = { s.tx with
        next := seqSucc s.tx.next
        highest := s.tx.next
        replay := s.tx.replay ++ [⟨s.tx.next, r⟩]
        timer := if s.tx.replay = [] then some (s.ev.timeBase + s.params.replayTimeout) else s.tx.timer
        syncRun := if q = .async then 0 else min 8 (s.tx.syncRun + 1) } ∧
      t.out = { s.out with
        toLink := s.out.toLink ++
          [recordBytes s.loader.prom.unitId s.session.epoch s.resync.buffers ⟨s.tx.next, r⟩] } ∧
      t.mem = (if q = .sync ∧ s.mem.hold = .syncFull then { s.mem with hold := .none, holdTimer := none } else s.mem) ∧
      t.stats = (if r.kind = .block then count (count s .recordsSent) .blocksSent else count s .recordsSent).stats ∧
      SameBut [.capture, .tx, .out, .mem, .stats] s t)

/-! ## Timers -/

/-- O22. The expiries of the link's timers: a JOIN goes out again; the timeout count rises, and past RETRY_LIMIT a loss
claim is made, else retransmission starts at the oldest record; an ACK of the ack point goes out (R46, R69, R78). The
expiries of the ports' timers: the SYNC_FULL hold ends with limit expired set; a quiet timer stops; ATTN asserts while
entries are unreleased (R123, R133, R163). That an expiry is taken whatever the time base shows, and moves it up, is the
model's choice (notes/assumptions/2.md), and that the expiry of a stopped timer leaves the state as it is another
(notes/assumptions/3.md); that the JOIN timer stops where it expires with the carrier absent is its reading
(notes/assumptions/36.md). -/
def Obligations.TimerExpiries : Prop :=
  (∀ s : State,
    (∀ x, s.session.joinTimer = some x → s.session.state = .calling → s.session.carrier = true →
      let u := reach s x
      exec .joinTimerExpiry s = .next { u with
        session := { s.session with joinTimer := some (u.ev.timeBase + s.params.joinInterval) }
        tx := { s.tx with control := s.tx.control ++ [⟨0, .join s.session.call s.session.lastEpoch⟩] } }) ∧
    (∀ x, s.session.joinTimer = some x → s.session.state = .calling → s.session.carrier = false →
      exec .joinTimerExpiry s = .next { reach s x with session := { s.session with joinTimer := none } }) ∧
    (∀ x, s.tx.timer = some x → s.params.retryLimit.toNat < s.tx.timeouts + 1 →
      exec .replayTimerExpiry s = .next { reach s x with
        tx := { s.tx with
          timeouts := s.tx.timeouts + 1, timer := none, suspended := true, lossClaim := some .retryLimit } }) ∧
    (∀ x, s.tx.timer = some x → s.tx.timeouts + 1 ≤ s.params.retryLimit.toNat →
      let u := reach s x
      exec .replayTimerExpiry s = .next { u with
        tx := { s.tx with
          timeouts := s.tx.timeouts + 1, cursor := s.tx.replay.head?.map Replayed.seq,
          timer := some (u.ev.timeBase + s.params.replayTimeout) } }) ∧
    (∀ x, s.rx.ackTimer = some x → inSession s = true →
      exec .ackDelayTimerExpiry s = .next { reach s x with
        rx := { s.rx with unacked := 0, ackTimer := none }
        tx := { s.tx with control := s.tx.control ++ [⟨s.session.epoch, .ack s.rx.ackPoint⟩] } }) ∧
    (s.session.joinTimer = none → exec .joinTimerExpiry s = .next s) ∧
    (s.tx.timer = none → exec .replayTimerExpiry s = .next s) ∧
    (s.rx.ackTimer = none → exec .ackDelayTimerExpiry s = .next s)) ∧
  (∀ (e : RegionIx) (s : State),
    (∀ x, s.mem.holdTimer = some x → s.mem.hold = .syncFull →
      exec .holdLimitExpiry s = .next { count (reach s x) .holdExpiries with
        mem := { s.mem with hold := .none, holdTimer := none, limitExpired := true } }) ∧
    (∀ x n, (s.apply.reports)[e] = ⟨some x, n⟩ →
      exec (.quietTimerExpiry e) s = .next { reach s x with
        apply := { s.apply with reports := setAt s.apply.reports e ⟨none, n⟩ } }) ∧
    (∀ x, s.ev.attnTimer = some x → ∃ t, exec .attnDelayExpiry s = .next t ∧
      t.ev = { (reach s x).ev with attnTimer := none, attn := s.ev.attn || decide (0 < unreleased s.ev) } ∧
      SameBut [.ev] s t) ∧
    (s.mem.holdTimer = none → exec .holdLimitExpiry s = .next s) ∧
    (((s.apply.reports)[e]).timer = none → exec (.quietTimerExpiry e) s = .next s) ∧
    (s.ev.attnTimer = none → exec .attnDelayExpiry s = .next s))

/-! ## The ports -/

/-- O23. A presented request becomes the head when the head is absent, with presented set to no (R130); while there is
a head it waits behind the requests presented before it, in a list that is the model's own (notes/assumptions/8.md).
With RESET_N asserted the port is stopped (R174): that the request then leaves no trace is the model's choice
(notes/assumptions/3.md). -/
def Obligations.SystemPortTakesAHead : Prop :=
  ∀ (req : SysRequest) (s : State),
    (s.resetN = true → s.mem.head = none →
      exec (.systemPortRequest req) s = .next { s with mem := { s.mem with head := some req, presented := false } }) ∧
    (s.resetN = true → s.mem.head ≠ none →
      exec (.systemPortRequest req) s = .next { s with mem := { s.mem with behind := s.mem.behind ++ [req] } }) ∧
    (s.resetN = false → exec (.systemPortRequest req) s = .next s)

/-- O24. The class of a line: CONTROL, else RING, else the non-FREE entry whose range holds it, else UNWATCHED (R16); and
what each command's check of the overlap rule compares (R6). -/
def Obligations.ClassesAndOverlaps : Prop :=
  ∀ s : State,
    let control := s.loader.prom.controlBase.toNat
    let ring := s.ev.ringBase.toNat
    let ringEnd := s.ev.ringBase.toNat + 32 * s.ev.count
    let holds := fun (e : RegionIx) (a : Nat) => (s.entry e).state ≠ .free ∧ (s.entry e).base.toNat ≤ a ∧
      a < (s.entry e).base.toNat + 2 ^ (s.entry e).sizeExp
    let inControl := fun a => control ≤ a ∧ a < control + 4096
    let inRing := fun a => ring ≤ a ∧ a < ringEnd
    let meets := fun (lo hi b bEnd : Nat) => lo < bEnd ∧ b < hi
    let meetsEntry := fun (lo hi : Nat) => ∃ e, (s.entry e).state ≠ .free ∧
      meets lo hi (s.entry e).base.toNat ((s.entry e).base.toNat + 2 ^ (s.entry e).sizeExp)
    let meetsWriteOut := fun (lo hi : Nat) => ∃ w, s.cmd.writeOut = some w ∧
      meets lo hi w.dest (w.dest + if w.isSnapshot then 1088 else 128)
    let meetsOldSlot := fun (lo hi : Nat) => ∃ it ∈ s.ev.list, it.current = false ∧
      meets lo hi it.slot.toNat (it.slot.toNat + 32)
    (∀ a, (inControl a → classify s a = .control) ∧
      (¬inControl a → inRing a → classify s a = .ring) ∧
      (∀ e, ¬inControl a → ¬inRing a → holds e a → (∀ e', e' < e → ¬holds e' a) → classify s a = .region e) ∧
      (¬inControl a → ¬inRing a → (∀ e, ¬holds e a) → classify s a = .unwatched)) ∧
    (∀ lo hi,
      (openOverlaps s lo hi = true ↔ meetsEntry lo hi ∨ meets lo hi control (control + 4096) ∨
        meets lo hi ring ringEnd ∨ meetsWriteOut lo hi ∨ meetsOldSlot lo hi) ∧
      (ringOverlaps s lo hi = true ↔
        meetsEntry lo hi ∨ meets lo hi control (control + 4096) ∨ meetsWriteOut lo hi) ∧
      (writeOutOverlaps s lo hi = true ↔
        meetsEntry lo hi ∨ meets lo hi control (control + 4096) ∨ meets lo hi ring ringEnd))

/-- O25. Requests that are only passed on: every request in BYPASS; reads that no apply keeps, or presented before; and
writes of class RING, UNWATCHED, or SOURCE in DRAINING. They are issued unchanged, and nothing else happens. A
malformed READ is answered by the part instead, and the arbiter chooses again at once (R128, R131 test 8, R138, R140).
That the entry and the tag take the lowest free place of the response list is the model's reading of R136
(notes/assumptions/4.md). -/
def Obligations.OtherRequestsAreIssued : Prop :=
  ∀ (req : SysRequest) (s : State), Granted s req →
    (malformed req = true ↔ ∃ tag addr len, req = .read tag addr len ∧
      (len = 0 ∨ 64 < len ∨ 64 < addr.toNat % 64 + len)) ∧
    (malformed req = false →
      (s.loader.loadState = .bypass ∨
        (∃ tag addr len, req = .read tag addr len ∧
          ((∀ e, classify s (lineOf addr) = .region e → roleOf (s.entry e).state ≠ .target) ∨ s.mem.presented = true ∨
            (∀ en ∈ s.apply.queue, ∀ a m d k, en.kind = .line a m d k → a.toNat ≠ lineOf addr))) ∨
        (∃ tag addr mask data, req = .write tag addr mask data ∧
          (classify s (lineOf addr) = .ring ∨ classify s (lineOf addr) = .unwatched ∨
            ∃ e, classify s (lineOf addr) = .region e ∧ (s.entry e).state = .draining))) →
      ∃ t, exec .memoryPortArbiter s = .next t ∧ Issued s t req none ∧ SameBut [.mem] s t) ∧
    (malformed req = true →
      ∃ u, exec .memoryPortArbiter s = exec .memoryPortArbiter u ∧ Answered s u req ∧ SameBut [.mem, .out] s u ∧
        (s.mem.behind = [] → grantedSource s = none → exec .memoryPortArbiter s = .next u))

/-- O26. A write into a MIRRORED region that is not being read and whose limit has not expired merges into the tail of
its class queue where it qualifies, and else takes a free slot under the next capture number; it is issued in the
same action (R22, R25, R26, R131 test 3), under the lowest free place of the response list by the model's reading of R136
(notes/assumptions/4.md). -/
def Obligations.MirroredWriteIsCaptured : Prop :=
  ∀ (tag : BitVec 16) (addr : Addr) (mask : ByteMask) (data : Line) (e : RegionIx) (q : QueueClass) (s : State),
    let req := SysRequest.write tag addr mask data
    let line := (lineOf addr - (s.entry e).base.toNat) / 64
    let qualifies := fun (r : Record) (peer : RegionIx) (m : ByteMask) (d : Line) (n : Nat) =>
      r.body = .write e peer line m d n ∧ (s.capture.boundary = 0 ∨ capBelow r.cap s.capture.boundary = false) ∧ n < 255
    Granted s req → s.loader.loadState ≠ .bypass → classify s (lineOf addr) = .region e →
    (s.entry e).state = .mirrored → (s.entry e).queue = q → inBlockRead s e (lineOf addr) = false →
    (s.mem.limitExpired = false ∨ q = .async) →
    (∀ before r peer m d n, s.capture.queueOf q = before ++ [r] → qualifies r peer m d n →
      ∃ t, exec .memoryPortArbiter s = .next t ∧ Issued s t req (some e) ∧
        t.capture = s.capture.setQueue q
          (before ++ [{ r with body := .write e peer line (m ||| mask) (mergeLine d data mask) (n + 1) }]) ∧
        t.stats = (count (count s .capturedWrites) .mergedWrites).stats ∧
        SameBut [.mem, .capture, .stats] s t) ∧
    ((∀ r peer m d n, (s.capture.queueOf q).getLast? = some r → ¬qualifies r peer m d n) → 0 < freeSlots s q →
      ∃ t, exec .memoryPortArbiter s = .next t ∧ Issued s t req (some e) ∧
        t.capture = { s.capture.setQueue q (s.capture.queueOf q ++
          [⟨s.capture.counter, .write e (s.entry e).peer line mask (underMask data mask) 1⟩]) with
            counter := capSucc s.capture.counter } ∧
        t.stats = (count s .capturedWrites).stats ∧
        SameBut [.mem, .capture, .stats] s t)

/-- O27. A write into a LAGGING or REFUSED region is issued and marks its segment; a mark that turns a clean segment
dirty is counted (R17, R80, R131 test 4). It is issued under the lowest free place of the response list by the model's
reading of R136 (notes/assumptions/4.md). -/
def Obligations.LaggingWriteIsMarked : Prop :=
  ∀ (tag : BitVec 16) (addr : Addr) (mask : ByteMask) (data : Line) (e : RegionIx) (s : State),
    let req := SysRequest.write tag addr mask data
    let k := (lineOf addr - (s.entry e).base.toNat) / 64 / (segBytes (s.entry e).sizeExp / 64)
    Granted s req → s.loader.loadState ≠ .bypass → classify s (lineOf addr) = .region e →
    (s.entry e).state = .lagging ∨ (s.entry e).state = .refused →
    ∃ t, exec .memoryPortArbiter s = .next t ∧ Issued s t req (some e) ∧
      (∀ j, j ∈ (t.entry e).dirty ↔ j = k ∨ j ∈ (s.entry e).dirty) ∧
      t.entry e = { s.entry e with dirty := (t.entry e).dirty } ∧ (∀ e', e' ≠ e → t.entry e' = s.entry e') ∧
      t.stats = (if k ∈ (s.entry e).dirty then s.stats else (count s .dirtyMarks).stats) ∧
      SameBut [.mem, .regions, .stats] s t

/-- O28. A write into a MIRRORED region that neither merges nor finds a slot, with HOLD_LIMIT 0 in a SYNC region or in
an ASYNC region, is issued uncaptured: its segment is marked and the region lags, with its fences completed (R8, R30, R31,
R80, R104). By the model's readings it takes the lowest free place of the response list (R136; notes/assumptions/4.md),
and the turn that R83 allows for the region is a step of its own (notes/assumptions/11.md). -/
def Obligations.UncapturedWriteLags : Prop :=
  ∀ (tag : BitVec 16) (addr : Addr) (mask : ByteMask) (data : Line) (e : RegionIx) (s : State),
    let req := SysRequest.write tag addr mask data
    let k := (lineOf addr - (s.entry e).base.toNat) / 64 / (segBytes (s.entry e).sizeExp / 64)
    let q := (s.entry e).queue
    let cause : RegionCause := if q = .sync then .holdExpired else .queueFull
    Granted s req → s.loader.loadState ≠ .bypass → classify s (lineOf addr) = .region e →
    (s.entry e).state = .mirrored → inBlockRead s e (lineOf addr) = false → captureWrite s e (lineOf addr) mask data = none →
    (q = .sync → s.params.holdLimit = 0 ∧ s.mem.limitExpired = false) →
    ∃ t, exec .memoryPortArbiter s = .next t ∧ Issued s t req (some e) ∧ Lagged s t e k cause ∧
      (t.stats)[statIx .holdExpiries] = (s.stats)[statIx .holdExpiries] + (if q = .sync then 1 else 0) ∧
      (t.stats)[statIx .holds] = (s.stats)[statIx .holds] ∧
      SameBut [.mem, .regions, .stats, .ev, .fences] s t

/-- O29. A write into a MIRRORED SYNC region that neither merges nor finds a slot is held with SYNC_FULL while
HOLD_LIMIT is above 0, its time counted from this moment; a write into the block being read is held with BLOCK_READ;
after a hold the arbiter chooses again at once. A write whose limit has expired is issued uncaptured: its segment is
marked and its region lags with cause HOLD_EXPIRED, which no counter but DIRTY_MARKS counts again (R28, R89, R130,
R133, R138). By the model's readings it takes the lowest free place of the response list (R136; notes/assumptions/4.md),
and the turn that R83 allows for the region is a step of its own (notes/assumptions/11.md). -/
def Obligations.MirroredWriteIsHeld : Prop :=
  ∀ (tag : BitVec 16) (addr : Addr) (mask : ByteMask) (data : Line) (e : RegionIx) (s : State),
    let req := SysRequest.write tag addr mask data
    let k := (lineOf addr - (s.entry e).base.toNat) / 64 / (segBytes (s.entry e).sizeExp / 64)
    let heldAs := fun (u : State) => exec .memoryPortArbiter s = exec .memoryPortArbiter u ∧
      (grantedSource s = none → exec .memoryPortArbiter s = .next u)
    Granted s req → s.loader.loadState ≠ .bypass → classify s (lineOf addr) = .region e →
    (s.entry e).state = .mirrored →
    (inBlockRead s e (lineOf addr) = true ↔ ∃ sg, s.resync.segment = some sg ∧ s.resync.block = .reading ∧
      sg.region = e ∧ (lineOf addr - (s.entry e).base.toNat) / 64 / 64 = sg.nextBlock) ∧
    (inBlockRead s e (lineOf addr) = true →
      heldAs { s with mem := { s.mem with hold := .blockRead, presented := true } }) ∧
    (inBlockRead s e (lineOf addr) = false → (s.entry e).queue = .sync → s.mem.limitExpired = false →
      captureWrite s e (lineOf addr) mask data = none → s.params.holdLimit ≠ 0 →
      heldAs { count s .holds with
        mem := { s.mem with
          hold := .syncFull, presented := true, holdTimer := some (s.ev.timeBase + s.params.holdLimit) } }) ∧
    (inBlockRead s e (lineOf addr) = false → (s.entry e).queue = .sync → s.mem.limitExpired = true →
      ∃ t, exec .memoryPortArbiter s = .next t ∧ Issued s t req (some e) ∧ t.capture = s.capture ∧
        Lagged s t e k .holdExpired ∧
        (t.stats)[statIx .holdExpiries] = (s.stats)[statIx .holdExpiries] ∧
        (t.stats)[statIx .holds] = (s.stats)[statIx .holds] ∧
        SameBut [.mem, .regions, .stats, .ev, .fences] s t)

/-- O30. A write into a target range never reaches memory: it is answered with an error in response order and counted,
and reported at most once while the entry's quiet time runs. A read of a target with applies pending for its line is
held at its first presentation. After either the arbiter chooses again at once (R122, R123, R124, R130, R131 tests 1 and
7, R138). That the answer takes the lowest free place of the response list is the model's reading of R136
(notes/assumptions/4.md). -/
def Obligations.TargetsAreProtected : Prop :=
  ∀ (e : RegionIx) (s : State), s.loader.loadState ≠ .bypass → roleOf (s.entry e).state = .target →
    (∀ tag addr mask data, Granted s (.write tag addr mask data) → classify s (lineOf addr) = .region e →
      ∃ u, exec .memoryPortArbiter s = exec .memoryPortArbiter u ∧ Answered s u (.write tag addr mask data) ∧
        (s.mem.behind = [] → grantedSource u = none → exec .memoryPortArbiter s = .next u) ∧
        (u.stats)[statIx .targetWritesRefused] = (s.stats)[statIx .targetWritesRefused] + 1 ∧
        (((s.apply.reports)[e]).timer = none → ringRoom s 1 →
          eventsOf u = eventsOf s ++
            [.targetWriteRefused e (BitVec.ofNat 40 (lineOf addr)) ((s.apply.reports)[e]).unreported] ∧
          (u.apply.reports)[e] = ⟨some (s.ev.timeBase + 1000), 0⟩) ∧
        (((s.apply.reports)[e]).timer ≠ none → u.ev = s.ev ∧
          (u.apply.reports)[e] =
            ⟨((s.apply.reports)[e]).timer, min 65535 (((s.apply.reports)[e]).unreported + 1)⟩) ∧
        u.apply = { s.apply with reports := u.apply.reports } ∧
        (∀ e', e' ≠ e → (u.apply.reports)[e'] = (s.apply.reports)[e']) ∧
        (∀ c, c ≠ .targetWritesRefused → c ≠ .eventsLost → (u.stats)[statIx c] = (s.stats)[statIx c]) ∧
        SameBut [.mem, .out, .stats, .apply, .ev] s u) ∧
    (∀ tag addr len before en after, Granted s (.read tag addr len) → malformed (.read tag addr len) = false →
      classify s (lineOf addr) = .region e → s.mem.presented = false →
      s.apply.queue = before ++ en :: after → (∃ a m d k, en.kind = .line a m d k ∧ a.toNat = lineOf addr) →
      (∀ x ∈ after, ∀ a m d k, x.kind = .line a m d k → a.toNat ≠ lineOf addr) →
      let u := { s with
        mem := { s.mem with hold := .applyPending, presented := true, applyWait := before.length + 1 } }
      exec .memoryPortArbiter s = exec .memoryPortArbiter u ∧
        (grantedSource s = none → exec .memoryPortArbiter s = .next u))

/-- O31. A write to the control page is a command line when its mask is full: it is issued and appended to the command
queue in one action, or held while the queue holds eight lines, after which the arbiter chooses again at once. A partial
one is issued and counted (R131 tests 5, 6 and 8, R138, R142). That an issued write takes the lowest free place of the
response list is the model's reading of R136 (notes/assumptions/4.md). -/
def Obligations.ControlWrites : Prop :=
  ∀ (tag : BitVec 16) (addr : Addr) (mask : ByteMask) (data : Line) (s : State),
    let req := SysRequest.write tag addr mask data
    Granted s req → s.loader.loadState ≠ .bypass → classify s (lineOf addr) = .control →
    (mask = BitVec.allOnes 64 → s.cmd.queue.length < 8 → ∃ t, exec .memoryPortArbiter s = .next t ∧ Issued s t req none ∧
      t.cmd = { s.cmd with queue := s.cmd.queue ++ [data] } ∧ SameBut [.mem, .cmd] s t) ∧
    (mask = BitVec.allOnes 64 → 8 ≤ s.cmd.queue.length →
      let u := { s with mem := { s.mem with hold := .commandFull, presented := true } }
      exec .memoryPortArbiter s = exec .memoryPortArbiter u ∧
        (grantedSource s = none → exec .memoryPortArbiter s = .next u)) ∧
    (mask ≠ BitVec.allOnes 64 → ∃ t, exec .memoryPortArbiter s = .next t ∧ Issued s t req none ∧
      t.stats = (count s .controlErrors).stats ∧ SameBut [.mem, .stats] s t)

/-- O32. Who waits for the memory port, within the limits of 16 and 8, and whom the arbiter grants: pass-through, but for
a run of 3, and of the injected sources the first that waits in the cycle from the pointer. A grant to an injected
source issues one request of it under its own tag: the run becomes 0 and the pointer moves past the source. The Apply
Engine's is the oldest unissued line with a mask, the Resync Engine's the next line of its block, the Event Writer's an
entry or a write-out line, alternately while it has both; with no requester waiting nothing is granted (R86, R115, R136,
R137, R138, R139, R160, R166). With 16 injected requests outstanding no injected request is issued. Whether a source with
a request ready then counts as waiting, as R137 has it, or does not, as R138 has it, the model leaves free; where it does,
at a run of 3 nothing is issued until an answer comes, by the model's reading (notes/assumptions/33.md). -/
def Obligations.ArbiterGrants : Prop :=
  ∀ s : State,
    let injected := (s.mem.outstanding.filter fun r => r.source != .passThrough).length
    let ready : Injected → Prop := fun
      | .apply => ∃ en ∈ s.apply.queue, en.issued = false ∧ en.passive = false
      | .resync => s.resync.block = .reading ∧ s.resync.issued < 64
      | .writer => (s.ev.list ≠ [] ∨ s.ev.writeOutLines ≠ []) ∧
        (s.mem.outstanding.filter fun r => r.source != .passThrough && r.source != .apply && r.source != .resync).length < 8
    let waits := fun i => ready i ∧ (injected < 16 ∨ Config.freeWaitsAtLimit = true)
    let after : Injected → Injected := fun
      | .apply => .resync
      | .resync => .writer
      | .writer => .apply
    let cycle := [s.mem.pointer, after s.mem.pointer, after (after s.mem.pointer)]
    let issued := fun (t : State) (i : Injected) (source : MemSource) (form : MemForm) =>
      exec .memoryPortArbiter s = .next t ∧
      t.mem = { s.mem with
        run := 0, pointer := after i, outstanding := s.mem.outstanding ++ [⟨source, sourceTag i, form⟩] }
    (∀ req, waitingHead s = some req ↔
      s.mem.head = some req ∧ s.mem.hold = .none ∧ s.mem.responses.length < 16) ∧
    (∀ i, grantedSource s = some i ↔
      ∃ before rest, cycle = before ++ i :: rest ∧ waits i ∧ ∀ j ∈ before, ¬waits j) ∧
    (∀ i, GrantedInjected s i ↔
      grantedSource s = some i ∧ injected < 16 ∧ (s.mem.run = 3 ∨ waitingHead s = none)) ∧
    (16 ≤ injected → waitingHead s = none → exec .memoryPortArbiter s = .next s) ∧
    (∀ i req, 16 ≤ injected → ready i → waitingHead s = some req → s.mem.run = 3 →
      if Config.freeWaitsAtLimit = true then exec .memoryPortArbiter s = .next s else Granted s req) ∧
    (∀ req, Granted s req ↔ waitingHead s = some req ∧ (s.mem.run ≠ 3 ∨ ∀ i, ¬waits i)) ∧
    (∀ i j, (16 ≤ (sourceTag i).toNat) ∧ (sourceTag i = sourceTag j → i = j)) ∧
    (∀ before en rest addr mask data kind, GrantedInjected s .apply → s.apply.queue = before ++ en :: rest →
      (∀ x ∈ before, x.issued = true ∨ x.passive = true) → en.kind = .line addr mask data kind → mask ≠ 0 →
      en.issued = false → ∃ t, issued t .apply .apply (.write addr mask data) ∧
        t.apply = { s.apply with queue := before ++ { en with issued := true } :: rest } ∧
        SameBut [.mem, .apply] s t) ∧
    (∀ sg, GrantedInjected s .resync → s.resync.segment = some sg →
      ∃ t, issued t .resync .resync (.read
          (BitVec.ofNat 40 ((s.entry sg.region).base.toNat + 4096 * sg.nextBlock + 64 * s.resync.issued)) 64) ∧
        t.resync = { s.resync with issued := s.resync.issued + 1 } ∧ SameBut [.mem, .resync] s t) ∧
    (∀ it rest, GrantedInjected s .writer → s.ev.list = it :: rest →
      (s.ev.writeOutLines = [] ∨ s.ev.entriesNext = true) →
      ∃ t, issued t .writer (.writer (.entry it.current)) (entryWrite it) ∧
        t.ev = { s.ev with list := rest, entriesNext := false } ∧ SameBut [.mem, .ev] s t) ∧
    (∀ a l rest, GrantedInjected s .writer → s.ev.writeOutLines = (a, l) :: rest →
      (s.ev.list = [] ∨ s.ev.entriesNext = false) →
      ∃ t, issued t .writer (.writer .writeOut) (.write a (BitVec.allOnes 64) l) ∧
        t.ev = { s.ev with writeOutLines := rest, entriesNext := true } ∧ SameBut [.mem, .ev] s t) ∧
    (grantedSource s = none → waitingHead s = none → exec .memoryPortArbiter s = .next s)

/-- O33. Memory's answer to a pass-through request readies the oldest awaiting entry, and ready entries return to
their masters in order. An error answer to a write kept with a region marks its segment and makes a MIRRORED region
lag, which ends a hold on that region (R19, R33, R135, R136). That the turn which R83 allows for the region is a step
of its own is the model's reading (notes/assumptions/11.md). The answer to a READ brings as many bytes as its length,
and the answer to a WRITE none (R128); that one which brings others leaves the state as it is is the model's choice
(notes/assumptions/3.md). An answer to a request issued before the last reset is discarded and changes nothing (R174);
that one with nothing outstanding, or where the oldest request is another source's, leaves the state as it is is the
model's choice (notes/assumptions/3.md). -/
def Obligations.PassThroughAnswers : Prop :=
  (∀ (a : MemAnswer) (data : List Byte) (s : State), NoAnswer s a (· = .passThrough) →
    exec (.passThroughResponse a data) s = .next s) ∧
  ∀ (a : MemAnswer) (data : List Byte) (r : MemRequest) (rest : List MemRequest) (before after : List RespEntry)
      (x : RespEntry) (s : State),
    let fits := match r.form with
      | .read _ len => data.length = len
      | .write .. => data = []
    Answers s a r rest → r.source = .passThrough →
    (¬fits → exec (.passThroughResponse a data) s = .next s) ∧
    (fits → s.mem.responses = before ++ x :: after → x.ready = false → (∀ y ∈ before, y.ready = true) →
      ∃ t, exec (.passThroughResponse a data) s = .next t ∧ t.mem.outstanding = rest ∧ t.mem.head = s.mem.head ∧
        t.mem.behind = s.mem.behind ∧
        HoldEnds { s.mem with outstanding := rest, responses := t.mem.responses } t.mem
          (a.status = .error ∧ ∃ e, x.region = some e ∧ (s.entry e).state = .mirrored ∧ HeldOn s e) ∧
        Returned s t (before ++ { x with ready := true, status := a.status, data := data } :: after) ∧
        (a.status = .ok ∨ x.region = none → SameBut [.mem, .out] s t) ∧
        (∀ e, a.status = .error → x.region = some e →
          let k := segOfLine (s.entry e).sizeExp (lineOffset (s.entry e) (formLine r.form))
          ((s.entry e).state = .mirrored → Lagged s t e k .writeError) ∧
          ((s.entry e).state = .lagging ∨ (s.entry e).state = .refused →
            Marked s t e (s.entry e).state (fun j => j = k) ∧ t.ev = s.ev ∧
            (t.stats)[statIx .dirtyMarks] = (s.stats)[statIx .dirtyMarks] + (if k ∈ (s.entry e).dirty then 0 else 1)) ∧
          (markable (s.entry e).state = false → SameBut [.mem, .out] s t) ∧
          (∀ e', e' ≠ e → t.entry e' = s.entry e') ∧
          SameBut [.mem, .out, .regions, .stats, .ev, .fences] s t))

/-- O34. Memory's answer to an apply write completes the oldest entry. A line that is not the last of its record only
leaves the queue. The last line completes the record: RECORDS_APPLIED counts it unless it had an error, the Link
Receiver takes the completion (a record carried over only counts down; else the ack point moves, and in a session the
16th unacknowledged completion draws an ACK and the first starts the ack-delay timer), a deferred RETRY goes out if
there is room now, and a RELEASING target whose last line this was becomes FREE. An error fails an ACCEPTING target
and is reported once per record, with a REJECT in the record's session, in every state of the target. The last line
that a RESTART left of a record completes no record. An APPLY_PENDING hold ends with the entry that it waits for.
Every passive entry that stands next (a NOTE, a rejected record, a line with an empty mask) completes in the same
action, one after another (R13, R14, R74, R76, R77, R78, R115, R116, R117, R118, R119, R121, R124). While the part
waits for RESTARTED, as it does when it answers for the entries that a RESTART left, the answer is then counted, and
the last one brings RESTARTED (R168; notes/assumptions/38.md). That REGION_STATE of a target that becomes FREE shows
the role TARGET is the model's reading (notes/assumptions/14.md). An answer to a request issued before the last reset
is discarded and changes nothing (R174); that one with nothing outstanding, or where the oldest request is another
source's, leaves the state as it is is the model's choice (notes/assumptions/3.md). -/
def Obligations.ApplyAnswers : Prop :=
  (∀ u : State, PassivesComplete u) ∧
  (∀ (a : MemAnswer) (s : State), NoAnswer s a (· = .apply) → exec (.applyWriteResponse a) s = .next s) ∧
  ∀ (a : MemAnswer) (r : MemRequest) (rest : List MemRequest) (en : ApplyEntry) (queue : List ApplyEntry) (e : RegionIx)
      (addr : Addr) (mask : ByteMask) (data : Line) (kind : RecordKind) (s : State),
    Answers s a r rest → r.source = .apply → s.apply.queue = en :: queue → en.target = some e →
    en.kind = .line addr mask data kind →
    let left := applyLeft { s.mem with outstanding := rest } 1
    let taken := completionTaken s en.seq (128 - queue.length)
    let failed := if a.status = .error ∧ (s.entry e).state = .accepting then
        emit { s with regions := setAt s.regions e { s.entry e with state := .failed } }
          (.regionState .applyError e .target .accepting .failed)
      else s
    let told := if a.status = .error ∧ s.apply.headError = false then emit failed (.applyError e en.seq kind addr)
      else failed
    let rejects := if a.status = .error ∧ s.apply.headError = false ∧ en.epoch = s.session.epoch ∧ inSession s = true then
      [(⟨s.session.epoch, .reject en.seq (BitVec.ofNat 8 e.val) .targetFailed⟩ : ControlFrame)] else []
    let inError := s.apply.headError || a.status == .error
    let goesOn := fun (w : State) =>
      ∃ t, exec (.applyWriteResponse a) s = .next (answerCounted (settle t)) ∧ TargetTested w t e
    (en.last = true → goesOn { (if inError then told else count told .recordsApplied) with
      mem := left
      apply := { s.apply with queue := queue, headError := false }
      rx := taken.1
      tx := { s.tx with control := s.tx.control ++ rejects ++ taken.2 } }) ∧
    (en.last = false → en.cutShort = false → exec (.applyWriteResponse a) s = .next (answerCounted (settle { told with
      mem := left
      apply := { s.apply with queue := queue, headError := inError }
      tx := { s.tx with control := s.tx.control ++ rejects } }))) ∧
    (en.last = false → en.cutShort = true → goesOn { told with
      mem := left
      apply := { s.apply with queue := queue, headError := false }
      tx := { s.tx with control := s.tx.control ++ rejects } }) ∧
    (∀ seq epoch tag payload, queue = [⟨seq, epoch, none, .note tag payload, true, false, false⟩] → en.last = true →
      a.status = .ok → s.apply.headError = false → (s.entry e).state ≠ .releasing → inSession s = true →
      s.rx.carried = 0 → s.rx.unacked = 0 → s.rx.deferred = none →
      exec (.applyWriteResponse a) s = .next (answerCounted { count
          (emit (count s .recordsApplied) (.noteReceived tag payload)) .recordsApplied with
        mem := applyLeft { s.mem with outstanding := rest } 2
        apply := { s.apply with queue := [] }
        rx := { s.rx with
          ackPoint := seq, unacked := 2, ackTimer := some (s.ev.timeBase + s.params.ackDelay), compareDue := false } }))

/-- O35. Memory's answer to a resync read: an answer due to an abandoned block is only counted off; a good one fills
its line of the buffer; the last good one makes the BLOCK record, which ends a BLOCK_READ hold, and the next block of
the segment is tried or the segment ends (R35, R85, R86, R87, R89). At its end the error-reported flag is cleared, a
switch segment is reported to the fences with the number of its last BLOCK, and the next turn begins (R87, R90, R101).
An error marks the segment again, abandons the block, whose end and whose slot end the holds that wait for them, and
is reported once, and the next turn begins (R24, R89, R91). A block in DISCARDING discards each response whatever its
status, and releases its buffer and slot with the last, at which the next turn begins (R96). The line offset of
RESYNC_READ_ERROR counts from the start of the region by the model's reading (notes/assumptions/17.md), and that the
fences of these actions complete before the turn is another (notes/assumptions/31.md). That the block state between
two blocks of the segment is WAITING while the next one cannot start is the model's choice (notes/assumptions/37.md).
While the part waits for RESTARTED the answer is counted as well, and the last one brings RESTARTED (R168;
notes/assumptions/38.md). An answer to a request issued before the last reset is discarded and changes nothing (R174);
that one with nothing outstanding, or where the oldest request is another source's, leaves the state as it is is the
model's choice (notes/assumptions/3.md). -/
def Obligations.ResyncAnswers : Prop :=
  (∀ (a : MemAnswer) (data : Line) (s : State), NoAnswer s a (· = .resync) →
    exec (.resyncReadResponse a data) s = .next s) ∧
  ∀ (a : MemAnswer) (data : Line) (r : MemRequest) (rest : List MemRequest) (s : State),
    Answers s a r rest → r.source = .resync →
    let leaves := fun (v : State) => exec (.resyncReadResponse a data) s = .next (answerCounted v)
    (0 < s.resync.toDiscard → leaves { s with
      mem := { s.mem with outstanding := rest }
      resync := { s.resync with toDiscard := s.resync.toDiscard - 1 } }) ∧
    (s.resync.toDiscard = 0 → s.resync.block = .idle ∨ s.resync.block = .waiting →
      leaves { s with mem := { s.mem with outstanding := rest } }) ∧
    (∀ sg b q d, s.resync.toDiscard = 0 → s.resync.block = .reading → s.resync.segment = some sg →
      s.resync.reserved = some (b, q) → (s.resync.buffers)[b] = some d →
      let region := s.entry sg.region
      let turnOf := fun (u : State) => (∃ v, exec .resyncTurn u = .next v ∧ leaves v) ∧
        SameBut [.mem, .capture, .regions, .resync, .fences, .ev, .stats] s u
      (a.status = .ok → s.resync.taken + 1 ≠ 64 → leaves { s with
        mem := { s.mem with outstanding := rest }
        resync := { s.resync with
          taken := s.resync.taken + 1
          buffers := setAt s.resync.buffers b (some (setBlockLine d s.resync.taken data)) } }) ∧
      (a.status = .ok → s.resync.taken + 1 = 64 → ∃ t, leaves t ∧
        HoldEnds { s.mem with outstanding := rest } t.mem (s.mem.hold = .blockRead) ∧
        t.capture = { s.capture.setQueue q (s.capture.queueOf q ++
            [⟨s.capture.counter, .block sg.region region.peer sg.nextBlock b⟩]) with
          counter := capSucc s.capture.counter } ∧
        (t.resync.buffers)[b] = some (setBlockLine d 63 data) ∧
        (sg.nextBlock + 1 < (sg.index + 1) * segBlocks region.sizeExp →
          (∃ u, exec .blockStart u = .next t ∧ u.resync = { s.resync with
              segment := some { sg with nextBlock := sg.nextBlock + 1 }, block := .waiting, issued := 0, taken := 0
              reserved := none, buffers := setAt s.resync.buffers b (some (setBlockLine d 63 data)) } ∧
            SameBut [.mem, .capture, .resync] s u) ∧
          t.resync.segment = some { sg with nextBlock := sg.nextBlock + 1 } ∧
          t.regions = s.regions ∧ t.fences = s.fences ∧ t.ev = s.ev ∧ t.stats = s.stats) ∧
        SameBut [.mem, .capture, .regions, .resync, .fences, .ev, .stats] s t) ∧
      (a.status = .ok → s.resync.taken + 1 = 64 → (sg.index + 1) * segBlocks region.sizeExp ≤ sg.nextBlock + 1 →
        ∃ u, turnOf u ∧ HoldEnds { s.mem with outstanding := rest } u.mem (s.mem.hold = .blockRead) ∧ MarksCounted s u 0 ∧
          u.capture = { s.capture.setQueue q (s.capture.queueOf q ++
              [⟨s.capture.counter, .block sg.region region.peer sg.nextBlock b⟩]) with
            counter := capSucc s.capture.counter } ∧
          u.resync = { s.resync with
            segment := none, block := .idle, issued := 0, taken := 0, reserved := none
            buffers := setAt s.resync.buffers b (some (setBlockLine d 63 data)) } ∧
          u.entry sg.region = { region with errorReported := region.errorReported.filter fun k => k ≠ sg.index } ∧
          (∀ e, e ≠ sg.region → u.entry e = s.entry e) ∧
          (sg.switch = false → u.fences = s.fences ∧ u.ev = s.ev ∧ u.stats = s.stats) ∧
          (sg.switch = true →
            let told := s.fences.map fun f => { f with scope := f.scope.map fun x =>
              if x.entry = sg.region ∧ x.wait = .waiting then { x with wait := .upTo s.capture.counter } else x }
            (s.session.state ≠ .up → u.fences = told ∧ u.ev = s.ev) ∧
            (∀ kept : Fence → Bool, s.session.state = .up → (∀ f, kept f = true ↔ FenceWaits (heldRecords u) f) →
              u.fences = told.filter kept ∧
              (ringRoom s s.fences.length → eventsOf u = eventsOf s ++
                (told.filter fun f => !kept f).map fun f => .fenceDone .durable .none f.tag none f.boundary)))) ∧
      (a.status = .error → markable region.state = true → ∃ u, turnOf u ∧ u.capture = s.capture ∧
        HoldEnds { s.mem with outstanding := rest } u.mem (ReleaseEndsHold s) ∧
        MarksCounted s u (if sg.index ∈ region.dirty then 0 else 1) ∧
        u.resync.toDiscard = s.resync.issued - (s.resync.taken + 1) ∧ u.resync.segment = none ∧
        u.resync.block = .idle ∧ u.resync.reserved = none ∧ (u.resync.buffers)[b] = none ∧
        (∀ k, k ∈ (u.entry sg.region).dirty ↔ k = sg.index ∨ k ∈ region.dirty) ∧
        sg.index ∈ (u.entry sg.region).errorReported ∧ (u.entry sg.region).state = region.state ∧
        (∀ e, e ≠ sg.region → u.entry e = s.entry e) ∧
        (sg.switch = false → u.fences = s.fences) ∧
        (sg.switch = true → u.fences = s.fences.filter fun f => !f.covers sg.region) ∧
        (ringRoom s (1 + s.fences.length) → eventsOf u = eventsOf s ++
          (if sg.index ∈ region.errorReported then []
            else [.resyncReadError sg.region sg.index sg.nextBlock (64 * sg.nextBlock + s.resync.taken)]) ++
          (if sg.switch then (s.fences.filter fun f => f.covers sg.region).map fun f =>
            .fenceDone .notDurable .resyncAbandoned f.tag (some sg.region) f.boundary else [])))) ∧
    (∀ b q, s.resync.toDiscard = 0 → s.resync.block = .discarding → s.resync.reserved = some (b, q) →
      (s.resync.taken + 1 ≠ s.resync.issued → leaves { s with
        mem := { s.mem with outstanding := rest }
        resync := { s.resync with taken := s.resync.taken + 1 } }) ∧
      (s.resync.taken + 1 = s.resync.issued → ∃ u, (∃ v, exec .resyncTurn u = .next v ∧ leaves v) ∧
        u.resync = { s.resync with
          block := .idle, issued := 0, taken := 0, reserved := none, buffers := setAt s.resync.buffers b none } ∧
        HoldEnds { s.mem with outstanding := rest } u.mem (ReleaseEndsHold s) ∧ SameBut [.mem, .resync] s u))

/-- O36. Memory's answer to a writer request: an entry of the current ring moves W by one and tests the ATTN line
(R160, R163), an entry of a replaced ring moves nothing, and a line of a write-out is counted off, with its error; the
last one completes the command (R154). A line of a write-out that a RESTART dropped lowers no count (R156). While the
part waits for RESTARTED the answer is counted as well, and the last one brings RESTARTED (R168;
notes/assumptions/38.md). An answer to a request issued before the last reset is discarded and changes nothing (R174);
that one with nothing outstanding, or where the oldest request is another source's, leaves the state as it is is the
model's choice (notes/assumptions/3.md). -/
def Obligations.WriterAnswers : Prop :=
  (∀ (a : MemAnswer) (s : State), NoAnswer s a (fun x => ∃ item, x = .writer item) →
    exec (.writerResponse a) s = .next s) ∧
  ∀ (a : MemAnswer) (r : MemRequest) (rest : List MemRequest) (s : State), Answers s a r rest →
    let leaves := fun (v : State) => exec (.writerResponse a) s = .next (answerCounted v)
    (r.source = .writer (.entry true) → ∃ t, leaves t ∧
      t.ev.write = (s.ev.write + 1) % (2 * s.ev.count) ∧ t.ev.unwritten = s.ev.unwritten - 1 ∧
      t.ev.produce = s.ev.produce ∧ t.ev.release = s.ev.release ∧
      t.ev.list = s.ev.list ∧ t.mem = { s.mem with outstanding := rest } ∧
      (unreleased s.ev ≠ 0 → s.params.attnThreshold.toNat ≤ visible t.ev → attnPin t = true ∧
        (attnPin s = false → t.ev.attnTimer = none)) ∧
      (unreleased s.ev ≠ 0 → visible t.ev < s.params.attnThreshold.toNat → attnPin t = attnPin s ∧
        (attnPin s = false → visible s.ev = 0 → 0 < visible t.ev → s.params.attnDelay ≠ 0 → s.ev.attnTimer = none →
          t.ev.attnTimer = some (s.ev.timeBase + s.params.attnDelay)) ∧
        (visible s.ev ≠ 0 ∨ s.params.attnDelay = 0 ∨ s.ev.attnTimer ≠ none → t.ev.attnTimer = s.ev.attnTimer)) ∧
      (unreleased s.ev = 0 → attnPin t = false ∧ t.ev.attnTimer = none) ∧
      SameBut [.mem, .ev] s t) ∧
    (r.source = .writer (.entry false) ∨ (r.source = .writer .writeOut ∧ s.cmd.writeOut = none) →
      leaves { s with mem := { s.mem with outstanding := rest } }) ∧
    (∀ w, r.source = .writer .writeOut → s.cmd.writeOut = some w →
      let errors := if a.status = .error then w.errors + 1 else w.errors
      (1 < w.left → leaves { s with
        mem := { s.mem with outstanding := rest }
        cmd := { s.cmd with writeOut := some { w with left := w.left - 1, errors := errors } } }) ∧
      (w.left ≤ 1 → leaves (emit { s with
        mem := { s.mem with outstanding := rest }, cmd := { s.cmd with writeOut := none } }
        (.commandDone .ok w.tag (if w.isSnapshot then 12 else 11) 0 errors))))

/-! ## The part's own steps -/

/-- O37. A turn takes one segment of the first LAGGING region from the turn pointer: the first dirty one from the
cursor, or the one at the cursor where none is dirty; a take that leaves none dirty makes the region MIRRORED, and the
segment's first block is tried in the same action (R7, R83, R84, R85, R88). Outside UP, with a segment or a block
under way, or with no region LAGGING, a turn takes nothing (R7, R83). A block in WAITING starts when a buffer and a
slot are free, and not without either (R85); that a row leaves the state as it is where its step does not come is the
model's choice (notes/assumptions/3.md), and that it takes the lowest free buffer, which starts as zeros, is the
model's choice (notes/assumptions/19.md). -/
def Obligations.ResyncTurnAndBlockStart : Prop :=
  (∀ s : State, (s.session.state ≠ .up ∨ s.resync.segment ≠ none ∨ s.resync.block ≠ .idle ∨
      ∀ e, (s.entry e).state ≠ .lagging) → exec .resyncTurn s = .next s) ∧
  (∀ s : State, (s.resync.block ≠ .waiting ∨ s.resync.segment = none ∨ ∀ b : Fin 4, (s.resync.buffers)[b] ≠ none) →
      exec .blockStart s = .next s) ∧
  (∀ (e : RegionIx) (k : Nat) (s : State), s.session.state = .up → s.resync.segment = none → s.resync.block = .idle →
    (∃ d : Nat, d < 32 ∧ e = s.resync.turn + Fin.ofNat 32 d ∧
      ∀ d', d' < d → (s.entry (s.resync.turn + Fin.ofNat 32 d')).state ≠ .lagging) →
    (s.entry e).state = .lagging →
    let dirty := if (s.entry e).dirty = [] then [(s.entry e).cursor] else (s.entry e).dirty
    let left := dirty.filter fun j => j ≠ k
    k = ((dirty.find? fun j => (s.entry e).cursor ≤ j).getD (dirty.headD 0)) →
    ∃ u t, exec .resyncTurn s = .next t ∧ exec .blockStart u = .next t ∧ SameBut [.resync] u t ∧
      u.resync = { s.resync with
        turn := e + 1, block := .waiting
        segment := some ⟨e, k, k * segBlocks (s.entry e).sizeExp, decide (left = [])⟩ } ∧
      t.entry e = { s.entry e with
        dirty := left, cursor := (k + 1) % segCount (s.entry e).sizeExp,
        state := if left = [] then .mirrored else .lagging } ∧
      (∀ e', e' ≠ e → t.entry e' = s.entry e') ∧
      (left = [] → ringRoom s 1 → eventsOf t = eventsOf s ++ [.regionState .converged e .source .lagging .mirrored]) ∧
      (left ≠ [] → t.ev = s.ev) ∧ MarksCounted s t (if (s.entry e).dirty = [] then 1 else 0) ∧
      SameBut [.regions, .resync, .ev, .stats] s t) ∧
  (∀ (sg : Segment) (b : Fin 4) (s : State), s.resync.block = .waiting → s.resync.segment = some sg →
    (s.resync.buffers)[b] = none → (∀ c : Fin 4, c < b → (s.resync.buffers)[c] ≠ none) →
    let q := (s.entry sg.region).queue
    (0 < freeSlots s q → exec .blockStart s = .next { s with
      resync := { s.resync with
        block := .reading, issued := 0, taken := 0, reserved := some (b, q),
        buffers := setAt s.resync.buffers b (some 0) } }) ∧
    (freeSlots s q = 0 → exec .blockStart s = .next s))

/-- O38. The part's own tests: a deferred RETRY goes out once a record has completed and there is room; a DRAINING
entry with no record and a RELEASING one with no line become FREE, and their CLOSE completes; a DRAINING one leaves
the scope of every fence, and the fences that nothing then keeps waiting complete DURABLE in UP; RESTARTED is produced
once nothing is due, which each injected answer counts down; a write-out whose lines are all answered completes; in
CLOSING with both queues and the replay list empty the part sends an ACK if one is due, then a PART with the highest
number sent, and the session ends in DISABLED with cause DISCONNECTED (R12, R14, R51, R55, R76, R102, R106, R147,
R154, R168). By the model's reading REGION_STATE of an entry that becomes FREE shows the role it had, and COMMAND_DONE
stands directly behind it, before the fences (notes/assumptions/14.md); the rows repeat a test that the actions have
made (notes/assumptions/12.md). Where the test does not pass, nothing changes: an entry with a record or a line in
flight is not freed, no RESTARTED and no completion comes before its last answer, and no session ends before it has
drained; that the row itself then leaves the state as it is is the model's choice (notes/assumptions/3.md). By the
model's reading a loss leaves the unacknowledged completions, the deferred RETRY and RETRY sent as they are
(notes/assumptions/24.md). That RESTARTED stands behind the events of the answer that brings it is the model's choice
(notes/assumptions/38.md). -/
def Obligations.OwnTests : Prop :=
  ∀ (e : RegionIx) (s : State),
    let others := fun (t : State) => t.cmd = { s.cmd with pendingClose := t.cmd.pendingClose } ∧
      ∀ e', e' ≠ e → (t.cmd.pendingClose)[e'] = (s.cmd.pendingClose)[e']
    (∀ need, s.rx.compareDue = true → s.rx.deferred = some need → inSession s = true →
      need ≤ Config.applySlots - s.apply.queue.length →
      exec .deferredRetry s = .next { s with
        tx := { s.tx with control := s.tx.control ++ [⟨s.session.epoch, .retry s.rx.expected⟩] }
        rx := { s.rx with retrySent := true, deferred := none, compareDue := false } }) ∧
    (s.rx.compareDue = true → (s.rx.deferred = none ∨ inSession s = false ∨
        ∃ need, s.rx.deferred = some need ∧ Config.applySlots - s.apply.queue.length < need) →
      exec .deferredRetry s = .next { s with rx := { s.rx with compareDue := false } }) ∧
    (s.rx.compareDue = false → exec .deferredRetry s = .next s) ∧
    ((s.entry e).state = .draining → (∀ r ∈ heldRecords s, r.region ≠ some e) →
      ∃ t, exec (.drained e) s = .next t ∧ t.entry e = Entry.zero ∧ (∀ e', e' ≠ e → t.entry e' = s.entry e') ∧
        (t.cmd.pendingClose)[e] = none ∧ others t ∧
        (∀ kept : Fence → Bool, (∀ f, kept f = true ↔ s.session.state ≠ .up ∨ FenceWaits (heldRecords s) f) →
          let without := s.fences.map fun f => { f with scope := f.scope.filter fun x => x.entry != e }
          t.fences = without.filter kept ∧
          (ringRoom s (2 + s.fences.length) → eventsOf t = eventsOf s ++
            .regionState .drained e .source .draining .free ::
              (((s.cmd.pendingClose)[e]).map fun tag => .commandDone .ok tag 5 (BitVec.ofNat 8 e.val) 0).toList ++
              (without.filter fun f => !kept f).map fun f => .fenceDone .durable .none f.tag none f.boundary)) ∧
        MarksCounted s t 0 ∧ SameBut [.regions, .cmd, .fences, .ev, .stats] s t) ∧
    ((s.entry e).state ≠ .draining ∨ (∃ r ∈ heldRecords s, r.region = some e) → exec (.drained e) s = .next s) ∧
    ((s.entry e).state ≠ .releasing ∨ (∃ en ∈ s.apply.queue, en.isLine = true ∧ en.target = some e) →
      exec (.released e) s = .next s) ∧
    (s.cmd.waiting = none ∨ (∃ w, s.cmd.waiting = some w ∧ 0 < w.due) → exec .restarted s = .next s) ∧
    (s.cmd.writeOut = none ∨ (∃ w, s.cmd.writeOut = some w ∧ 0 < w.left) → exec .writeOutDone s = .next s) ∧
    (s.session.state ≠ .closing ∨ s.capture.sync ≠ [] ∨ s.capture.async ≠ [] ∨ s.tx.replay ≠ [] →
      exec .drainTestPassed s = .next s) ∧
    ((s.entry e).state = .releasing → (∀ en ∈ s.apply.queue, en.isLine = true → en.target ≠ some e) →
      ∃ t, exec (.released e) s = .next t ∧ t.entry e = Entry.zero ∧ (∀ e', e' ≠ e → t.entry e' = s.entry e') ∧
        (t.apply.reports)[e] = ⟨none, 0⟩ ∧ others t ∧ MarksCounted s t 0 ∧
        t.apply = { s.apply with reports := t.apply.reports } ∧
        (∀ e', e' ≠ e → (t.apply.reports)[e'] = (s.apply.reports)[e']) ∧
        ((s.cmd.pendingClose)[e] = none → t.ev = s.ev) ∧
        (∀ tag, (s.cmd.pendingClose)[e] = some tag → (t.cmd.pendingClose)[e] = none ∧
          (ringRoom s 2 → eventsOf t = eventsOf s ++ [.regionState .released e .target .releasing .free,
            .commandDone .ok tag 5 (BitVec.ofNat 8 e.val) 0])) ∧
        SameBut [.regions, .apply, .cmd, .ev, .stats] s t) ∧
    (∀ tag, s.cmd.waiting = some ⟨tag, 0⟩ →
      exec .restarted s = .next (emit { s with cmd := { s.cmd with waiting := none } } (.restarted tag))) ∧
    (∀ (a : MemAnswer) (data : Line) (r : MemRequest) (rest : List MemRequest) (w : RestartWait),
      Answers s a r rest → r.source ≠ .passThrough → s.cmd.waiting = some w →
      let c := match r.source with
        | .apply => Instr.applyWriteResponse a
        | .resync => .resyncReadResponse a data
        | .writer _ | .passThrough => .writerResponse a
      let counted := { s.cmd with waiting := some { w with due := w.due - 1 } }
      (∃ t, exec c s = .next t ∧ (1 < w.due → t.cmd.waiting = some { w with due := w.due - 1 }) ∧
        (w.due ≤ 1 → t.cmd.waiting = none ∧ ∃ u, t = emit u (.restarted w.tag))) ∧
      (r.source = .writer (.entry false) →
        (1 < w.due → exec c s = .next { s with mem := { s.mem with outstanding := rest }, cmd := counted }) ∧
        (w.due ≤ 1 → exec c s = .next (emit { s with
          mem := { s.mem with outstanding := rest }, cmd := { s.cmd with waiting := none } } (.restarted w.tag))))) ∧
    (∀ w, s.cmd.writeOut = some w → w.left = 0 →
      exec .writeOutDone s = .next (emit { s with cmd := { s.cmd with writeOut := none } }
        (.commandDone .ok w.tag (if w.isSnapshot then 12 else 11) 0 w.errors))) ∧
    (s.session.state = .closing → s.capture.sync = [] → s.capture.async = [] → s.tx.replay = [] → s.fences = [] →
      ∃ t, exec .drainTestPassed s = .next t ∧ TornDown s t .disconnected 0 ∧ t.session = lostSession s s.session ∧
        t.rx = { s.rx with unacked := 0, ackTimer := none } ∧ t.tx.lossClaim = s.tx.lossClaim ∧
        t.tx.control = s.tx.control ++
          (if 0 < s.rx.unacked then [⟨s.session.epoch, .ack s.rx.ackPoint⟩] else []) ++
          [⟨s.session.epoch, .part s.tx.highest⟩] ∧
        (∀ tag, s.session.pendingDisconnect = some tag → ringRoom s 2 → eventsOf t = eventsOf s ++
          [.sessionDown .disconnected s.session.epoch s.tx.highest
            (if s.rx.accepted = true then seqPred s.rx.expected else 0) 0,
            .commandDone .ok tag 2 0 0]) ∧
        SameBut [.session, .tx, .rx, .ev, .stats] s t)

/-- O39. While the session is UP, the durability test completes DURABLE, in list order, every pending fence that no
held record and no switch wait keeps waiting, and keeps the others; in any other state it completes nothing (R102,
R103). -/
def Obligations.DurableFencesComplete : Prop :=
  ∀ s : State,
    (s.session.state ≠ .up → exec .fenceDurable s = .next s) ∧
    (∀ kept : Fence → Bool, s.session.state = .up → (∀ f, kept f = true ↔ FenceWaits (heldRecords s) f) →
      ∃ t, exec .fenceDurable s = .next t ∧ t.fences = s.fences.filter kept ∧
        (ringRoom s s.fences.length → eventsOf t = eventsOf s ++
          (s.fences.filter fun f => !kept f).map fun f => .fenceDone .durable .none f.tag none f.boundary) ∧
        MarksCounted s t 0 ∧ SameBut [.fences, .ev, .stats] s t)

/-! ## Commands of the control page -/

/-- O40. A line leaves the command queue when it is taken, which ends a COMMAND_FULL hold. NONE does nothing more; a
code that names no command completes with BAD_COMMAND; while the part waits for RESTARTED no line is taken (R132,
R144, R156). That a row of a command leaves the state as it is where no line is taken is the model's choice
(notes/assumptions/3.md, notes/assumptions/7.md). -/
def Obligations.TakingALine : Prop :=
  (∀ s : State, popLine s = { s with
    cmd := { s.cmd with queue := s.cmd.queue.tail }
    mem := if s.mem.hold = .commandFull then { s.mem with hold := .none, holdTimer := none } else s.mem }) ∧
  (∀ (l : Line) (s : State), Takes s l 0 → exec .noneCommand s = .next (popLine s)) ∧
  (∀ (l : Line) (n : Nat) (s : State), Takes s l n → 13 < n →
    exec .badCommand s = .next (emit (popLine s) (.commandDone .badCommand (lineTag l) (lineCode l) 0 0))) ∧
  (∀ (c : Instr) (s : State), c ∈ [Instr.noneCommand, .badCommand, .connect, .disconnect, .openSource, .openTarget,
      .close, .fence, .sendNote, .setParameter, .setEventRing, .releaseEvents, .dumpStats, .snapshot, .restart] →
    s.cmd.waiting ≠ none ∨ s.cmd.queue = [] → exec c s = .next s)

/-- O41. CONNECT (R45, with the entry into CALLING of R46): in DISABLED the enable flag is set and the part calls; in
every other state it changes nothing; in every state it completes with OK. -/
def Obligations.Connect : Prop :=
  ∀ (l : Line) (s : State), Takes s l 1 →
    let u := popLine s
    let called := { s.session with
      state := SessionState.calling, enable := true, call := wrapSucc s.session.call, epoch := 0, answer := none,
      refusalReported := false }
    let ok := Event.commandDone .ok (lineTag l) 1 0 0
    (s.session.state ≠ .disabled → exec .connect s = .next (emit u ok)) ∧
    (s.session.state = .disabled → s.session.carrier = false →
      exec .connect s = .next (emit { u with session := called } ok)) ∧
    (s.session.state = .disabled → s.session.carrier = true →
      exec .connect s = .next (emit { u with
        session := { called with joinTimer := some (s.ev.timeBase + s.params.joinInterval) }
        tx := { s.tx with
          control := s.tx.control ++ [⟨0, .join (wrapSucc s.session.call) s.session.lastEpoch⟩] } } ok))

/-- O42. DISCONNECT (R50): in DISABLED and CLOSING it completes at once; in CALLING the part goes to DISABLED and
completes; in UP the part enters CLOSING: every MIRRORED region lags, the segment in progress becomes a mark, no fence is
pending, and no block is under way, which ends the holds that wait for these (R10, R19, R92, R105); the command waits as
the pending DISCONNECT until the session has drained. Where nothing is to drain the session ends at once, with the ACK
that is due, the PART, SESSION_DOWN and the command's OK (R51). -/
def Obligations.Disconnect : Prop :=
  ∀ (l : Line) (s : State), Takes s l 2 →
    let u := popLine s
    let ok := Event.commandDone .ok (lineTag l) 2 0 0
    (s.session.state = .disabled ∨ s.session.state = .closing → exec .disconnect s = .next (emit u ok)) ∧
    (s.session.state = .calling → exec .disconnect s = .next (emit { u with
      session := { s.session with state := .disabled, enable := false, epoch := 0, joinTimer := none }
      tx := { s.tx with control := [] } } ok)) ∧
    (s.session.state = .up → ∃ t, exec .disconnect s = .next t ∧
      (∀ e, match (s.entry e).state with
        | .mirrored | .lagging => Marked s t e .lagging (InProgress s e)
        | .refused => Marked s t e .refused (InProgress s e)
        | .free | .draining | .accepting | .failed | .releasing => t.entry e = s.entry e) ∧
      t.fences = [] ∧ BuffersFreed s t [] (UnderWay s) ∧ t.resync.turn = s.resync.turn ∧
      HoldEnds s.mem t.mem (s.mem.hold = .commandFull ∨ SweepEndsHold s) ∧ MarksCounted s t (marksMade s t) ∧
      t.cmd = u.cmd ∧
      (ringRoom s (34 + s.fences.length) → ∃ more, eventsOf t = eventsOf s ++ more ++ (if isDry s then
          [.sessionDown .disconnected s.session.epoch s.tx.highest
            (if s.rx.accepted = true then seqPred s.rx.expected else 0) 0, ok] else []) ∧
        (∀ e, (s.entry e).state = .mirrored → .regionState .sessionDown e .source .mirrored .lagging ∈ more) ∧
        ∀ f ∈ s.fences, ∃ c e, .fenceDone .notDurable c f.tag e f.boundary ∈ more) ∧
      (isDry s = true ↔ s.capture.sync = [] ∧ s.capture.async = [] ∧ s.tx.replay = []) ∧
      (isDry s = false →
        t.session = { s.session with state := .closing, enable := false, pendingDisconnect := some (lineTag l) } ∧
        SameBut [.cmd, .mem, .session, .regions, .fences, .resync, .ev, .stats] s t) ∧
      (isDry s = true →
        t.session = { s.session with
          state := .disabled, enable := false, epoch := 0, joinTimer := none, pendingDisconnect := none } ∧
        t.tx.control = s.tx.control ++
          (if 0 < s.rx.unacked then [⟨s.session.epoch, .ack s.rx.ackPoint⟩] else []) ++
          [⟨s.session.epoch, .part s.tx.highest⟩] ∧
        SameBut [.regions, .session, .tx, .rx, .resync, .fences, .mem, .cmd, .ev, .stats] s t))

/-- O43. OPEN_SOURCE and OPEN_TARGET: the checks in their order, then a LAGGING source with every segment marked and
no error reported, or an ACCEPTING target with its refusal report state reset, with REGION_STATE before COMMAND_DONE
(R4, R5, R6, R79, R80, R123, R146). That the turn which R83 allows after an OPEN_SOURCE is a step of its own is the
model's reading (notes/assumptions/11.md). -/
def Obligations.OpenRegions : Prop :=
  ∀ (l : Line) (source : Bool) (s : State), Takes s l (if source then 3 else 4) →
    let c := if source then Instr.openSource else .openTarget
    let u := popLine s
    let doneWith := fun (r : CmdResult) =>
      Event.commandDone r (lineTag l) (if source then 3 else 4) (lineByte l 4) 0
    let n := (lineByte l 5).toNat
    let base := lineAddress l
    let good := 16 ≤ n ∧ n ≤ 36 ∧ base < 2 ^ 40 ∧ base % 2 ^ n = 0 ∧
      (source = true → (lineByte l 6 = 1 ∨ lineByte l 6 = 2) ∧ (lineByte l 7).toNat < 32)
    (32 ≤ (lineByte l 4).toNat → exec c s = .next (emit u (doneWith .badEntry))) ∧
    (∀ e : RegionIx, e.val = (lineByte l 4).toNat →
      (¬good → exec c s = .next (emit u (doneWith .badArgument))) ∧
      (good → (s.entry e).state ≠ .free → exec c s = .next (emit u (doneWith .entryBusy))) ∧
      (good → (s.entry e).state = .free → openOverlaps u base (base + 2 ^ n) = true →
        exec c s = .next (emit u (doneWith .overlap))) ∧
      (good → (s.entry e).state = .free → openOverlaps u base (base + 2 ^ n) = false →
        ∃ t, exec c s = .next t ∧ (∀ e', e' ≠ e → t.entry e' = s.entry e') ∧
          (source = true →
            t.entry e = ⟨.lagging, BitVec.ofNat 40 base, n, some (if lineByte l 6 = 1 then .sync else .async),
              Fin.ofNat 32 (lineByte l 7).toNat, 0, List.range (min 1024 (2 ^ (n - 12))), []⟩ ∧
            t.apply = s.apply ∧
            (ringRoom s 2 → eventsOf t = eventsOf s ++ [.regionState .opened e .source .free .lagging, doneWith .ok])) ∧
          (source = false →
            t.entry e = ⟨.accepting, BitVec.ofNat 40 base, n, none, 0, 0, [], []⟩ ∧
            t.apply = { s.apply with reports := setAt s.apply.reports e ⟨none, 0⟩ } ∧
            (ringRoom s 2 →
              eventsOf t = eventsOf s ++ [.regionState .opened e .target .free .accepting, doneWith .ok])) ∧
          MarksCounted s t (if source then min 1024 (2 ^ (n - 12)) else 0) ∧
          SameBut [.regions, .apply, .ev, .stats] u t))

/-- O44. CLOSE (R11, R14, R33, R147): an entry index above 31 and an entry that is FREE, DRAINING or RELEASING
complete it at once; a source goes DRAINING with no segment marked, or straight to FREE when nothing of it is in
flight; a target goes RELEASING, or straight to FREE with its refusal report state reset; the forwarded writes of the
region forget it. A segment of the region in progress is abandoned without a mark: a block in READING goes on in
DISCARDING with its buffer and slot while responses are due, and is released at once where none is; a hold on the
region or on the block ends; a switch segment's fences complete NOT_DURABLE (R19, R92, R96, R104). By the model's
readings REGION_STATE of an entry that becomes FREE shows the role it had, and the fences that its departure lets pass
stand before COMMAND_DONE (notes/assumptions/14.md); the fences of a switch segment stand before REGION_STATE (FREE)
(notes/assumptions/35.md); and the next turn is a step of its own, so that no other entry changes
(notes/assumptions/11.md). -/
def Obligations.CloseRegions : Prop :=
  ∀ (l : Line) (s : State), Takes s l 5 →
    let u := popLine s
    let doneWith := fun (r : CmdResult) => Event.commandDone r (lineTag l) 5 (lineByte l 4) 0
    (32 ≤ (lineByte l 4).toNat → exec .close s = .next (emit u (doneWith .badEntry))) ∧
    (∀ e : RegionIx, e.val = (lineByte l 4).toNat →
      let others := fun (t : State) => (∀ e', e' ≠ e → t.entry e' = s.entry e') ∧
        t.cmd = { u.cmd with pendingClose := t.cmd.pendingClose } ∧
        (∀ e', e' ≠ e → (t.cmd.pendingClose)[e'] = (s.cmd.pendingClose)[e']) ∧ MarksCounted s t 0
      ((s.entry e).state = .free ∨ (s.entry e).state = .draining ∨ (s.entry e).state = .releasing →
        exec .close s = .next (emit u (doneWith .entryBusy))) ∧
      (markable (s.entry e).state = true → ∃ t, exec .close s = .next t ∧ others t ∧
        ((∃ r ∈ heldRecords s, r.region = some e) →
          t.entry e = { s.entry e with state := .draining, dirty := [], errorReported := [] } ∧
          (t.cmd.pendingClose)[e] = some (lineTag l)) ∧
        ((∀ r ∈ heldRecords s, r.region ≠ some e) → t.entry e = Entry.zero ∧ (t.cmd.pendingClose)[e] = none) ∧
        (¬SegmentOf s e → t.resync = s.resync) ∧
        (SegmentOf s e → s.resync.block ≠ .reading →
          t.resync = { s.resync with segment := none, block := .idle }) ∧
        (SegmentOf s e → s.resync.block = .reading → s.resync.taken ≠ s.resync.issued →
          t.resync = { s.resync with segment := none, block := .discarding }) ∧
        (∀ b q, SegmentOf s e → s.resync.block = .reading → s.resync.taken = s.resync.issued →
          s.resync.reserved = some (b, q) → t.resync = { s.resync with
            segment := none, block := .idle, issued := 0, taken := 0, reserved := none
            buffers := setAt s.resync.buffers b none }) ∧
        HoldEnds { s.mem with responses := s.mem.responses.map fun x =>
            if x.ready = false ∧ x.region = some e then { x with region := none } else x } t.mem
          (s.mem.hold = .commandFull ∨ HeldOn s e ∨ (SegmentOf s e ∧ (s.mem.hold = .blockRead ∨
            (s.resync.block = .reading ∧ s.resync.taken = s.resync.issued ∧ ReleaseEndsHold s)))) ∧
        (∀ (ends : Bool) (kept : Fence → Bool),
          (ends = true ↔ ∃ sg, s.resync.segment = some sg ∧ sg.region = e ∧ sg.switch = true) →
          (∀ f, kept f = true ↔ s.session.state ≠ .up ∨ FenceWaits (heldRecords s) f) →
          let left := s.fences.filter fun f => !(ends && f.covers e)
          let without := left.map fun f => { f with scope := f.scope.filter fun x => x.entry != e }
          let closed := .regionState .closed e .source (s.entry e).state .draining ::
            (s.fences.filter fun f => ends && f.covers e).map fun f =>
              Event.fenceDone .notDurable .resyncAbandoned f.tag (some e) f.boundary
          ((∃ r ∈ heldRecords s, r.region = some e) → t.fences = left ∧
            (ringRoom s (1 + s.fences.length) → eventsOf t = eventsOf s ++ closed)) ∧
          ((∀ r ∈ heldRecords s, r.region ≠ some e) → t.fences = without.filter kept ∧
            (ringRoom s (3 + s.fences.length) → eventsOf t = eventsOf s ++ closed ++
              .regionState .drained e .source .draining .free ::
                ((without.filter fun f => !kept f).map fun f => .fenceDone .durable .none f.tag none f.boundary) ++
                [doneWith .ok]))) ∧
        SameBut [.cmd, .mem, .regions, .resync, .fences, .ev, .stats] s t) ∧
      ((s.entry e).state = .accepting ∨ (s.entry e).state = .failed → ∃ t, exec .close s = .next t ∧ others t ∧
        ((∃ en ∈ s.apply.queue, en.isLine = true ∧ en.target = some e) →
          t.entry e = { s.entry e with state := .releasing } ∧ (t.cmd.pendingClose)[e] = some (lineTag l) ∧
          t.apply = s.apply ∧
          (ringRoom s 1 →
            eventsOf t = eventsOf s ++ [.regionState .closed e .target (s.entry e).state .releasing])) ∧
        ((∀ en ∈ s.apply.queue, en.isLine = true → en.target ≠ some e) →
          t.entry e = Entry.zero ∧ (t.cmd.pendingClose)[e] = none ∧
          t.apply = { s.apply with reports := setAt s.apply.reports e ⟨none, 0⟩ } ∧
          (ringRoom s 3 → eventsOf t = eventsOf s ++
            [.regionState .closed e .target (s.entry e).state .releasing,
              .regionState .released e .target .releasing .free, doneWith .ok])) ∧
        t.mem = u.mem ∧ SameBut [.cmd, .mem, .regions, .apply, .ev, .stats] s t))

/-- O45. FENCE (R99, R100): the boundary is the capture counter's value, for the Capture Unit too; the first condition
of the table that holds decides; a fence that none decides is appended, unless it is durable at once. -/
def Obligations.FenceIsDecidedInOrder : Prop :=
  ∀ (l : Line) (s : State), Takes s l 6 →
    let u := popLine s
    let scope := (List.finRange 32).filter fun e =>
      (lineU32 l 4).getLsbD e.val && decide (roleOf (s.entry e).state = .source)
    let fixed := { u with capture := { s.capture with boundary := s.capture.counter } }
    let at_ := fun (o : FenceOutcome) (c : FenceCause) (r : Option RegionIx) =>
      exec .fence s = .next (emit fixed (.fenceDone o c (lineTag l) r s.capture.counter))
    let lagging := scope.find? fun e => (s.entry e).state == .lagging
    let refused := scope.find? fun e => (s.entry e).state == .refused
    let unclean := scope.find? fun e => (s.entry e).state == .mirrored && !(s.entry e).dirty.isEmpty
    (16 ≤ s.fences.length → at_ .notTaken .listFull none) ∧
    (s.fences.length < 16 → s.session.state ≠ .up → at_ .notDurable .notUp none) ∧
    (s.fences.length < 16 → s.session.state = .up →
      (∀ e, lagging = some e → at_ .notDurable .regionLagging (some e)) ∧
      (∀ e, lagging = none → refused = some e → at_ .notDurable .regionRefused (some e)) ∧
      (∀ e, lagging = none → refused = none → unclean = some e → at_ .notDurable .resyncError (some e)) ∧
      (lagging = none → refused = none → unclean = none → scope = [] → at_ .durable .none none) ∧
      (lagging = none → refused = none → unclean = none → scope ≠ [] →
        let wait := fun (e : RegionIx) => match s.resync.segment with
          | some sg => if sg.switch = true ∧ sg.region = e then SwitchWait.waiting else .none
          | none => .none
        let f : Fence := ⟨lineTag l, s.capture.counter, scope.map fun e => ⟨e, wait e⟩⟩
        ∃ t, exec .fence s = .next t ∧
          t.capture = { s.capture with boundary := s.capture.counter } ∧
          t.fences = (s.fences ++ [f]).filter (fun x => !fencePasses s x) ∧
          (ringRoom s (s.fences.length + 1) → eventsOf t = eventsOf s ++
            ((s.fences ++ [f]).filter (fencePasses s)).map fun x => .fenceDone .durable .none x.tag none x.boundary) ∧
          MarksCounted s t 0 ∧ SameBut [.capture, .fences, .ev, .stats] u t))

/-- O46. SEND_NOTE appends a NOTE record while the session is UP and the SYNC queue has a free slot, and completes with
NOT_CONNECTED or BUSY otherwise (R34). SET_PARAMETER sets the parameter that the id names to a value in its range
(R150); that its COMMAND_DONE is produced under the new value, so that a lowered threshold may assert ATTN in the
command's own action, is the model's reading (notes/assumptions/25.md). -/
def Obligations.NotesAndParameters : Prop :=
  (∀ (l : Line) (s : State), Takes s l 7 →
    let u := popLine s
    let doneWith := fun (r : CmdResult) => Event.commandDone r (lineTag l) 7 0 0
    (s.session.state ≠ .up → exec .sendNote s = .next (emit u (doneWith .notConnected))) ∧
    (s.session.state = .up → freeSlots s .sync = 0 → exec .sendNote s = .next (emit u (doneWith .busy))) ∧
    (s.session.state = .up → 0 < freeSlots s .sync → exec .sendNote s = .next { u with
      capture := { s.capture with
        sync := s.capture.sync ++ [⟨s.capture.counter, .note (lineTag l) (linePayload l)⟩]
        counter := capSucc s.capture.counter } })) ∧
  (∀ (l : Line) (s : State), Takes s l 8 →
    let u := popLine s
    let id := (lineU16 l 4).toNat
    let v := lineU32 l 8
    let doneWith := fun (r : CmdResult) => Event.commandDone r (lineTag l) 8 0 0
    let set := fun (p : Params) => exec .setParameter s = .next (emit { u with params := p } (doneWith .ok))
    let bad := exec .setParameter s = .next (emit u (doneWith .badArgument))
    (id = 1 → (1 ≤ v.toNat ∧ v.toNat ≤ 255 → set { s.params with ackDelay := v }) ∧
      (¬(1 ≤ v.toNat ∧ v.toNat ≤ 255) → bad)) ∧
    (id = 2 → (10 ≤ v.toNat ∧ v.toNat ≤ 10000 → set { s.params with replayTimeout := v }) ∧
      (¬(10 ≤ v.toNat ∧ v.toNat ≤ 10000) → bad)) ∧
    (id = 3 → (1 ≤ v.toNat ∧ v.toNat ≤ 15 → set { s.params with retryLimit := v }) ∧
      (¬(1 ≤ v.toNat ∧ v.toNat ≤ 15) → bad)) ∧
    (id = 4 → (v.toNat ≤ 1000 → set { s.params with holdLimit := v }) ∧ (1000 < v.toNat → bad)) ∧
    (id = 5 → (10 ≤ v.toNat ∧ v.toNat ≤ 10000 → set { s.params with joinInterval := v }) ∧
      (¬(10 ≤ v.toNat ∧ v.toNat ≤ 10000) → bad)) ∧
    (id = 6 → (1 ≤ v.toNat ∧ v.toNat ≤ 255 → set { s.params with attnThreshold := v }) ∧
      (¬(1 ≤ v.toNat ∧ v.toNat ≤ 255) → bad)) ∧
    (id = 7 → (v.toNat ≤ 10000 → set { s.params with attnDelay := v }) ∧ (10000 < v.toNat → bad)) ∧
    (id = 0 ∨ 7 < id → bad))

/-- O47. SET_EVENT_RING installs a new ring whose first entry is its own COMMAND_DONE, after its checks in order
(R151, R162). RELEASE_EVENTS sets C within the span from C to P, reports lost events where it frees room, and a
release of everything releases its own COMMAND_DONE (R152, R161). Any other release produces its COMMAND_DONE, behind
EVENTS_LOST where one is due, with the lost count 0 again, or counts it lost where EVENTS_LOST took the one slot that
was freed; the ATTN line asserts by count at these changes and deasserts where C reaches P (R163); a release on a full
ring that leaves C where it was changes no index, and so the ATTN line is not tested (R163). -/
def Obligations.EventRingCommands : Prop :=
  (∀ (l : Line) (s : State), Takes s l 9 →
    let u := popLine s
    let base := lineAddress l
    let n := (lineU32 l 4).toNat
    let good := base < 2 ^ 40 ∧ base % 4096 = 0 ∧ n ∈ [64, 128, 256, 512, 1024, 2048, 4096]
    let refusedWith := fun (r : CmdResult) =>
      exec .setEventRing s = .next (emit u (.commandDone r (lineTag l) 9 0 0))
    (¬good → refusedWith .badArgument) ∧
    (good → 0 < unreleased s.ev → refusedWith .busy) ∧
    (good → unreleased s.ev = 0 → ringOverlaps u base (base + 32 * n) = true → refusedWith .overlap) ∧
    (good → unreleased s.ev = 0 → ringOverlaps u base (base + 32 * n) = false →
      ∃ t, exec .setEventRing s = .next t ∧
        t.ev.ringBase.toNat = base ∧ t.ev.count = n ∧ t.ev.produce = 1 ∧ t.ev.release = 0 ∧ t.ev.write = 0 ∧
        t.ev.unwritten = 1 ∧
        t.ev.lost = s.ev.lost ∧ (s.params.attnThreshold ≠ 0 → attnPin t = false) ∧
        t.ev.list = (s.ev.list.map fun it => { it with current := false }) ++
          [⟨.commandDone .ok (lineTag l) 9 0 0, true, s.ev.timeBase, BitVec.ofNat 40 base, true⟩] ∧
        t.mem = { u.mem with outstanding := s.mem.outstanding.map MemRequest.replaced } ∧
        SameBut [.mem, .ev] u t)) ∧
  (∀ (l : Line) (s : State), Takes s l 10 → RingInRange s.ev →
    let u := popLine s
    let new := (lineU32 l 4).toNat
    let inSpan := new < 2 * s.ev.count ∧
      (new + 2 * s.ev.count - s.ev.release) % (2 * s.ev.count) ≤ unreleased s.ev
    let ok := Event.commandDone .ok (lineTag l) 10 0 0
    (¬inSpan → exec .releaseEvents s = .next (emit u (.commandDone .badArgument (lineTag l) 10 0 0))) ∧
    let freed := (new + 2 * s.ev.count - s.ev.release) % (2 * s.ev.count)
    let left := unreleased s.ev - freed
    (inSpan → ∃ t, exec .releaseEvents s = .next t ∧ SameBut [.ev, .stats] u t ∧ MarksCounted s t 0 ∧
      t.ev = { s.ev with
        produce := t.ev.produce, release := t.ev.release, unwritten := t.ev.unwritten, lost := t.ev.lost
        list := t.ev.list, attn := t.ev.attn, attnTimer := t.ev.attnTimer } ∧
      (let made := fun (n : Nat) => t.ev.produce = (s.ev.produce + n) % (2 * s.ev.count) ∧
        t.ev.unwritten = s.ev.unwritten + n
      let line := (attnPin t = true ↔
          (new ≠ s.ev.produce ∧ attnPin s = true) ∨ s.params.attnThreshold.toNat ≤ visible t.ev) ∧
        t.ev.attnTimer =
          if new = s.ev.produce ∨ (attnPin s = false ∧ attnPin t = true) then none else s.ev.attnTimer
      (new ≠ s.ev.release → s.ev.lost ≠ 0 → t.ev.release = new ∧ line ∧
        (left + 2 ≤ s.ev.count → t.ev.lost = 0 ∧ t.stats = s.stats ∧ made 2 ∧
          eventsOf t = eventsOf s ++ [.eventsLost s.ev.lost, ok]) ∧
        (s.ev.count < left + 2 → t.ev.lost = 1 ∧ t.stats = (count s .eventsLost).stats ∧ made 1 ∧
          eventsOf t = eventsOf s ++ [.eventsLost s.ev.lost])) ∧
      (new = s.ev.release ∨ s.ev.lost = 0 → new = s.ev.produce →
        t.ev.release = t.ev.produce ∧ t.ev.lost = s.ev.lost ∧ t.stats = s.stats ∧ made 1 ∧
        attnPin t = false ∧ t.ev.attnTimer = none ∧ eventsOf t = eventsOf s ++ [ok]) ∧
      (new = s.ev.release ∨ s.ev.lost = 0 → new ≠ s.ev.produce → t.ev.release = new ∧
        (left < s.ev.count → t.ev.lost = s.ev.lost ∧ t.stats = s.stats ∧ made 1 ∧ line ∧
          eventsOf t = eventsOf s ++ [ok]))) ∧
      (new = s.ev.release → unreleased s.ev = s.ev.count →
        t.ev = { s.ev with lost := if s.ev.lost = 0xFFFFFFFF#32 then s.ev.lost else s.ev.lost + 1 })))

/-- O48. DUMP_STATS and SNAPSHOT: the checks in their order, then the write-out with its lines, taken at this moment;
the clear flag of DUMP_STATS clears the counters (R153, R154, R167). That a SNAPSHOT shows the state behind the take of
its own line, with a COMMAND_FULL hold ended, is the model's reading (notes/assumptions/27.md). -/
def Obligations.WriteOutCommands : Prop :=
  ∀ (l : Line) (snap : Bool) (s : State), Takes s l (if snap then 12 else 11) →
    let c := if snap then Instr.snapshot else .dumpStats
    let u := popLine s
    let dest := lineAddress l
    let n := if snap then 17 else 2
    let good := dest < 2 ^ 40 ∧ dest % 64 = 0
    let refusedWith := fun (r : CmdResult) =>
      exec c s = .next (emit u (.commandDone r (lineTag l) (if snap then 12 else 11) 0 0))
    (¬good → refusedWith .badArgument) ∧
    (good → s.cmd.writeOut ≠ none → refusedWith .busy) ∧
    (good → s.cmd.writeOut = none → writeOutOverlaps u dest (dest + if snap then 1088 else 128) = true →
      refusedWith .overlap) ∧
    (good → s.cmd.writeOut = none → writeOutOverlaps u dest (dest + if snap then 1088 else 128) = false →
      ∃ t, exec c s = .next t ∧
        t.cmd = { u.cmd with writeOut := some ⟨snap, lineTag l, dest, n, 0⟩ } ∧
        t.ev.writeOutLines.length = n ∧
        (∀ k, k < n → dest + 64 * k < 2 ^ 40 →
          t.ev.writeOutLines[k]? = some (BitVec.ofNat 40 (dest + 64 * k),
            lineAt (if snap then snapshotBytes u else statsBytes s) (64 * k))) ∧
        t.ev = { s.ev with writeOutLines := t.ev.writeOutLines } ∧
        t.stats = (if snap = false ∧ lineByte l 4 ≠ 0 then Vector.replicate 16 0 else s.stats) ∧
        SameBut [.cmd, .ev, .stats, .freeCount] u t)

/-- O49. RESTART (R15, R38, R57, R73, R74, R81, R95, R109, R121, R155, R156): the session is DISABLED, every queue and
list toward the partner is empty, every former MIRRORED region lags, and no command is in progress; what was held of
LAGGING regions and the segment in progress become marks, and every buffer is freed; the ring, the parameters and what
the masters wait for are kept, but for the holds that end (R124, R132, R141); with nothing outstanding, the one event is
RESTARTED. The counters become 0 and then count the marks that it makes (R155, R165). By the model's readings RESTART
keeps a loss claim (notes/assumptions/13.md), and the head record error is no once no entry of the head record is left
(notes/assumptions/32.md). -/
def Obligations.RestartStartsAfresh : Prop :=
  ∀ (l : Line) (s : State), Takes s l 13 → ∃ t, exec .restart s = .next t ∧
    t.session = { s.session with
      state := .disabled, enable := false, epoch := 0, answer := none, joinTimer := none, pendingDisconnect := none } ∧
    t.capture = ⟨1, [], [], 0⟩ ∧
    t.tx = ⟨[], [], 1, 0, none, none, 0, 0, false, s.tx.lossClaim⟩ ∧
    t.rx = ⟨1, false, false, none, 0, 0, none, 0, false⟩ ∧
    t.resync.segment = none ∧ t.resync.turn = 0 ∧ t.resync.block ≠ .discarding ∧
    BuffersFreed s t (heldRecords s) (UnderWay s) ∧
    t.fences = [] ∧
    (t.apply.queue.map fun en => { en with cutShort := false }) =
      ((s.apply.queue.filter fun en => en.issued).map fun en => { en with cutShort := false }) ∧
    (∀ e : RegionIx, (t.apply.reports)[e] = ⟨none, 0⟩) ∧
    t.apply.headError = (s.apply.headError && (s.apply.queue.head?.map ApplyEntry.issued).getD false) ∧
    (∀ e : RegionIx, (t.cmd.pendingClose)[e] = none) ∧ t.cmd.writeOut = none ∧ t.ev.writeOutLines = [] ∧
    t.cmd.queue = s.cmd.queue.tail ∧
    t.cmd.waiting = (if injectedOutstanding s = 0 then none else some ⟨lineTag l, injectedOutstanding s⟩) ∧
    (∀ e, match (s.entry e).state with
      | .lagging => Marked s t e .lagging fun k => HoldsIn s e k ∨ InProgress s e k
      | .mirrored => Marked s t e .lagging fun k => HoldsIn s e k ∨ InProgress s e k
      | .refused => Marked s t e .refused fun k => InProgress s e k
      | .draining => t.entry e = Entry.zero
      | .releasing =>
        t.entry e = if isReleased { s with apply := t.apply } e then Entry.zero else s.entry e
      | .free | .accepting | .failed => t.entry e = s.entry e) ∧
    t.mem = { s.mem with hold := t.mem.hold, holdTimer := t.mem.holdTimer, applyWait := t.mem.applyWait } ∧
    (s.mem.hold = .none ∨ s.mem.hold = .loading → t.mem.hold = s.mem.hold) ∧
    (s.mem.hold = .syncFull ∨ s.mem.hold = .blockRead ∨ s.mem.hold = .commandFull → t.mem.hold = .none) ∧
    (s.mem.hold = .applyPending →
      ((s.apply.queue.take s.mem.applyWait).getLast?.map ApplyEntry.issued = some true → t.mem.hold = .applyPending ∧
        t.mem.applyWait = ((s.apply.queue.take s.mem.applyWait).filter fun en => en.issued).length) ∧
      ((s.apply.queue.take s.mem.applyWait).getLast?.map ApplyEntry.issued ≠ some true → t.mem.hold = .none)) ∧
    (injectedOutstanding s ≠ 0 → t.ev = { s.ev with writeOutLines := [] }) ∧
    (injectedOutstanding s = 0 →
      t.ev = (emit { s with ev := { s.ev with writeOutLines := [] } } (.restarted (lineTag l))).ev) ∧
    (injectedOutstanding s ≠ 0 → eventsOf t = eventsOf s) ∧
    (injectedOutstanding s = 0 → ringRoom s 1 → eventsOf t = eventsOf s ++ [.restarted (lineTag l)]) ∧
    (t.stats)[statIx .dirtyMarks] = BitVec.ofNat 64 (marksMade s t) ∧
    (∀ c, c ≠ .dirtyMarks → c ≠ .eventsLost → (t.stats)[statIx c] = 0) ∧
    (injectedOutstanding s ≠ 0 ∨ ringRoom s 1 → (t.stats)[statIx .eventsLost] = 0) ∧
    SameBut [.session, .capture, .tx, .rx, .resync, .fences, .apply, .cmd, .ev, .stats, .regions, .mem] s t

/-! ## Events, formats and invariants -/

/-- O50. A requested event takes index P while the ring has room, with the phase of its lap and the time base as its
timestamp, and joins the event list; on a full ring it is counted lost and no index moves (R159). -/
def Obligations.EventsTakeTheNextSlot : Prop :=
  ∀ (ev : Event) (s : State), RingInRange s.ev →
    (unreleased s.ev < s.ev.count →
      (emit s ev).ev.list = s.ev.list ++
        [⟨ev, decide (s.ev.produce < s.ev.count), s.ev.timeBase,
          spaceAddr (s.ev.ringBase.toNat + 32 * (s.ev.produce % s.ev.count)), true⟩] ∧
      (emit s ev).ev.produce = (s.ev.produce + 1) % (2 * s.ev.count) ∧ (emit s ev).ev.release = s.ev.release ∧
      (emit s ev).ev.write = s.ev.write ∧ (emit s ev).ev.lost = s.ev.lost ∧
      unreleased (emit s ev).ev = unreleased s.ev + 1 ∧ SameBut [.ev] s (emit s ev)) ∧
    (unreleased s.ev = s.ev.count →
      emit s ev = { count s .eventsLost with
        ev := { s.ev with lost := if s.ev.lost = 0xFFFFFFFF#32 then s.ev.lost else s.ev.lost + 1 } })

/-- O51. The layout of an event entry, its place in its line, and the layout of the statistics block and the SNAPSHOT
(R160, R167, R175, R177, R178). A value that the state holds as a number without a bound stands there modulo its field's
width. What stands in the field of an absent segment, DISCONNECT or CLOSE is a free value (notes/assumptions/5.md), and the switch
segment flag is coded 1 for yes by the model's choice (notes/assumptions/34.md). -/
def Obligations.EventAndSnapshotLayout : Prop :=
  (∀ it : EventItem,
    let b := entryBytes it
    let has := fun (off n v : Nat) => fieldAt b off n = v % 256 ^ n
    let head := fun (kind status subject : Nat) => has 1 1 kind ∧ has 2 2 status ∧ has 4 2 subject
    let results := [CmdResult.ok, .badCommand, .badArgument, .badEntry, .entryBusy, .overlap, .notConnected, .busy, .lost]
    let outcomes := [FenceOutcome.durable, .notDurable, .notTaken]
    let fenceCauses := [FenceCause.none, .listFull, .notUp, .regionLagging, .regionRefused, .resyncError,
      .resyncAbandoned, .sessionDown]
    let losses := [LossCause.carrier, .retryLimit, .protocol, .peerLeft, .peerRejoined, .disconnected]
    let causes := [RegionCause.opened, .converged, .queueFull, .holdExpired, .writeError, .sessionDown, .rejected,
      .closed, .drained, .applyError, .released]
    let roles := [Role.free, .source, .target]
    let states := [RegionState.free, .lagging, .mirrored, .refused, .draining, .accepting, .failed, .releasing]
    let kinds := [RecordKind.write, .block, .note]
    b.length = 32 ∧ has 0 1 (if it.phase then 1 else 0) ∧ has 6 2 0 ∧ has 8 4 it.stamp.toNat ∧ has 12 4 0 ∧
    entryWrite it = .write (BitVec.ofNat 40 (it.slot.toNat / 64 * 64))
      (BitVec.ofNat 64 (0xFFFFFFFF * 2 ^ (it.slot.toNat % 64)))
      (BitVec.ofNat 512 (leNat b * 2 ^ (8 * (it.slot.toNat % 64)))) ∧
    (match it.event with
      | .commandDone result tag code entry errors =>
        (∃ n, results[n]? = some result ∧ head 1 n tag.toNat) ∧
        has 16 2 code.toNat ∧ has 18 1 entry.toNat ∧ has 19 1 0 ∧ has 20 4 errors.toNat ∧ has 24 8 0
      | .fenceDone outcome cause tag region boundary =>
        (∃ m n, outcomes[m]? = some outcome ∧ fenceCauses[n]? = some cause ∧ head 2 (m + 256 * n) tag.toNat) ∧
        has 16 1 ((region.map Fin.val).getD 0xFF) ∧ has 17 7 0 ∧ has 24 8 boundary.toNat
      | .sessionUp epoch peerUnit peerCall ownCall =>
        head 3 0 0 ∧ has 16 2 epoch.toNat ∧ has 18 1 peerUnit.toNat ∧ has 19 1 0 ∧ has 20 2 peerCall.toNat ∧
        has 22 2 ownCall.toNat ∧ has 24 8 0
      | .sessionDown cause epoch sent accepted part =>
        (∃ n, losses[n]? = some cause ∧ head 4 (n + 1) 0) ∧
        has 16 4 epoch.toNat ∧ has 20 4 sent.toNat ∧ has 24 4 accepted.toNat ∧ has 28 4 part.toNat
      | .joinRefused cause sender version =>
        head 5 (if cause = .sameUnit then 1 else 2) 0 ∧ has 16 1 sender.toNat ∧ has 17 1 0 ∧
        has 18 2 version.toNat ∧ has 20 12 0
      | .regionState cause entry role previous new =>
        (∃ n, causes[n]? = some cause ∧ head 6 (n + 1) entry.val) ∧
        (∃ n, roles[n]? = some role ∧ has 16 1 n) ∧ (∃ n, states[n]? = some previous ∧ has 17 1 n) ∧
        (∃ n, states[n]? = some new ∧ has 18 1 n) ∧ has 19 13 0
      | .noteReceived tag payload => head 7 0 tag.toNat ∧ has 16 16 payload.toNat
      | .recordRejected region seq cap kind peer reason =>
        head 8 (if reason = 1 ∨ reason = 2 ∨ reason = 3 then reason.toNat else 0) region.val ∧
        has 16 4 seq.toNat ∧ (∃ n, kinds[n]? = some kind ∧ has 20 1 (n + 1)) ∧ has 21 1 peer.toNat ∧
        has 22 1 reason.toNat ∧ has 23 1 0 ∧ has 24 8 cap.toNat
      | .applyError target seq kind addr =>
        head 9 0 target.val ∧ has 16 4 seq.toNat ∧ (∃ n, kinds[n]? = some kind ∧ has 20 4 (n + 1)) ∧
        has 24 8 addr.toNat
      | .resyncReadError region segment block line =>
        head 10 0 region.val ∧ has 16 2 segment ∧ has 18 2 0 ∧ has 20 4 block ∧ has 24 4 line ∧ has 28 4 0
      | .targetWriteRefused target addr unreported =>
        head 11 0 target.val ∧ has 16 8 addr.toNat ∧ has 24 2 unreported ∧ has 26 6 0
      | .eventsLost count => head 12 0 0 ∧ has 16 4 count.toNat ∧ has 20 12 0
      | .restarted tag => head 13 0 tag.toNat ∧ has 16 16 0
      | .ready unitId controlBase linkRate =>
        head 14 0 0 ∧ has 16 1 unitId.toNat ∧ has 17 1 linkRate.toNat ∧ has 18 6 0 ∧
        has 24 8 controlBase.toNat)) ∧
  (∀ s : State,
    (statsBytes s).length = 128 ∧ ∀ k : Fin 16, fieldAt (statsBytes s) (8 * k.val) 8 = ((s.stats)[k]).toNat) ∧
  (∀ s : State,
    let b := snapshotBytes s
    let has := fun (off n v : Nat) => fieldAt b off n = v % 256 ^ n
    let ext := fun (j n v : Nat) => fieldAt b (88 + 32 * (j / 8) + j % 8) n = v % 256 ^ n
    let x := s.session
    let flag := fun (c : Bool) (k : Nat) => if c then 2 ^ k else 0
    ([SessionState.disabled, .calling, .up, .closing].map sessionStateCode = [0, 1, 2, 3] ∧
      [BlockState.idle, .waiting, .reading, .discarding].map blockStateCode = [0, 1, 2, 3] ∧
      [HoldReason.none, .syncFull, .blockRead, .applyPending, .commandFull, .loading].map holdReasonCode =
        [0, 1, 2, 3, 4, 5] ∧
      [Role.free, .source, .target].map roleCode = [0, 1, 2] ∧
      [RegionState.free, .lagging, .mirrored, .refused, .draining, .accepting, .failed, .releasing].map regionStateCode =
        [0, 1, 2, 3, 4, 5, 6, 7] ∧
      [none, some QueueClass.sync, some .async].map classCode = [0, 1, 2]) ∧
    b.length = 1088 ∧
    (has 0 1 (sessionStateCode x.state) ∧
      has 1 1 (flag x.enable 0 + flag x.carrier 1 + flag x.refusalReported 2 + flag x.answer.isSome 3 +
        flag x.pendingDisconnect.isSome 4 + flag (attnPin s) 6) ∧
      has 2 1 s.loader.prom.unitId.toNat ∧ has 3 1 x.peerUnit.toNat ∧ has 4 2 x.call.toNat ∧
      has 6 2 x.lastEpoch.toNat ∧ has 8 2 x.epoch.toNat ∧ has 10 2 x.peerCall.toNat ∧
      has 12 2 ((x.answer.map fun a => a.epoch.toNat).getD 0) ∧ has 14 2 ((x.answer.map fun a => a.echo.toNat).getD 0) ∧
      has 16 2 ((x.answer.map fun a => a.last.toNat).getD 0) ∧
      (∀ tag, x.pendingDisconnect = some tag → has 18 2 tag.toNat) ∧
      has 20 6 s.capture.counter.toNat ∧ has 26 6 s.capture.boundary.toNat ∧ has 32 1 s.capture.sync.length ∧
      has 33 1 (reservedIn s .sync + reservedIn s .async) ∧ has 34 2 s.capture.async.length ∧
      has 36 4 s.tx.next.toNat ∧ has 40 4 s.tx.highest.toNat ∧ has 44 2 s.tx.replay.length ∧
      has 46 2 s.tx.control.length ∧ has 48 4 ((s.tx.replay.head?.map fun r => r.seq.toNat).getD 0) ∧
      has 52 4 ((s.tx.cursor.map BitVec.toNat).getD 0) ∧ has 56 1 s.tx.timeouts ∧ has 57 1 (flag s.rx.retrySent 0) ∧
      has 58 1 (s.rx.deferred.getD 0) ∧ has 59 1 s.rx.unacked ∧ has 60 4 s.rx.expected.toNat) ∧
    (ext 0 4 s.rx.ackPoint.toNat ∧ ext 4 1 (buffersHeld s.resync) ∧
      ext 5 1 ((s.resync.segment.map fun sg => sg.region.val).getD 0xFF) ∧
      (∀ sg, s.resync.segment = some sg → ext 6 2 sg.index ∧ ext 8 4 sg.nextBlock ∧ ext 13 1 (flag sg.switch 0)) ∧
      (s.resync.segment = none → ext 13 1 0) ∧
      ext 12 1 (blockStateCode s.resync.block) ∧ ext 14 1 s.fences.length ∧ ext 15 1 0 ∧
      ext 16 2 ((s.fences.head?.map fun f => f.tag.toNat).getD 0) ∧
      ext 18 6 ((s.fences.head?.map fun f => f.boundary.toNat).getD 0) ∧
      ext 24 1 s.apply.queue.length ∧ ext 25 1 (issuedEntries s) ∧ ext 26 1 s.rx.carried ∧
      ext 27 1 (holdReasonCode s.mem.hold) ∧
      ext 28 4 ((s.apply.queue.head?.map fun en => en.seq.toNat).getD 0) ∧
      ext 32 1 s.mem.responses.length ∧ ext 33 1 (injectedOutstanding s) ∧ ext 34 1 s.cmd.queue.length ∧
      ext 35 1 (s.cmd.pendingClose.toList.filter Option.isSome).length ∧ ext 36 1 0 ∧
      ext 37 1 (Nat.log2 s.ev.count) ∧ ext 38 2 0 ∧ ext 40 2 s.ev.produce ∧ ext 42 2 s.ev.release ∧
      ext 44 2 s.ev.write ∧ ext 46 2 0 ∧ ext 48 4 s.ev.lost.toNat ∧ ext 52 4 s.ev.timeBase.toNat ∧
      ext 56 8 s.ev.ringBase.toNat) ∧
    (∀ e : RegionIx,
      let en := s.entry e
      let field := fun (off n v : Nat) => has (64 + 32 * e.val + off) n v
      (8 ≤ e.val → field 24 8 0) ∧
      (en.state = .free → field 0 24 0) ∧
      (en.state ≠ .free →
        field 0 1 (roleCode (roleOf en.state)) ∧ field 1 1 (regionStateCode en.state) ∧ field 2 1 (classCode en.cls) ∧
        field 3 1 en.sizeExp ∧ field 4 1 en.peer.val ∧ field 5 1 (flag ((s.cmd.pendingClose)[e]).isSome 0) ∧
        (∀ tag, (s.cmd.pendingClose)[e] = some tag → field 6 2 tag.toNat) ∧
        field 8 8 en.base.toNat ∧ field 16 2 en.cursor ∧ field 18 2 en.dirty.length ∧
        field 20 2 ((s.apply.reports)[e]).unreported ∧ field 22 2 0)))

/-- O52. The state right after reset has every invariant. -/
def Obligations.InvariantsHoldAtReset : Prop :=
  NoMirrorDown State.reset ∧ WithinCapacity State.reset ∧ ReplayInOrder State.reset ∧ EntriesInShape State.reset ∧
    QuietUntilRunning State.reset ∧ RangesApart State.reset ∧ BuffersAccounted State.reset ∧
    EntriesAccounted State.reset

/-- O53. Every step keeps: while the session is not UP, no source is MIRRORED and no fence is pending (R10, R105). -/
def Obligations.StepKeepsNoMirrorDown : Prop :=
  ∀ s t : State, NoMirrorDown s → step s = .next t → NoMirrorDown t

/-- O54. Every step keeps every queue and list within its capacity (R23, R58, R98, R111, R129, R137, R143, R158,
R166). -/
def Obligations.StepKeepsWithinCapacity : Prop :=
  ∀ s t : State, WithinCapacity s → step s = .next t → WithinCapacity t

/-- O55. Every step keeps the replay list in sequence without gaps up to the highest sent (R58, R63). -/
def Obligations.StepKeepsReplayInOrder : Prop :=
  ∀ s t : State, ReplayInOrder s → step s = .next t → ReplayInOrder t

/-- O56. Every step keeps the fields of FREE entries and of targets 0, and marks only in LAGGING, MIRRORED and REFUSED
regions (R1, R79). -/
def Obligations.StepKeepsEntriesInShape : Prop :=
  ∀ s t : State, EntriesInShape s → step s = .next t → EntriesInShape t

/-- O57. Every step keeps: until a load has succeeded the part is as power-on leaves it, but for the loader, the Memory
Path, the outputs and the RESET_N input, with nothing held but by LOADING and nothing injected (R134, R140, R170,
R173). -/
def Obligations.StepKeepsQuietUntilRunning : Prop :=
  ∀ s t : State, QuietUntilRunning s → step s = .next t → QuietUntilRunning t

/-- O58. Every step keeps the range of each non-FREE entry apart from the others, from the control page, from the event
ring and from the write-out in progress (R6), in a part that is quiet until its load has succeeded
(StepKeepsQuietUntilRunning). -/
def Obligations.StepKeepsRangesApart : Prop :=
  ∀ s t : State, QuietUntilRunning s → RangesApart s → step s = .next t → RangesApart t

/-- O59. Every step keeps one holder for each block buffer held; so the buffers held are as many as the BLOCK records in
the send queues and the replay list, and one more while a block read is in progress (R82). -/
def Obligations.StepKeepsBuffersAccounted : Prop :=
  (∀ s t : State, BuffersAccounted s → step s = .next t → BuffersAccounted t) ∧
  (∀ s : State, BuffersAccounted s →
    buffersHeld s.resync = ((heldRecords s).filter fun r => r.kind = .block).length +
      (if s.resync.block = .reading ∨ s.resync.block = .discarding then 1 else 0) ∧
    buffersHeld s.resync ≤ 4)

/-- O60. Every step keeps the account of the entries that memory has yet to answer, in a part that is quiet until its
load has succeeded (R158, R160; StepKeepsQuietUntilRunning). On a ring in range the visible count is then W − C modulo 2N
where C does not lie beyond W, and 0 where a release has passed W (R163). -/
def Obligations.StepKeepsEntriesAccounted : Prop :=
  (∀ s t : State, QuietUntilRunning s → EntriesAccounted s → step s = .next t → EntriesAccounted t) ∧
  (∀ s : State, EntriesAccounted s → RingInRange s.ev →
    (s.ev.unwritten ≤ unreleased s.ev →
      visible s.ev = (s.ev.write + 2 * s.ev.count - s.ev.release) % (2 * s.ev.count)) ∧
    (unreleased s.ev < s.ev.unwritten → visible s.ev = 0))
end

