-- ==== Sys2Proof/Laws/Bytes.lean ====
section
/-! SUPPORT. Little-endian bytes written and read back, and the lengths of frames (R41, R175, section 12.6). -/

namespace Sys2Proof.Machine

@[simp] theorem length_leBytes : ∀ n v, (leBytes n v).length = n
  | 0, _ => rfl
  | n + 1, v => by simp [leBytes, length_leBytes n]

@[simp] theorem length_lineBytes (l : Line) : (lineBytes l).length = 64 := length_leBytes 64 _

/-- A value written in `n` bytes reads back modulo 2^(8 n). -/
theorem leNat_leBytes : ∀ n v, leNat (leBytes n v) = v % 2 ^ (8 * n)
  | 0, v => by simp [leBytes, leNat, Nat.mod_one]
  | n + 1, v => by
    have e : 2 ^ (8 * (n + 1)) = 256 * 2 ^ (8 * n) := by rw [Nat.mul_succ, Nat.pow_add]; omega
    rw [leBytes, leNat, leNat_leBytes n, e, Nat.mod_mul, BitVec.toNat_ofNat]

theorem leNat_leBytes_of_lt (n v : Nat) (h : v < 2 ^ (8 * n)) : leNat (leBytes n v) = v := by
  rw [leNat_leBytes, Nat.mod_eq_of_lt h]

/-- A field that starts where a prefix ends and is as long as what follows it reads what follows. -/
theorem fieldAt_append (pre mid post : List Byte) : fieldAt (pre ++ mid ++ post) pre.length mid.length = leNat mid := by
  simp [fieldAt, List.append_assoc]

/-- A field within the first of two lists. -/
theorem fieldAt_append_left (pre post : List Byte) (off n : Nat) (h : off + n ≤ pre.length) :
    fieldAt (pre ++ post) off n = fieldAt pre off n := by
  rw [fieldAt, fieldAt, List.drop_append_of_le_length (by omega), List.take_append_of_le_length (by simp; omega)]

/-- A field behind the first of two lists. -/
theorem fieldAt_append_right (pre post : List Byte) (off n : Nat) (h : pre.length ≤ off) :
    fieldAt (pre ++ post) off n = fieldAt post (off - pre.length) n := by
  rw [fieldAt, fieldAt, List.drop_append, List.drop_eq_nil_of_le h, List.nil_append]

/-- A value written in `n` bytes is the field of those bytes. -/
theorem fieldAt_leBytes (n v : Nat) : fieldAt (leBytes n v) 0 n = v % 256 ^ n := by
  rw [fieldAt, List.drop_zero, List.take_of_length_le (by simp), leNat_leBytes, Nat.pow_mul]

/-- A trailer that holds the CRC-32 of the bytes before it passes check 1 of R42. -/
theorem crcGood_trailer (b : List Byte) : crcGood (b ++ leBytes 4 (crc32 b).toNat) = true := by
  have n : (b ++ leBytes 4 (crc32 b).toNat).length - 4 = b.length := by simp
  rw [crcGood, n, List.drop_left, List.take_left, leNat_leBytes_of_lt _ _ (crc32 b).isLt]
  simp

theorem crcGood_buildFrame (k : FrameKind) (epoch : BitVec 16) (unit : BitVec 8) (body : List Byte) :
    crcGood (buildFrame k epoch unit body) = true := crcGood_trailer _

/-- The frames of records and the control frames pass check 1 of R42. -/
theorem crcGood_recordBytes (unit : BitVec 8) (epoch : BitVec 16) (buffers : Vector (Option BlockData) 4) (r : Replayed) :
    crcGood (recordBytes unit epoch buffers r) = true := by
  unfold recordBytes
  split <;> exact crcGood_buildFrame _ _ _ _

theorem crcGood_controlBytes (unit : BitVec 8) (f : ControlFrame) : crcGood (controlBytes unit f) = true := by
  unfold controlBytes
  split <;> exact crcGood_buildFrame _ _ _ _

/-- The successor of a sequence number is never 0. -/
theorem seqSucc_ne_zero (n : BitVec 32) : seqSucc n ≠ 0 := by
  unfold seqSucc
  split
  · decide
  · bv_omega

theorem seqPred_seqSucc (n : BitVec 32) (h : n ≠ 0) : seqPred (seqSucc n) = n := by
  unfold seqPred seqSucc
  split
  · simp_all
  · rw [if_neg (by bv_omega)]
    bv_omega

/-- No number is below itself. -/
theorem seqBelow_irrefl (n : BitVec 32) : seqBelow n n = false := by simp [seqBelow]

/-- Of two numbers at most one is below the other. -/
theorem seqBelow_asymm (a b : BitVec 32) (h : seqBelow a b = true) : seqBelow b a = false := by
  simp only [seqBelow, Bool.and_eq_true, decide_eq_true_eq] at h ⊢
  have := BitVec.toNat_sub a b
  have := BitVec.toNat_sub b a
  simp only [Bool.and_eq_false_iff, decide_eq_false_iff_not]
  omega

/-- A number that another one lies below is neither that one nor below it. -/
theorem seqUpTo_of_below (a n : BitVec 32) (h : seqBelow n a = true) : seqUpTo a n = false := by
  have ne : a ≠ n := fun e => by rw [e, seqBelow_irrefl] at h; cases h
  simp [seqUpTo, seqBelow_asymm n a h, ne]

/-- Two numbers are in an order unless they are 2^31 apart (R63). -/
theorem seqUpTo_or_below (a n : BitVec 32) (h : (n - a).toNat ≠ 2 ^ 31) : seqUpTo a n = true ∨ seqBelow n a = true := by
  by_cases e : a = n
  · exact .inl (by simp [seqUpTo, e])
  · simp only [seqUpTo, seqBelow, Bool.or_eq_true, Bool.and_eq_true, decide_eq_true_eq]
    bv_omega

end Sys2Proof.Machine
end

