-- ==== Sys2Proof/Laws/State.lean ====
section
/-! SUPPORT. What each update of one block of the state does to each field: one lemma per field per update. -/

namespace Sys2Proof.Machine

variable (s : State)

@[simp] theorem State.modLoader_pending (f : Loader → Loader) : (s.modLoader f).pending = s.pending := rfl
@[simp] theorem State.modLoader_resetN (f : Loader → Loader) : (s.modLoader f).resetN = s.resetN := rfl
@[simp] theorem State.modLoader_loader (f : Loader → Loader) : (s.modLoader f).loader = f s.loader := rfl
@[simp] theorem State.modLoader_params (f : Loader → Loader) : (s.modLoader f).params = s.params := rfl
@[simp] theorem State.modLoader_regions (f : Loader → Loader) : (s.modLoader f).regions = s.regions := rfl
@[simp] theorem State.modLoader_session (f : Loader → Loader) : (s.modLoader f).session = s.session := rfl
@[simp] theorem State.modLoader_capture (f : Loader → Loader) : (s.modLoader f).capture = s.capture := rfl
@[simp] theorem State.modLoader_tx (f : Loader → Loader) : (s.modLoader f).tx = s.tx := rfl
@[simp] theorem State.modLoader_rx (f : Loader → Loader) : (s.modLoader f).rx = s.rx := rfl
@[simp] theorem State.modLoader_apply (f : Loader → Loader) : (s.modLoader f).apply = s.apply := rfl
@[simp] theorem State.modLoader_resync (f : Loader → Loader) : (s.modLoader f).resync = s.resync := rfl
@[simp] theorem State.modLoader_fences (f : Loader → Loader) : (s.modLoader f).fences = s.fences := rfl
@[simp] theorem State.modLoader_mem (f : Loader → Loader) : (s.modLoader f).mem = s.mem := rfl
@[simp] theorem State.modLoader_cmd (f : Loader → Loader) : (s.modLoader f).cmd = s.cmd := rfl
@[simp] theorem State.modLoader_ev (f : Loader → Loader) : (s.modLoader f).ev = s.ev := rfl
@[simp] theorem State.modLoader_stats (f : Loader → Loader) : (s.modLoader f).stats = s.stats := rfl
@[simp] theorem State.modLoader_out (f : Loader → Loader) : (s.modLoader f).out = s.out := rfl
@[simp] theorem State.modLoader_freeCount (f : Loader → Loader) : (s.modLoader f).freeCount = s.freeCount := rfl

@[simp] theorem State.modParams_pending (f : Params → Params) : (s.modParams f).pending = s.pending := rfl
@[simp] theorem State.modParams_resetN (f : Params → Params) : (s.modParams f).resetN = s.resetN := rfl
@[simp] theorem State.modParams_loader (f : Params → Params) : (s.modParams f).loader = s.loader := rfl
@[simp] theorem State.modParams_params (f : Params → Params) : (s.modParams f).params = f s.params := rfl
@[simp] theorem State.modParams_regions (f : Params → Params) : (s.modParams f).regions = s.regions := rfl
@[simp] theorem State.modParams_session (f : Params → Params) : (s.modParams f).session = s.session := rfl
@[simp] theorem State.modParams_capture (f : Params → Params) : (s.modParams f).capture = s.capture := rfl
@[simp] theorem State.modParams_tx (f : Params → Params) : (s.modParams f).tx = s.tx := rfl
@[simp] theorem State.modParams_rx (f : Params → Params) : (s.modParams f).rx = s.rx := rfl
@[simp] theorem State.modParams_apply (f : Params → Params) : (s.modParams f).apply = s.apply := rfl
@[simp] theorem State.modParams_resync (f : Params → Params) : (s.modParams f).resync = s.resync := rfl
@[simp] theorem State.modParams_fences (f : Params → Params) : (s.modParams f).fences = s.fences := rfl
@[simp] theorem State.modParams_mem (f : Params → Params) : (s.modParams f).mem = s.mem := rfl
@[simp] theorem State.modParams_cmd (f : Params → Params) : (s.modParams f).cmd = s.cmd := rfl
@[simp] theorem State.modParams_ev (f : Params → Params) : (s.modParams f).ev = s.ev := rfl
@[simp] theorem State.modParams_stats (f : Params → Params) : (s.modParams f).stats = s.stats := rfl
@[simp] theorem State.modParams_out (f : Params → Params) : (s.modParams f).out = s.out := rfl
@[simp] theorem State.modParams_freeCount (f : Params → Params) : (s.modParams f).freeCount = s.freeCount := rfl

@[simp] theorem State.modRegions_pending (f : Vector Entry 32 → Vector Entry 32) : (s.modRegions f).pending = s.pending := rfl
@[simp] theorem State.modRegions_resetN (f : Vector Entry 32 → Vector Entry 32) : (s.modRegions f).resetN = s.resetN := rfl
@[simp] theorem State.modRegions_loader (f : Vector Entry 32 → Vector Entry 32) : (s.modRegions f).loader = s.loader := rfl
@[simp] theorem State.modRegions_params (f : Vector Entry 32 → Vector Entry 32) : (s.modRegions f).params = s.params := rfl
@[simp] theorem State.modRegions_regions (f : Vector Entry 32 → Vector Entry 32) : (s.modRegions f).regions = f s.regions := rfl
@[simp] theorem State.modRegions_session (f : Vector Entry 32 → Vector Entry 32) : (s.modRegions f).session = s.session := rfl
@[simp] theorem State.modRegions_capture (f : Vector Entry 32 → Vector Entry 32) : (s.modRegions f).capture = s.capture := rfl
@[simp] theorem State.modRegions_tx (f : Vector Entry 32 → Vector Entry 32) : (s.modRegions f).tx = s.tx := rfl
@[simp] theorem State.modRegions_rx (f : Vector Entry 32 → Vector Entry 32) : (s.modRegions f).rx = s.rx := rfl
@[simp] theorem State.modRegions_apply (f : Vector Entry 32 → Vector Entry 32) : (s.modRegions f).apply = s.apply := rfl
@[simp] theorem State.modRegions_resync (f : Vector Entry 32 → Vector Entry 32) : (s.modRegions f).resync = s.resync := rfl
@[simp] theorem State.modRegions_fences (f : Vector Entry 32 → Vector Entry 32) : (s.modRegions f).fences = s.fences := rfl
@[simp] theorem State.modRegions_mem (f : Vector Entry 32 → Vector Entry 32) : (s.modRegions f).mem = s.mem := rfl
@[simp] theorem State.modRegions_cmd (f : Vector Entry 32 → Vector Entry 32) : (s.modRegions f).cmd = s.cmd := rfl
@[simp] theorem State.modRegions_ev (f : Vector Entry 32 → Vector Entry 32) : (s.modRegions f).ev = s.ev := rfl
@[simp] theorem State.modRegions_stats (f : Vector Entry 32 → Vector Entry 32) : (s.modRegions f).stats = s.stats := rfl
@[simp] theorem State.modRegions_out (f : Vector Entry 32 → Vector Entry 32) : (s.modRegions f).out = s.out := rfl
@[simp] theorem State.modRegions_freeCount (f : Vector Entry 32 → Vector Entry 32) : (s.modRegions f).freeCount = s.freeCount := rfl

@[simp] theorem State.modSession_pending (f : Session → Session) : (s.modSession f).pending = s.pending := rfl
@[simp] theorem State.modSession_resetN (f : Session → Session) : (s.modSession f).resetN = s.resetN := rfl
@[simp] theorem State.modSession_loader (f : Session → Session) : (s.modSession f).loader = s.loader := rfl
@[simp] theorem State.modSession_params (f : Session → Session) : (s.modSession f).params = s.params := rfl
@[simp] theorem State.modSession_regions (f : Session → Session) : (s.modSession f).regions = s.regions := rfl
@[simp] theorem State.modSession_session (f : Session → Session) : (s.modSession f).session = f s.session := rfl
@[simp] theorem State.modSession_capture (f : Session → Session) : (s.modSession f).capture = s.capture := rfl
@[simp] theorem State.modSession_tx (f : Session → Session) : (s.modSession f).tx = s.tx := rfl
@[simp] theorem State.modSession_rx (f : Session → Session) : (s.modSession f).rx = s.rx := rfl
@[simp] theorem State.modSession_apply (f : Session → Session) : (s.modSession f).apply = s.apply := rfl
@[simp] theorem State.modSession_resync (f : Session → Session) : (s.modSession f).resync = s.resync := rfl
@[simp] theorem State.modSession_fences (f : Session → Session) : (s.modSession f).fences = s.fences := rfl
@[simp] theorem State.modSession_mem (f : Session → Session) : (s.modSession f).mem = s.mem := rfl
@[simp] theorem State.modSession_cmd (f : Session → Session) : (s.modSession f).cmd = s.cmd := rfl
@[simp] theorem State.modSession_ev (f : Session → Session) : (s.modSession f).ev = s.ev := rfl
@[simp] theorem State.modSession_stats (f : Session → Session) : (s.modSession f).stats = s.stats := rfl
@[simp] theorem State.modSession_out (f : Session → Session) : (s.modSession f).out = s.out := rfl
@[simp] theorem State.modSession_freeCount (f : Session → Session) : (s.modSession f).freeCount = s.freeCount := rfl

@[simp] theorem State.modCapture_pending (f : Capture → Capture) : (s.modCapture f).pending = s.pending := rfl
@[simp] theorem State.modCapture_resetN (f : Capture → Capture) : (s.modCapture f).resetN = s.resetN := rfl
@[simp] theorem State.modCapture_loader (f : Capture → Capture) : (s.modCapture f).loader = s.loader := rfl
@[simp] theorem State.modCapture_params (f : Capture → Capture) : (s.modCapture f).params = s.params := rfl
@[simp] theorem State.modCapture_regions (f : Capture → Capture) : (s.modCapture f).regions = s.regions := rfl
@[simp] theorem State.modCapture_session (f : Capture → Capture) : (s.modCapture f).session = s.session := rfl
@[simp] theorem State.modCapture_capture (f : Capture → Capture) : (s.modCapture f).capture = f s.capture := rfl
@[simp] theorem State.modCapture_tx (f : Capture → Capture) : (s.modCapture f).tx = s.tx := rfl
@[simp] theorem State.modCapture_rx (f : Capture → Capture) : (s.modCapture f).rx = s.rx := rfl
@[simp] theorem State.modCapture_apply (f : Capture → Capture) : (s.modCapture f).apply = s.apply := rfl
@[simp] theorem State.modCapture_resync (f : Capture → Capture) : (s.modCapture f).resync = s.resync := rfl
@[simp] theorem State.modCapture_fences (f : Capture → Capture) : (s.modCapture f).fences = s.fences := rfl
@[simp] theorem State.modCapture_mem (f : Capture → Capture) : (s.modCapture f).mem = s.mem := rfl
@[simp] theorem State.modCapture_cmd (f : Capture → Capture) : (s.modCapture f).cmd = s.cmd := rfl
@[simp] theorem State.modCapture_ev (f : Capture → Capture) : (s.modCapture f).ev = s.ev := rfl
@[simp] theorem State.modCapture_stats (f : Capture → Capture) : (s.modCapture f).stats = s.stats := rfl
@[simp] theorem State.modCapture_out (f : Capture → Capture) : (s.modCapture f).out = s.out := rfl
@[simp] theorem State.modCapture_freeCount (f : Capture → Capture) : (s.modCapture f).freeCount = s.freeCount := rfl

@[simp] theorem State.modTx_pending (f : Transmitter → Transmitter) : (s.modTx f).pending = s.pending := rfl
@[simp] theorem State.modTx_resetN (f : Transmitter → Transmitter) : (s.modTx f).resetN = s.resetN := rfl
@[simp] theorem State.modTx_loader (f : Transmitter → Transmitter) : (s.modTx f).loader = s.loader := rfl
@[simp] theorem State.modTx_params (f : Transmitter → Transmitter) : (s.modTx f).params = s.params := rfl
@[simp] theorem State.modTx_regions (f : Transmitter → Transmitter) : (s.modTx f).regions = s.regions := rfl
@[simp] theorem State.modTx_session (f : Transmitter → Transmitter) : (s.modTx f).session = s.session := rfl
@[simp] theorem State.modTx_capture (f : Transmitter → Transmitter) : (s.modTx f).capture = s.capture := rfl
@[simp] theorem State.modTx_tx (f : Transmitter → Transmitter) : (s.modTx f).tx = f s.tx := rfl
@[simp] theorem State.modTx_rx (f : Transmitter → Transmitter) : (s.modTx f).rx = s.rx := rfl
@[simp] theorem State.modTx_apply (f : Transmitter → Transmitter) : (s.modTx f).apply = s.apply := rfl
@[simp] theorem State.modTx_resync (f : Transmitter → Transmitter) : (s.modTx f).resync = s.resync := rfl
@[simp] theorem State.modTx_fences (f : Transmitter → Transmitter) : (s.modTx f).fences = s.fences := rfl
@[simp] theorem State.modTx_mem (f : Transmitter → Transmitter) : (s.modTx f).mem = s.mem := rfl
@[simp] theorem State.modTx_cmd (f : Transmitter → Transmitter) : (s.modTx f).cmd = s.cmd := rfl
@[simp] theorem State.modTx_ev (f : Transmitter → Transmitter) : (s.modTx f).ev = s.ev := rfl
@[simp] theorem State.modTx_stats (f : Transmitter → Transmitter) : (s.modTx f).stats = s.stats := rfl
@[simp] theorem State.modTx_out (f : Transmitter → Transmitter) : (s.modTx f).out = s.out := rfl
@[simp] theorem State.modTx_freeCount (f : Transmitter → Transmitter) : (s.modTx f).freeCount = s.freeCount := rfl

@[simp] theorem State.modRx_pending (f : Receiver → Receiver) : (s.modRx f).pending = s.pending := rfl
@[simp] theorem State.modRx_resetN (f : Receiver → Receiver) : (s.modRx f).resetN = s.resetN := rfl
@[simp] theorem State.modRx_loader (f : Receiver → Receiver) : (s.modRx f).loader = s.loader := rfl
@[simp] theorem State.modRx_params (f : Receiver → Receiver) : (s.modRx f).params = s.params := rfl
@[simp] theorem State.modRx_regions (f : Receiver → Receiver) : (s.modRx f).regions = s.regions := rfl
@[simp] theorem State.modRx_session (f : Receiver → Receiver) : (s.modRx f).session = s.session := rfl
@[simp] theorem State.modRx_capture (f : Receiver → Receiver) : (s.modRx f).capture = s.capture := rfl
@[simp] theorem State.modRx_tx (f : Receiver → Receiver) : (s.modRx f).tx = s.tx := rfl
@[simp] theorem State.modRx_rx (f : Receiver → Receiver) : (s.modRx f).rx = f s.rx := rfl
@[simp] theorem State.modRx_apply (f : Receiver → Receiver) : (s.modRx f).apply = s.apply := rfl
@[simp] theorem State.modRx_resync (f : Receiver → Receiver) : (s.modRx f).resync = s.resync := rfl
@[simp] theorem State.modRx_fences (f : Receiver → Receiver) : (s.modRx f).fences = s.fences := rfl
@[simp] theorem State.modRx_mem (f : Receiver → Receiver) : (s.modRx f).mem = s.mem := rfl
@[simp] theorem State.modRx_cmd (f : Receiver → Receiver) : (s.modRx f).cmd = s.cmd := rfl
@[simp] theorem State.modRx_ev (f : Receiver → Receiver) : (s.modRx f).ev = s.ev := rfl
@[simp] theorem State.modRx_stats (f : Receiver → Receiver) : (s.modRx f).stats = s.stats := rfl
@[simp] theorem State.modRx_out (f : Receiver → Receiver) : (s.modRx f).out = s.out := rfl
@[simp] theorem State.modRx_freeCount (f : Receiver → Receiver) : (s.modRx f).freeCount = s.freeCount := rfl

@[simp] theorem State.modApply_pending (f : ApplyEngine → ApplyEngine) : (s.modApply f).pending = s.pending := rfl
@[simp] theorem State.modApply_resetN (f : ApplyEngine → ApplyEngine) : (s.modApply f).resetN = s.resetN := rfl
@[simp] theorem State.modApply_loader (f : ApplyEngine → ApplyEngine) : (s.modApply f).loader = s.loader := rfl
@[simp] theorem State.modApply_params (f : ApplyEngine → ApplyEngine) : (s.modApply f).params = s.params := rfl
@[simp] theorem State.modApply_regions (f : ApplyEngine → ApplyEngine) : (s.modApply f).regions = s.regions := rfl
@[simp] theorem State.modApply_session (f : ApplyEngine → ApplyEngine) : (s.modApply f).session = s.session := rfl
@[simp] theorem State.modApply_capture (f : ApplyEngine → ApplyEngine) : (s.modApply f).capture = s.capture := rfl
@[simp] theorem State.modApply_tx (f : ApplyEngine → ApplyEngine) : (s.modApply f).tx = s.tx := rfl
@[simp] theorem State.modApply_rx (f : ApplyEngine → ApplyEngine) : (s.modApply f).rx = s.rx := rfl
@[simp] theorem State.modApply_apply (f : ApplyEngine → ApplyEngine) : (s.modApply f).apply = f s.apply := rfl
@[simp] theorem State.modApply_resync (f : ApplyEngine → ApplyEngine) : (s.modApply f).resync = s.resync := rfl
@[simp] theorem State.modApply_fences (f : ApplyEngine → ApplyEngine) : (s.modApply f).fences = s.fences := rfl
@[simp] theorem State.modApply_mem (f : ApplyEngine → ApplyEngine) : (s.modApply f).mem = s.mem := rfl
@[simp] theorem State.modApply_cmd (f : ApplyEngine → ApplyEngine) : (s.modApply f).cmd = s.cmd := rfl
@[simp] theorem State.modApply_ev (f : ApplyEngine → ApplyEngine) : (s.modApply f).ev = s.ev := rfl
@[simp] theorem State.modApply_stats (f : ApplyEngine → ApplyEngine) : (s.modApply f).stats = s.stats := rfl
@[simp] theorem State.modApply_out (f : ApplyEngine → ApplyEngine) : (s.modApply f).out = s.out := rfl
@[simp] theorem State.modApply_freeCount (f : ApplyEngine → ApplyEngine) : (s.modApply f).freeCount = s.freeCount := rfl

@[simp] theorem State.modResync_pending (f : Resync → Resync) : (s.modResync f).pending = s.pending := rfl
@[simp] theorem State.modResync_resetN (f : Resync → Resync) : (s.modResync f).resetN = s.resetN := rfl
@[simp] theorem State.modResync_loader (f : Resync → Resync) : (s.modResync f).loader = s.loader := rfl
@[simp] theorem State.modResync_params (f : Resync → Resync) : (s.modResync f).params = s.params := rfl
@[simp] theorem State.modResync_regions (f : Resync → Resync) : (s.modResync f).regions = s.regions := rfl
@[simp] theorem State.modResync_session (f : Resync → Resync) : (s.modResync f).session = s.session := rfl
@[simp] theorem State.modResync_capture (f : Resync → Resync) : (s.modResync f).capture = s.capture := rfl
@[simp] theorem State.modResync_tx (f : Resync → Resync) : (s.modResync f).tx = s.tx := rfl
@[simp] theorem State.modResync_rx (f : Resync → Resync) : (s.modResync f).rx = s.rx := rfl
@[simp] theorem State.modResync_apply (f : Resync → Resync) : (s.modResync f).apply = s.apply := rfl
@[simp] theorem State.modResync_resync (f : Resync → Resync) : (s.modResync f).resync = f s.resync := rfl
@[simp] theorem State.modResync_fences (f : Resync → Resync) : (s.modResync f).fences = s.fences := rfl
@[simp] theorem State.modResync_mem (f : Resync → Resync) : (s.modResync f).mem = s.mem := rfl
@[simp] theorem State.modResync_cmd (f : Resync → Resync) : (s.modResync f).cmd = s.cmd := rfl
@[simp] theorem State.modResync_ev (f : Resync → Resync) : (s.modResync f).ev = s.ev := rfl
@[simp] theorem State.modResync_stats (f : Resync → Resync) : (s.modResync f).stats = s.stats := rfl
@[simp] theorem State.modResync_out (f : Resync → Resync) : (s.modResync f).out = s.out := rfl
@[simp] theorem State.modResync_freeCount (f : Resync → Resync) : (s.modResync f).freeCount = s.freeCount := rfl

@[simp] theorem State.modFences_pending (f : List Fence → List Fence) : (s.modFences f).pending = s.pending := rfl
@[simp] theorem State.modFences_resetN (f : List Fence → List Fence) : (s.modFences f).resetN = s.resetN := rfl
@[simp] theorem State.modFences_loader (f : List Fence → List Fence) : (s.modFences f).loader = s.loader := rfl
@[simp] theorem State.modFences_params (f : List Fence → List Fence) : (s.modFences f).params = s.params := rfl
@[simp] theorem State.modFences_regions (f : List Fence → List Fence) : (s.modFences f).regions = s.regions := rfl
@[simp] theorem State.modFences_session (f : List Fence → List Fence) : (s.modFences f).session = s.session := rfl
@[simp] theorem State.modFences_capture (f : List Fence → List Fence) : (s.modFences f).capture = s.capture := rfl
@[simp] theorem State.modFences_tx (f : List Fence → List Fence) : (s.modFences f).tx = s.tx := rfl
@[simp] theorem State.modFences_rx (f : List Fence → List Fence) : (s.modFences f).rx = s.rx := rfl
@[simp] theorem State.modFences_apply (f : List Fence → List Fence) : (s.modFences f).apply = s.apply := rfl
@[simp] theorem State.modFences_resync (f : List Fence → List Fence) : (s.modFences f).resync = s.resync := rfl
@[simp] theorem State.modFences_fences (f : List Fence → List Fence) : (s.modFences f).fences = f s.fences := rfl
@[simp] theorem State.modFences_mem (f : List Fence → List Fence) : (s.modFences f).mem = s.mem := rfl
@[simp] theorem State.modFences_cmd (f : List Fence → List Fence) : (s.modFences f).cmd = s.cmd := rfl
@[simp] theorem State.modFences_ev (f : List Fence → List Fence) : (s.modFences f).ev = s.ev := rfl
@[simp] theorem State.modFences_stats (f : List Fence → List Fence) : (s.modFences f).stats = s.stats := rfl
@[simp] theorem State.modFences_out (f : List Fence → List Fence) : (s.modFences f).out = s.out := rfl
@[simp] theorem State.modFences_freeCount (f : List Fence → List Fence) : (s.modFences f).freeCount = s.freeCount := rfl

@[simp] theorem State.modMem_pending (f : MemPath → MemPath) : (s.modMem f).pending = s.pending := rfl
@[simp] theorem State.modMem_resetN (f : MemPath → MemPath) : (s.modMem f).resetN = s.resetN := rfl
@[simp] theorem State.modMem_loader (f : MemPath → MemPath) : (s.modMem f).loader = s.loader := rfl
@[simp] theorem State.modMem_params (f : MemPath → MemPath) : (s.modMem f).params = s.params := rfl
@[simp] theorem State.modMem_regions (f : MemPath → MemPath) : (s.modMem f).regions = s.regions := rfl
@[simp] theorem State.modMem_session (f : MemPath → MemPath) : (s.modMem f).session = s.session := rfl
@[simp] theorem State.modMem_capture (f : MemPath → MemPath) : (s.modMem f).capture = s.capture := rfl
@[simp] theorem State.modMem_tx (f : MemPath → MemPath) : (s.modMem f).tx = s.tx := rfl
@[simp] theorem State.modMem_rx (f : MemPath → MemPath) : (s.modMem f).rx = s.rx := rfl
@[simp] theorem State.modMem_apply (f : MemPath → MemPath) : (s.modMem f).apply = s.apply := rfl
@[simp] theorem State.modMem_resync (f : MemPath → MemPath) : (s.modMem f).resync = s.resync := rfl
@[simp] theorem State.modMem_fences (f : MemPath → MemPath) : (s.modMem f).fences = s.fences := rfl
@[simp] theorem State.modMem_mem (f : MemPath → MemPath) : (s.modMem f).mem = f s.mem := rfl
@[simp] theorem State.modMem_cmd (f : MemPath → MemPath) : (s.modMem f).cmd = s.cmd := rfl
@[simp] theorem State.modMem_ev (f : MemPath → MemPath) : (s.modMem f).ev = s.ev := rfl
@[simp] theorem State.modMem_stats (f : MemPath → MemPath) : (s.modMem f).stats = s.stats := rfl
@[simp] theorem State.modMem_out (f : MemPath → MemPath) : (s.modMem f).out = s.out := rfl
@[simp] theorem State.modMem_freeCount (f : MemPath → MemPath) : (s.modMem f).freeCount = s.freeCount := rfl

@[simp] theorem State.modCmd_pending (f : CommandUnit → CommandUnit) : (s.modCmd f).pending = s.pending := rfl
@[simp] theorem State.modCmd_resetN (f : CommandUnit → CommandUnit) : (s.modCmd f).resetN = s.resetN := rfl
@[simp] theorem State.modCmd_loader (f : CommandUnit → CommandUnit) : (s.modCmd f).loader = s.loader := rfl
@[simp] theorem State.modCmd_params (f : CommandUnit → CommandUnit) : (s.modCmd f).params = s.params := rfl
@[simp] theorem State.modCmd_regions (f : CommandUnit → CommandUnit) : (s.modCmd f).regions = s.regions := rfl
@[simp] theorem State.modCmd_session (f : CommandUnit → CommandUnit) : (s.modCmd f).session = s.session := rfl
@[simp] theorem State.modCmd_capture (f : CommandUnit → CommandUnit) : (s.modCmd f).capture = s.capture := rfl
@[simp] theorem State.modCmd_tx (f : CommandUnit → CommandUnit) : (s.modCmd f).tx = s.tx := rfl
@[simp] theorem State.modCmd_rx (f : CommandUnit → CommandUnit) : (s.modCmd f).rx = s.rx := rfl
@[simp] theorem State.modCmd_apply (f : CommandUnit → CommandUnit) : (s.modCmd f).apply = s.apply := rfl
@[simp] theorem State.modCmd_resync (f : CommandUnit → CommandUnit) : (s.modCmd f).resync = s.resync := rfl
@[simp] theorem State.modCmd_fences (f : CommandUnit → CommandUnit) : (s.modCmd f).fences = s.fences := rfl
@[simp] theorem State.modCmd_mem (f : CommandUnit → CommandUnit) : (s.modCmd f).mem = s.mem := rfl
@[simp] theorem State.modCmd_cmd (f : CommandUnit → CommandUnit) : (s.modCmd f).cmd = f s.cmd := rfl
@[simp] theorem State.modCmd_ev (f : CommandUnit → CommandUnit) : (s.modCmd f).ev = s.ev := rfl
@[simp] theorem State.modCmd_stats (f : CommandUnit → CommandUnit) : (s.modCmd f).stats = s.stats := rfl
@[simp] theorem State.modCmd_out (f : CommandUnit → CommandUnit) : (s.modCmd f).out = s.out := rfl
@[simp] theorem State.modCmd_freeCount (f : CommandUnit → CommandUnit) : (s.modCmd f).freeCount = s.freeCount := rfl

@[simp] theorem State.modEv_pending (f : EventWriter → EventWriter) : (s.modEv f).pending = s.pending := rfl
@[simp] theorem State.modEv_resetN (f : EventWriter → EventWriter) : (s.modEv f).resetN = s.resetN := rfl
@[simp] theorem State.modEv_loader (f : EventWriter → EventWriter) : (s.modEv f).loader = s.loader := rfl
@[simp] theorem State.modEv_params (f : EventWriter → EventWriter) : (s.modEv f).params = s.params := rfl
@[simp] theorem State.modEv_regions (f : EventWriter → EventWriter) : (s.modEv f).regions = s.regions := rfl
@[simp] theorem State.modEv_session (f : EventWriter → EventWriter) : (s.modEv f).session = s.session := rfl
@[simp] theorem State.modEv_capture (f : EventWriter → EventWriter) : (s.modEv f).capture = s.capture := rfl
@[simp] theorem State.modEv_tx (f : EventWriter → EventWriter) : (s.modEv f).tx = s.tx := rfl
@[simp] theorem State.modEv_rx (f : EventWriter → EventWriter) : (s.modEv f).rx = s.rx := rfl
@[simp] theorem State.modEv_apply (f : EventWriter → EventWriter) : (s.modEv f).apply = s.apply := rfl
@[simp] theorem State.modEv_resync (f : EventWriter → EventWriter) : (s.modEv f).resync = s.resync := rfl
@[simp] theorem State.modEv_fences (f : EventWriter → EventWriter) : (s.modEv f).fences = s.fences := rfl
@[simp] theorem State.modEv_mem (f : EventWriter → EventWriter) : (s.modEv f).mem = s.mem := rfl
@[simp] theorem State.modEv_cmd (f : EventWriter → EventWriter) : (s.modEv f).cmd = s.cmd := rfl
@[simp] theorem State.modEv_ev (f : EventWriter → EventWriter) : (s.modEv f).ev = f s.ev := rfl
@[simp] theorem State.modEv_stats (f : EventWriter → EventWriter) : (s.modEv f).stats = s.stats := rfl
@[simp] theorem State.modEv_out (f : EventWriter → EventWriter) : (s.modEv f).out = s.out := rfl
@[simp] theorem State.modEv_freeCount (f : EventWriter → EventWriter) : (s.modEv f).freeCount = s.freeCount := rfl

@[simp] theorem State.modStats_pending (f : Vector (BitVec 64) 16 → Vector (BitVec 64) 16) : (s.modStats f).pending = s.pending := rfl
@[simp] theorem State.modStats_resetN (f : Vector (BitVec 64) 16 → Vector (BitVec 64) 16) : (s.modStats f).resetN = s.resetN := rfl
@[simp] theorem State.modStats_loader (f : Vector (BitVec 64) 16 → Vector (BitVec 64) 16) : (s.modStats f).loader = s.loader := rfl
@[simp] theorem State.modStats_params (f : Vector (BitVec 64) 16 → Vector (BitVec 64) 16) : (s.modStats f).params = s.params := rfl
@[simp] theorem State.modStats_regions (f : Vector (BitVec 64) 16 → Vector (BitVec 64) 16) : (s.modStats f).regions = s.regions := rfl
@[simp] theorem State.modStats_session (f : Vector (BitVec 64) 16 → Vector (BitVec 64) 16) : (s.modStats f).session = s.session := rfl
@[simp] theorem State.modStats_capture (f : Vector (BitVec 64) 16 → Vector (BitVec 64) 16) : (s.modStats f).capture = s.capture := rfl
@[simp] theorem State.modStats_tx (f : Vector (BitVec 64) 16 → Vector (BitVec 64) 16) : (s.modStats f).tx = s.tx := rfl
@[simp] theorem State.modStats_rx (f : Vector (BitVec 64) 16 → Vector (BitVec 64) 16) : (s.modStats f).rx = s.rx := rfl
@[simp] theorem State.modStats_apply (f : Vector (BitVec 64) 16 → Vector (BitVec 64) 16) : (s.modStats f).apply = s.apply := rfl
@[simp] theorem State.modStats_resync (f : Vector (BitVec 64) 16 → Vector (BitVec 64) 16) : (s.modStats f).resync = s.resync := rfl
@[simp] theorem State.modStats_fences (f : Vector (BitVec 64) 16 → Vector (BitVec 64) 16) : (s.modStats f).fences = s.fences := rfl
@[simp] theorem State.modStats_mem (f : Vector (BitVec 64) 16 → Vector (BitVec 64) 16) : (s.modStats f).mem = s.mem := rfl
@[simp] theorem State.modStats_cmd (f : Vector (BitVec 64) 16 → Vector (BitVec 64) 16) : (s.modStats f).cmd = s.cmd := rfl
@[simp] theorem State.modStats_ev (f : Vector (BitVec 64) 16 → Vector (BitVec 64) 16) : (s.modStats f).ev = s.ev := rfl
@[simp] theorem State.modStats_stats (f : Vector (BitVec 64) 16 → Vector (BitVec 64) 16) : (s.modStats f).stats = f s.stats := rfl
@[simp] theorem State.modStats_out (f : Vector (BitVec 64) 16 → Vector (BitVec 64) 16) : (s.modStats f).out = s.out := rfl
@[simp] theorem State.modStats_freeCount (f : Vector (BitVec 64) 16 → Vector (BitVec 64) 16) : (s.modStats f).freeCount = s.freeCount := rfl

@[simp] theorem State.modOut_pending (f : Outputs → Outputs) : (s.modOut f).pending = s.pending := rfl
@[simp] theorem State.modOut_resetN (f : Outputs → Outputs) : (s.modOut f).resetN = s.resetN := rfl
@[simp] theorem State.modOut_loader (f : Outputs → Outputs) : (s.modOut f).loader = s.loader := rfl
@[simp] theorem State.modOut_params (f : Outputs → Outputs) : (s.modOut f).params = s.params := rfl
@[simp] theorem State.modOut_regions (f : Outputs → Outputs) : (s.modOut f).regions = s.regions := rfl
@[simp] theorem State.modOut_session (f : Outputs → Outputs) : (s.modOut f).session = s.session := rfl
@[simp] theorem State.modOut_capture (f : Outputs → Outputs) : (s.modOut f).capture = s.capture := rfl
@[simp] theorem State.modOut_tx (f : Outputs → Outputs) : (s.modOut f).tx = s.tx := rfl
@[simp] theorem State.modOut_rx (f : Outputs → Outputs) : (s.modOut f).rx = s.rx := rfl
@[simp] theorem State.modOut_apply (f : Outputs → Outputs) : (s.modOut f).apply = s.apply := rfl
@[simp] theorem State.modOut_resync (f : Outputs → Outputs) : (s.modOut f).resync = s.resync := rfl
@[simp] theorem State.modOut_fences (f : Outputs → Outputs) : (s.modOut f).fences = s.fences := rfl
@[simp] theorem State.modOut_mem (f : Outputs → Outputs) : (s.modOut f).mem = s.mem := rfl
@[simp] theorem State.modOut_cmd (f : Outputs → Outputs) : (s.modOut f).cmd = s.cmd := rfl
@[simp] theorem State.modOut_ev (f : Outputs → Outputs) : (s.modOut f).ev = s.ev := rfl
@[simp] theorem State.modOut_stats (f : Outputs → Outputs) : (s.modOut f).stats = s.stats := rfl
@[simp] theorem State.modOut_out (f : Outputs → Outputs) : (s.modOut f).out = f s.out := rfl
@[simp] theorem State.modOut_freeCount (f : Outputs → Outputs) : (s.modOut f).freeCount = s.freeCount := rfl

@[simp] theorem State.drew_pending (n : Nat) : (s.drew n).pending = s.pending := rfl
@[simp] theorem State.drew_resetN (n : Nat) : (s.drew n).resetN = s.resetN := rfl
@[simp] theorem State.drew_loader (n : Nat) : (s.drew n).loader = s.loader := rfl
@[simp] theorem State.drew_params (n : Nat) : (s.drew n).params = s.params := rfl
@[simp] theorem State.drew_regions (n : Nat) : (s.drew n).regions = s.regions := rfl
@[simp] theorem State.drew_session (n : Nat) : (s.drew n).session = s.session := rfl
@[simp] theorem State.drew_capture (n : Nat) : (s.drew n).capture = s.capture := rfl
@[simp] theorem State.drew_tx (n : Nat) : (s.drew n).tx = s.tx := rfl
@[simp] theorem State.drew_rx (n : Nat) : (s.drew n).rx = s.rx := rfl
@[simp] theorem State.drew_apply (n : Nat) : (s.drew n).apply = s.apply := rfl
@[simp] theorem State.drew_resync (n : Nat) : (s.drew n).resync = s.resync := rfl
@[simp] theorem State.drew_fences (n : Nat) : (s.drew n).fences = s.fences := rfl
@[simp] theorem State.drew_mem (n : Nat) : (s.drew n).mem = s.mem := rfl
@[simp] theorem State.drew_cmd (n : Nat) : (s.drew n).cmd = s.cmd := rfl
@[simp] theorem State.drew_ev (n : Nat) : (s.drew n).ev = s.ev := rfl
@[simp] theorem State.drew_stats (n : Nat) : (s.drew n).stats = s.stats := rfl
@[simp] theorem State.drew_out (n : Nat) : (s.drew n).out = s.out := rfl
@[simp] theorem State.drew_freeCount (n : Nat) : (s.drew n).freeCount = s.freeCount + n := rfl

end Sys2Proof.Machine
end

