-- ==== Sys2Proof/Laws/Frames.lean ====
section
/-! SUPPORT. The frame of each shared operation over the registers, queues and lists: which parts of the state it can
change. -/

set_option linter.unusedTactic false
set_option linter.unreachableTactic false

namespace Sys2Proof.Machine

/-! ## Frames as a relation -/

/-- The parts of one list stand in another, as a computation. -/
theorem subset_of_all {ps qs : List Part} (h : qs.all ps.contains = true) : qs ⊆ ps := fun p m => by
  simpa using List.all_eq_true.mp h p m

theorem SameBut.refl (ps : List Part) (s : State) : SameBut ps s s := by constructor <;> exact fun _ => rfl

/-- A step that changes fewer parts after one that changes some. -/
theorem SameBut.then {ps qs : List Part} {s t u : State} (h : SameBut ps s t) (g : SameBut qs t u) (sub : qs.all ps.contains = true) :
    SameBut ps s u := by
  constructor
  · exact fun n => (g.pending fun m => n (subset_of_all sub m)).trans (h.pending n)
  · exact fun n => (g.resetN fun m => n (subset_of_all sub m)).trans (h.resetN n)
  · exact fun n => (g.loader fun m => n (subset_of_all sub m)).trans (h.loader n)
  · exact fun n => (g.params fun m => n (subset_of_all sub m)).trans (h.params n)
  · exact fun n => (g.regions fun m => n (subset_of_all sub m)).trans (h.regions n)
  · exact fun n => (g.session fun m => n (subset_of_all sub m)).trans (h.session n)
  · exact fun n => (g.capture fun m => n (subset_of_all sub m)).trans (h.capture n)
  · exact fun n => (g.tx fun m => n (subset_of_all sub m)).trans (h.tx n)
  · exact fun n => (g.rx fun m => n (subset_of_all sub m)).trans (h.rx n)
  · exact fun n => (g.apply fun m => n (subset_of_all sub m)).trans (h.apply n)
  · exact fun n => (g.resync fun m => n (subset_of_all sub m)).trans (h.resync n)
  · exact fun n => (g.fences fun m => n (subset_of_all sub m)).trans (h.fences n)
  · exact fun n => (g.mem fun m => n (subset_of_all sub m)).trans (h.mem n)
  · exact fun n => (g.cmd fun m => n (subset_of_all sub m)).trans (h.cmd n)
  · exact fun n => (g.ev fun m => n (subset_of_all sub m)).trans (h.ev n)
  · exact fun n => (g.stats fun m => n (subset_of_all sub m)).trans (h.stats n)
  · exact fun n => (g.out fun m => n (subset_of_all sub m)).trans (h.out n)
  · exact fun n => (g.freeCount fun m => n (subset_of_all sub m)).trans (h.freeCount n)

theorem SameBut.mono {ps qs : List Part} {s t : State} (h : SameBut qs s t) (sub : qs.all ps.contains = true) : SameBut ps s t :=
  (SameBut.refl ps s).then h sub

theorem SameBut.trans {ps : List Part} {s t u : State} (h : SameBut ps s t) (g : SameBut ps t u) : SameBut ps s u :=
  h.then g (List.all_eq_true.mpr fun _ m => by simpa using m)

theorem SameBut.foldl {α : Type} {ps : List Part} {f : State → α → State} (h : ∀ t a, SameBut ps t (f t a)) :
    ∀ (l : List α) (s : State), SameBut ps s (l.foldl f s)
  | [], s => SameBut.refl ps s
  | a :: l, s => (h s a).trans (SameBut.foldl h l (f s a))

/-! ## Updates of one block -/

theorem modLoader_frame (s : State) (f) : SameBut [.loader] s (s.modLoader f) := by
  constructor <;> intro h <;> first | rfl | exact absurd (by decide) h

theorem modParams_frame (s : State) (f) : SameBut [.params] s (s.modParams f) := by
  constructor <;> intro h <;> first | rfl | exact absurd (by decide) h

theorem modRegions_frame (s : State) (f) : SameBut [.regions] s (s.modRegions f) := by
  constructor <;> intro h <;> first | rfl | exact absurd (by decide) h

theorem modSession_frame (s : State) (f) : SameBut [.session] s (s.modSession f) := by
  constructor <;> intro h <;> first | rfl | exact absurd (by decide) h

theorem modCapture_frame (s : State) (f) : SameBut [.capture] s (s.modCapture f) := by
  constructor <;> intro h <;> first | rfl | exact absurd (by decide) h

theorem modTx_frame (s : State) (f) : SameBut [.tx] s (s.modTx f) := by
  constructor <;> intro h <;> first | rfl | exact absurd (by decide) h

theorem modRx_frame (s : State) (f) : SameBut [.rx] s (s.modRx f) := by
  constructor <;> intro h <;> first | rfl | exact absurd (by decide) h

theorem modApply_frame (s : State) (f) : SameBut [.apply] s (s.modApply f) := by
  constructor <;> intro h <;> first | rfl | exact absurd (by decide) h

theorem modResync_frame (s : State) (f) : SameBut [.resync] s (s.modResync f) := by
  constructor <;> intro h <;> first | rfl | exact absurd (by decide) h

theorem modFences_frame (s : State) (f) : SameBut [.fences] s (s.modFences f) := by
  constructor <;> intro h <;> first | rfl | exact absurd (by decide) h

theorem modMem_frame (s : State) (f) : SameBut [.mem] s (s.modMem f) := by
  constructor <;> intro h <;> first | rfl | exact absurd (by decide) h

theorem modCmd_frame (s : State) (f) : SameBut [.cmd] s (s.modCmd f) := by
  constructor <;> intro h <;> first | rfl | exact absurd (by decide) h

theorem modEv_frame (s : State) (f) : SameBut [.ev] s (s.modEv f) := by
  constructor <;> intro h <;> first | rfl | exact absurd (by decide) h

theorem modStats_frame (s : State) (f) : SameBut [.stats] s (s.modStats f) := by
  constructor <;> intro h <;> first | rfl | exact absurd (by decide) h

theorem modOut_frame (s : State) (f) : SameBut [.out] s (s.modOut f) := by
  constructor <;> intro h <;> first | rfl | exact absurd (by decide) h

theorem drew_frame (s : State) (n) : SameBut [.freeCount] s (s.drew n) := by
  constructor <;> intro h <;> first | rfl | exact absurd (by decide) h

/-! ## Statistics, events, entries, holds -/

theorem countBy_frame (s : State) (c) (n) : SameBut [.stats] s (countBy s c n) := by
  unfold countBy
  try dsimp only
  repeat' split
  all_goals repeat' first
    | with_reducible exact SameBut.refl _ _
    | ((with_reducible refine SameBut.then ?_ (modStats_frame _ _) ?sub); case sub => rfl)

theorem count_frame (s : State) (c) : SameBut [.stats] s (count s c) := by
  unfold count
  try dsimp only
  repeat' split
  all_goals repeat' first
    | with_reducible exact SameBut.refl _ _
    | ((with_reducible refine SameBut.then ?_ (countBy_frame _ _ _) ?sub); case sub => rfl)

theorem reach_frame (s : State) (t) : SameBut [.ev] s (reach s t) := by
  unfold reach
  try dsimp only
  repeat' split
  all_goals repeat' first
    | with_reducible exact SameBut.refl _ _
    | ((with_reducible refine SameBut.then ?_ (modEv_frame _ _) ?sub); case sub => rfl)

theorem emit_frame (s : State) (ev) : SameBut [.ev, .stats] s (emit s ev) := by
  unfold emit
  try dsimp only
  repeat' split
  all_goals repeat' first
    | with_reducible exact SameBut.refl _ _
    | ((with_reducible refine SameBut.then ?_ (modEv_frame _ _) ?sub); case sub => rfl)
    | ((with_reducible refine SameBut.then ?_ (count_frame _ _) ?sub); case sub => rfl)

theorem done_frame (s : State) (r tag code entry) : SameBut [.ev, .stats] s (done s r tag code entry) := by
  unfold done
  try dsimp only
  repeat' split
  all_goals repeat' first
    | with_reducible exact SameBut.refl _ _
    | ((with_reducible refine SameBut.then ?_ (emit_frame _ _) ?sub); case sub => rfl)

theorem setEntry_frame (s : State) (e en) : SameBut [.regions] s (setEntry s e en) := by
  unfold setEntry
  try dsimp only
  repeat' split
  all_goals repeat' first
    | with_reducible exact SameBut.refl _ _
    | ((with_reducible refine SameBut.then ?_ (modRegions_frame _ _) ?sub); case sub => rfl)

theorem mark_frame (s : State) (e k) : SameBut [.regions, .stats] s (mark s e k) := by
  unfold mark
  try dsimp only
  repeat' split
  all_goals repeat' first
    | with_reducible exact SameBut.refl _ _
    | ((with_reducible refine SameBut.then ?_ (setEntry_frame _ _ _) ?sub); case sub => rfl)
    | ((with_reducible refine SameBut.then ?_ (count_frame _ _) ?sub); case sub => rfl)

theorem markAddr_frame (s : State) (e a) : SameBut [.regions, .stats] s (markAddr s e a) := by
  unfold markAddr
  try dsimp only
  repeat' split
  all_goals repeat' first
    | with_reducible exact SameBut.refl _ _
    | ((with_reducible refine SameBut.then ?_ (mark_frame _ _ _) ?sub); case sub => rfl)

theorem markAll_frame (s : State) (e) : SameBut [.regions, .stats] s (markAll s e) := by
  unfold markAll
  try dsimp only
  repeat' split
  all_goals repeat' first
    | with_reducible exact SameBut.refl _ _
    | ((with_reducible refine SameBut.then ?_ (setEntry_frame _ _ _) ?sub); case sub => rfl)
    | ((with_reducible refine SameBut.then ?_ (countBy_frame _ _ _) ?sub); case sub => rfl)

theorem endHold_frame (s : State) : SameBut [.mem] s (endHold s) := by
  unfold endHold
  try dsimp only
  repeat' split
  all_goals repeat' first
    | with_reducible exact SameBut.refl _ _
    | ((with_reducible refine SameBut.then ?_ (modMem_frame _ _) ?sub); case sub => rfl)

theorem endHoldOf_frame (s : State) (r) : SameBut [.mem] s (endHoldOf s r) := by
  unfold endHoldOf
  try dsimp only
  repeat' split
  all_goals repeat' first
    | with_reducible exact SameBut.refl _ _
    | ((with_reducible refine SameBut.then ?_ (endHold_frame _) ?sub); case sub => rfl)

theorem leftMirrored_frame (s : State) (e) : SameBut [.mem] s (leftMirrored s e) := by
  unfold leftMirrored
  try dsimp only
  repeat' split
  all_goals repeat' first
    | with_reducible exact SameBut.refl _ _
    | ((with_reducible refine SameBut.then ?_ (endHold_frame _) ?sub); case sub => rfl)

theorem slotFreed_frame (s : State) (q) : SameBut [.mem] s (slotFreed s q) := by
  unfold slotFreed
  try dsimp only
  repeat' split
  all_goals repeat' first
    | with_reducible exact SameBut.refl _ _
    | ((with_reducible refine SameBut.then ?_ (endHoldOf_frame _ _) ?sub); case sub => rfl)

theorem appendRecord_frame (s : State) (q b) : SameBut [.capture] s (appendRecord s q b) := by
  unfold appendRecord
  try dsimp only
  repeat' split
  all_goals repeat' first
    | with_reducible exact SameBut.refl _ _
    | ((with_reducible refine SameBut.then ?_ (modCapture_frame _ _) ?sub); case sub => rfl)

theorem freeBuffer_frame (s : State) (b) : SameBut [.resync] s (freeBuffer s b) := by
  unfold freeBuffer
  try dsimp only
  repeat' split
  all_goals repeat' first
    | with_reducible exact SameBut.refl _ _
    | ((with_reducible refine SameBut.then ?_ (modResync_frame _ _) ?sub); case sub => rfl)

theorem freeRecordBuffer_frame (s : State) (r) : SameBut [.resync] s (freeRecordBuffer s r) := by
  unfold freeRecordBuffer
  try dsimp only
  repeat' split
  all_goals repeat' first
    | with_reducible exact SameBut.refl _ _
    | ((with_reducible refine SameBut.then ?_ (freeBuffer_frame _ _) ?sub); case sub => rfl)

/-! ## Fences and claims -/

theorem completeFences_frame (s : State) (p o c r) : SameBut [.fences, .ev, .stats] s (completeFences s p o c r) :=
  ((modFences_frame s _).mono rfl).trans (.foldl (fun t _ => (emit_frame t _).mono rfl) _ _)

theorem failFences_frame (s : State) (e cause) : SameBut [.fences, .ev, .stats] s (failFences s e cause) := by
  unfold failFences
  try dsimp only
  repeat' split
  all_goals repeat' first
    | with_reducible exact SameBut.refl _ _
    | ((with_reducible refine SameBut.then ?_ (completeFences_frame _ _ _ _ _) ?sub); case sub => rfl)

theorem fenceTest_frame (s : State) : SameBut [.fences, .ev, .stats] s (fenceTest s) := by
  unfold fenceTest
  try dsimp only
  repeat' split
  all_goals repeat' first
    | with_reducible exact SameBut.refl _ _
    | ((with_reducible refine SameBut.then ?_ (completeFences_frame _ _ _ _ _) ?sub); case sub => rfl)

theorem leaveScopes_frame (s : State) (e) : SameBut [.fences] s (leaveScopes s e) := by
  unfold leaveScopes
  try dsimp only
  repeat' split
  all_goals repeat' first
    | with_reducible exact SameBut.refl _ _
    | ((with_reducible refine SameBut.then ?_ (modFences_frame _ _) ?sub); case sub => rfl)

theorem switchEnded_frame (s : State) (e cap) : SameBut [.fences, .ev, .stats] s (switchEnded s e cap) := by
  unfold switchEnded
  try dsimp only
  repeat' split
  all_goals repeat' first
    | with_reducible exact SameBut.refl _ _
    | ((with_reducible refine SameBut.then ?_ (fenceTest_frame _) ?sub); case sub => rfl)
    | ((with_reducible refine SameBut.then ?_ (modFences_frame _ _) ?sub); case sub => rfl)

theorem switchAbandoned_frame (s : State) (e) : SameBut [.fences, .ev, .stats] s (switchAbandoned s e) := by
  unfold switchAbandoned
  try dsimp only
  repeat' split
  all_goals repeat' first
    | with_reducible exact SameBut.refl _ _
    | ((with_reducible refine SameBut.then ?_ (failFences_frame _ _ _) ?sub); case sub => rfl)

theorem claimLagging_frame (s : State) (e cause f) :
    SameBut [.regions, .fences, .mem, .ev, .stats] s (claimLagging s e cause f) := by
  unfold claimLagging
  try dsimp only
  repeat' split
  all_goals repeat' first
    | with_reducible exact SameBut.refl _ _
    | ((with_reducible refine SameBut.then ?_ (leftMirrored_frame _ _) ?sub); case sub => rfl)
    | ((with_reducible refine SameBut.then ?_ (failFences_frame _ _ _) ?sub); case sub => rfl)
    | ((with_reducible refine SameBut.then ?_ (emit_frame _ _) ?sub); case sub => rfl)
    | ((with_reducible refine SameBut.then ?_ (setEntry_frame _ _ _) ?sub); case sub => rfl)

theorem sweep_frame (s : State) : SameBut [.regions, .fences, .mem, .ev, .stats] s (sweep s) :=
  .foldl (fun t e => claimLagging_frame t e _ _) _ _

/-! ## Control frames -/

theorem generate_frame (s : State) (b) : SameBut [.tx] s (generate s b) := by
  unfold generate
  try dsimp only
  repeat' split
  all_goals repeat' first
    | with_reducible exact SameBut.refl _ _
    | ((with_reducible refine SameBut.then ?_ (modTx_frame _ _) ?sub); case sub => rfl)

theorem generateAck_frame (s : State) : SameBut [.tx, .rx] s (generateAck s) := by
  unfold generateAck
  try dsimp only
  repeat' split
  all_goals repeat' first
    | with_reducible exact SameBut.refl _ _
    | ((with_reducible refine SameBut.then ?_ (modRx_frame _ _) ?sub); case sub => rfl)
    | ((with_reducible refine SameBut.then ?_ (generate_frame _ _) ?sub); case sub => rfl)

theorem startJoinTimer_frame (s : State) : SameBut [.session] s (startJoinTimer s) := by
  unfold startJoinTimer
  try dsimp only
  repeat' split
  all_goals repeat' first
    | with_reducible exact SameBut.refl _ _
    | ((with_reducible refine SameBut.then ?_ (modSession_frame _ _) ?sub); case sub => rfl)

theorem sendJoin_frame (s : State) : SameBut [.session, .tx] s (sendJoin s) := by
  unfold sendJoin
  try dsimp only
  repeat' split
  all_goals repeat' first
    | with_reducible exact SameBut.refl _ _
    | ((with_reducible refine SameBut.then ?_ (startJoinTimer_frame _) ?sub); case sub => rfl)
    | ((with_reducible refine SameBut.then ?_ (generate_frame _ _) ?sub); case sub => rfl)

theorem sendAnswer_frame (s : State) : SameBut [.tx] s (sendAnswer s) := by
  unfold sendAnswer
  try dsimp only
  repeat' split
  all_goals repeat' first
    | with_reducible exact SameBut.refl _ _
    | ((with_reducible refine SameBut.then ?_ (generate_frame _ _) ?sub); case sub => rfl)

theorem claimLoss_frame (s : State) (c) : SameBut [.tx] s (claimLoss s c) := by
  unfold claimLoss
  try dsimp only
  repeat' split
  all_goals repeat' first
    | with_reducible exact SameBut.refl _ _
    | ((with_reducible refine SameBut.then ?_ (modTx_frame _ _) ?sub); case sub => rfl)

/-! ## Freeing entries -/

theorem completeClose_frame (s : State) (e) : SameBut [.cmd, .ev, .stats] s (completeClose s e) := by
  unfold completeClose
  try dsimp only
  repeat' split
  all_goals repeat' first
    | with_reducible exact SameBut.refl _ _
    | ((with_reducible refine SameBut.then ?_ (done_frame _ _ _ _ _) ?sub); case sub => rfl)
    | ((with_reducible refine SameBut.then ?_ (modCmd_frame _ _) ?sub); case sub => rfl)

theorem freeSource_frame (s : State) (e) : SameBut [.regions, .fences, .ev, .stats] s (freeSource s e) := by
  unfold freeSource
  try dsimp only
  repeat' split
  all_goals repeat' first
    | with_reducible exact SameBut.refl _ _
    | ((with_reducible refine SameBut.then ?_ (leaveScopes_frame _ _) ?sub); case sub => rfl)
    | ((with_reducible refine SameBut.then ?_ (emit_frame _ _) ?sub); case sub => rfl)
    | ((with_reducible refine SameBut.then ?_ (setEntry_frame _ _ _) ?sub); case sub => rfl)

theorem drainEntry_frame (s : State) (e) : SameBut [.regions, .fences, .cmd, .ev, .stats] s (drainEntry s e) := by
  unfold drainEntry
  try dsimp only
  repeat' split
  all_goals repeat' first
    | with_reducible exact SameBut.refl _ _
    | ((with_reducible refine SameBut.then ?_ (completeClose_frame _ _) ?sub); case sub => rfl)
    | ((with_reducible refine SameBut.then ?_ (freeSource_frame _ _) ?sub); case sub => rfl)

theorem resetReport_frame (s : State) (e) : SameBut [.apply] s (resetReport s e) := by
  unfold resetReport
  try dsimp only
  repeat' split
  all_goals repeat' first
    | with_reducible exact SameBut.refl _ _
    | ((with_reducible refine SameBut.then ?_ (modApply_frame _ _) ?sub); case sub => rfl)

theorem releaseEntry_frame (s : State) (e) : SameBut [.regions, .apply, .cmd, .ev, .stats] s (releaseEntry s e) := by
  unfold releaseEntry
  try dsimp only
  repeat' split
  all_goals repeat' first
    | with_reducible exact SameBut.refl _ _
    | ((with_reducible refine SameBut.then ?_ (completeClose_frame _ _) ?sub); case sub => rfl)
    | ((with_reducible refine SameBut.then ?_ (emit_frame _ _) ?sub); case sub => rfl)
    | ((with_reducible refine SameBut.then ?_ (resetReport_frame _ _) ?sub); case sub => rfl)
    | ((with_reducible refine SameBut.then ?_ (setEntry_frame _ _ _) ?sub); case sub => rfl)

theorem finishRestart_frame (s : State) : SameBut [.cmd, .ev, .stats] s (finishRestart s) := by
  unfold finishRestart
  try dsimp only
  repeat' split
  all_goals repeat' first
    | with_reducible exact SameBut.refl _ _
    | ((with_reducible refine SameBut.then ?_ (emit_frame _ _) ?sub); case sub => rfl)
    | ((with_reducible refine SameBut.then ?_ (modCmd_frame _ _) ?sub); case sub => rfl)

theorem injectedAnswered_frame (s : State) : SameBut [.cmd, .ev, .stats] s (injectedAnswered s) := by
  unfold injectedAnswered
  try dsimp only
  repeat' split
  all_goals repeat' first
    | with_reducible exact SameBut.refl _ _
    | ((with_reducible refine SameBut.then ?_ (finishRestart_frame _) ?sub); case sub => rfl)
    | ((with_reducible refine SameBut.then ?_ (modCmd_frame _ _) ?sub); case sub => rfl)

end Sys2Proof.Machine
end

