-- ==== Sys2Proof/Laws/Events.lean ====
section
/-! SUPPORT. What producing an event does to the ring and the event list (R159), and what the ATTN test leaves alone
(R163). -/

namespace Sys2Proof.Machine

/-! ## The ATTN test changes the line and its timer only -/

theorem attnTest_eq (p : Params) (n : Nat) (e : EventWriter) :
    attnTest p n e = { e with attn := (attnTest p n e).attn, attnTimer := (attnTest p n e).attnTimer } := by
  unfold attnTest
  repeat' split
  all_goals rfl

section attn
variable (p : Params) (n : Nat) (e : EventWriter)
@[simp] theorem attnTest_ringBase : (attnTest p n e).ringBase = e.ringBase := by rw [attnTest_eq]
@[simp] theorem attnTest_count : (attnTest p n e).count = e.count := by rw [attnTest_eq]
@[simp] theorem attnTest_produce : (attnTest p n e).produce = e.produce := by rw [attnTest_eq]
@[simp] theorem attnTest_release : (attnTest p n e).release = e.release := by rw [attnTest_eq]
@[simp] theorem attnTest_write : (attnTest p n e).write = e.write := by rw [attnTest_eq]
@[simp] theorem attnTest_unwritten : (attnTest p n e).unwritten = e.unwritten := by rw [attnTest_eq]
@[simp] theorem attnTest_lost : (attnTest p n e).lost = e.lost := by rw [attnTest_eq]
@[simp] theorem attnTest_list : (attnTest p n e).list = e.list := by rw [attnTest_eq]
@[simp] theorem attnTest_timeBase : (attnTest p n e).timeBase = e.timeBase := by rw [attnTest_eq]
@[simp] theorem attnTest_entriesNext : (attnTest p n e).entriesNext = e.entriesNext := by rw [attnTest_eq]
@[simp] theorem attnTest_writeOutLines : (attnTest p n e).writeOutLines = e.writeOutLines := by rw [attnTest_eq]
@[simp] theorem unreleased_attnTest : unreleased (attnTest p n e) = unreleased e := by simp [unreleased]
@[simp] theorem visible_attnTest : visible (attnTest p n e) = visible e := by simp [visible, unreleased]
end attn

/-- With nothing unreleased the line is low. -/
theorem attnTest_low (p : Params) (n : Nat) (e : EventWriter) (h : unreleased e = 0) : (attnTest p n e).attn = false := by
  simp [attnTest, h]

/-- At the threshold the line is high. -/
theorem attnTest_high (p : Params) (n : Nat) (e : EventWriter) (h : unreleased e ≠ 0)
    (g : p.attnThreshold.toNat ≤ visible e) : (attnTest p n e).attn = true := by
  simp only [attnTest, if_neg h, if_pos g]
  split
  · assumption
  · rfl

/-! ## Producing an event -/

theorem emit_of_room (s : State) (ev : Event) (h : unreleased s.ev < s.ev.count) :
    emit s ev = s.modEv (produceEntry s.params ev) := if_pos h

theorem emit_of_full (s : State) (ev : Event) (h : ¬unreleased s.ev < s.ev.count) :
    emit s ev = count (s.modEv loseEvent) .eventsLost := if_neg h

/-- Where the ring has room for an event, it joins the event list behind the others. -/
theorem eventsOf_emit (s : State) (ev : Event) (h : ringRoom s 1) : eventsOf (emit s ev) = eventsOf s ++ [ev] := by
  rw [emit_of_room s ev h]
  simp [eventsOf, produceEntry, newItem]

@[simp] theorem emit_count (s : State) (ev : Event) : (emit s ev).ev.count = s.ev.count := by
  unfold emit
  split <;> simp [produceEntry, loseEvent, count, countBy]

@[simp] theorem emit_timeBase (s : State) (ev : Event) : (emit s ev).ev.timeBase = s.ev.timeBase := by
  unfold emit
  split <;> simp [produceEntry, loseEvent, count, countBy]

@[simp] theorem emit_release (s : State) (ev : Event) : (emit s ev).ev.release = s.ev.release := by
  unfold emit
  split <;> simp [produceEntry, loseEvent, count, countBy]

@[simp] theorem emit_write (s : State) (ev : Event) : (emit s ev).ev.write = s.ev.write := by
  unfold emit
  split <;> simp [produceEntry, loseEvent, count, countBy]

@[simp] theorem emit_ringBase (s : State) (ev : Event) : (emit s ev).ev.ringBase = s.ev.ringBase := by
  unfold emit
  split <;> simp [produceEntry, loseEvent, count, countBy]

@[simp] theorem emit_writeOutLines (s : State) (ev : Event) : (emit s ev).ev.writeOutLines = s.ev.writeOutLines := by
  unfold emit
  split <;> simp [produceEntry, loseEvent, count, countBy]

@[simp] theorem emit_entriesNext (s : State) (ev : Event) : (emit s ev).ev.entriesNext = s.ev.entriesNext := by
  unfold emit
  split <;> simp [produceEntry, loseEvent, count, countBy]

/-- An index that moves by one raises the number unreleased by at most one. -/
theorem unreleased_next_le (n p r : Nat) (h : 0 < n) :
    ((p + 1) % (2 * n) + 2 * n - r) % (2 * n) ≤ (p + 2 * n - r) % (2 * n) + 1 := by
  by_cases hr : r ≤ (p + 1) % (2 * n) + 2 * n
  · have e : ((p + 1) % (2 * n) + 2 * n - r) % (2 * n) = (p + 1 + 2 * n - r) % (2 * n) := by
      have hd := Nat.mod_add_div (p + 1) (2 * n)
      have : p + 1 + 2 * n - r = ((p + 1) % (2 * n) + 2 * n - r) + 2 * n * ((p + 1) / (2 * n)) := by omega
      rw [this, Nat.add_mul_mod_self_left]
    rw [e]
    by_cases hp : r ≤ p + 2 * n
    · have : p + 1 + 2 * n - r = (p + 2 * n - r) + 1 := by omega
      rw [this, Nat.add_mod]
      have h1 : 1 % (2 * n) = 1 := Nat.mod_eq_of_lt (by omega)
      rw [h1]
      exact Nat.mod_le _ _
    · have : p + 1 + 2 * n - r = 0 := by omega
      simp [this]
  · have : (p + 1) % (2 * n) + 2 * n - r = 0 := by omega
    simp [this]

/-- After an event, the ring has room for one event less. -/
theorem ringRoom_emit (s : State) (ev : Event) (n : Nat) (h : ringRoom s (n + 1)) : ringRoom (emit s ev) n := by
  unfold ringRoom at h ⊢
  have hr : unreleased s.ev < s.ev.count := by omega
  rw [emit_of_room s ev hr]
  have := unreleased_next_le s.ev.count s.ev.produce s.ev.release (by omega)
  simp only [State.modEv_ev, produceEntry, unreleased_attnTest, attnTest_count]
  simp only [unreleased, nextIndex] at h this ⊢
  omega

theorem ringRoom_mono {s : State} {m n : Nat} (h : ringRoom s n) (g : m ≤ n) : ringRoom s m := by
  unfold ringRoom at h ⊢
  omega

/-- Producing an event keeps the ring in range. -/
theorem emit_ringInRange (s : State) (ev : Event) (h : RingInRange s.ev) : RingInRange (emit s ev).ev := by
  obtain ⟨h0, h1, h2, h3, h4⟩ := h
  by_cases hr : unreleased s.ev < s.ev.count
  · rw [emit_of_room s ev hr]
    have := unreleased_next_le s.ev.count s.ev.produce s.ev.release h0
    refine ⟨?_, ?_, ?_, ?_, ?_⟩ <;>
      simp only [State.modEv_ev, produceEntry, unreleased_attnTest, attnTest_count, attnTest_produce, attnTest_release,
        attnTest_write, nextIndex]
    · exact h0
    · exact Nat.mod_lt _ (by omega)
    · exact h2
    · exact h3
    · simp only [unreleased] at hr this ⊢
      omega
  · rw [emit_of_full s ev hr]
    simp only [count, countBy, State.modStats_ev, State.modEv_ev]
    exact ⟨h0, h1, h2, h3, h4⟩

end Sys2Proof.Machine
end

