-- ==== Sys2Proof/Laws/FramesUnits.lean ====
section
/-! SUPPORT. The frame of each operation of the Resync Engine, the Apply Engine, the sessions and the Memory Path. -/

set_option linter.unusedTactic false
set_option linter.unreachableTactic false

namespace Sys2Proof.Machine

/-! ## The Resync Engine -/

theorem tryStart_frame (s : State) : SameBut [.resync] s (tryStart s) := by
  unfold tryStart
  try dsimp only
  repeat' split
  all_goals repeat' first
    | with_reducible exact SameBut.refl _ _
    | ((with_reducible refine SameBut.then ?_ (modResync_frame _ _) ?sub); case sub => rfl)

theorem convergenceMark_frame (s : State) (e) : SameBut [.regions, .stats] s (convergenceMark s e) := by
  unfold convergenceMark
  try dsimp only
  repeat' split
  all_goals repeat' first
    | with_reducible exact SameBut.refl _ _
    | ((with_reducible refine SameBut.then ?_ (mark_frame _ _ _) ?sub); case sub => rfl)

theorem clearTaken_frame (s : State) (e k) : SameBut [.regions, .ev, .stats] s (clearTaken s e k) := by
  unfold clearTaken
  try dsimp only
  repeat' split
  all_goals repeat' first
    | with_reducible exact SameBut.refl _ _
    | ((with_reducible refine SameBut.then ?_ (emit_frame _ _) ?sub); case sub => rfl)
    | ((with_reducible refine SameBut.then ?_ (setEntry_frame _ _ _) ?sub); case sub => rfl)

theorem beginSegment_frame (s : State) (e k) : SameBut [.resync] s (beginSegment s e k) := by
  unfold beginSegment
  try dsimp only
  repeat' split
  all_goals repeat' first
    | with_reducible exact SameBut.refl _ _
    | ((with_reducible refine SameBut.then ?_ (modResync_frame _ _) ?sub); case sub => rfl)

theorem resyncTurnOf_frame (s : State) : SameBut [.regions, .resync, .ev, .stats] s (resyncTurnOf s) := by
  unfold resyncTurnOf
  try dsimp only
  repeat' split
  all_goals repeat' first
    | with_reducible exact SameBut.refl _ _
    | ((with_reducible refine SameBut.then ?_ (tryStart_frame _) ?sub); case sub => rfl)
    | ((with_reducible refine SameBut.then ?_ (beginSegment_frame _ _ _) ?sub); case sub => rfl)
    | ((with_reducible refine SameBut.then ?_ (clearTaken_frame _ _ _) ?sub); case sub => rfl)
    | ((with_reducible refine SameBut.then ?_ (convergenceMark_frame _ _) ?sub); case sub => rfl)

theorem releaseBlock_frame (s : State) : SameBut [.resync, .mem] s (releaseBlock s) := by
  unfold releaseBlock
  try dsimp only
  repeat' split
  all_goals repeat' first
    | with_reducible exact SameBut.refl _ _
    | ((with_reducible refine SameBut.then ?_ (slotFreed_frame _ _) ?sub); case sub => rfl)
    | ((with_reducible refine SameBut.then ?_ (endHoldOf_frame _ _) ?sub); case sub => rfl)
    | ((with_reducible refine SameBut.then ?_ (freeBuffer_frame _ _) ?sub); case sub => rfl)
    | ((with_reducible refine SameBut.then ?_ (modResync_frame _ _) ?sub); case sub => rfl)

theorem dropSegment_frame (s : State) (sg) : SameBut [.resync, .fences, .ev, .stats] s (dropSegment s sg) := by
  unfold dropSegment
  try dsimp only
  repeat' split
  all_goals repeat' first
    | with_reducible exact SameBut.refl _ _
    | ((with_reducible refine SameBut.then ?_ (switchAbandoned_frame _ _) ?sub); case sub => rfl)
    | ((with_reducible refine SameBut.then ?_ (modResync_frame _ _) ?sub); case sub => rfl)

theorem abandonSegment_frame (s : State) (m) :
    SameBut [.regions, .resync, .fences, .mem, .ev, .stats] s (abandonSegment s m) := by
  unfold abandonSegment
  try dsimp only
  repeat' split
  all_goals repeat' first
    | with_reducible exact SameBut.refl _ _
    | ((with_reducible refine SameBut.then ?_ (dropSegment_frame _ _) ?sub); case sub => rfl)
    | ((with_reducible refine SameBut.then ?_ (mark_frame _ _ _) ?sub); case sub => rfl)
    | ((with_reducible refine SameBut.then ?_ (releaseBlock_frame _) ?sub); case sub => rfl)

theorem releaseDiscarding_frame (s : State) : SameBut [.resync, .mem] s (releaseDiscarding s) := by
  unfold releaseDiscarding
  try dsimp only
  repeat' split
  all_goals repeat' first
    | with_reducible exact SameBut.refl _ _
    | ((with_reducible refine SameBut.then ?_ (releaseBlock_frame _) ?sub); case sub => rfl)

theorem resyncLeavesUp_frame (s : State) :
    SameBut [.regions, .resync, .fences, .mem, .ev, .stats] s (resyncLeavesUp s) := by
  unfold resyncLeavesUp
  try dsimp only
  repeat' split
  all_goals repeat' first
    | with_reducible exact SameBut.refl _ _
    | ((with_reducible refine SameBut.then ?_ (releaseDiscarding_frame _) ?sub); case sub => rfl)
    | ((with_reducible refine SameBut.then ?_ (abandonSegment_frame _ _) ?sub); case sub => rfl)

theorem endDiscarding_frame (s : State) : SameBut [.resync, .mem] s (endDiscarding s) := by
  unfold endDiscarding
  try dsimp only
  repeat' split
  all_goals repeat' first
    | with_reducible exact SameBut.refl _ _
    | ((with_reducible refine SameBut.then ?_ (releaseBlock_frame _) ?sub); case sub => rfl)

theorem closeSegment_frame (s : State) (e) : SameBut [.resync, .fences, .mem, .ev, .stats] s (closeSegment s e) := by
  unfold closeSegment
  try dsimp only
  repeat' split
  all_goals repeat' first
    | with_reducible exact SameBut.refl _ _
    | ((with_reducible refine SameBut.then ?_ (endDiscarding_frame _) ?sub); case sub => rfl)
    | ((with_reducible refine SameBut.then ?_ (dropSegment_frame _ _) ?sub); case sub => rfl)
    | ((with_reducible refine SameBut.then ?_ (endHoldOf_frame _ _) ?sub); case sub => rfl)
    | ((with_reducible refine SameBut.then ?_ (modResync_frame _ _) ?sub); case sub => rfl)

theorem endSegment_frame (s : State) (sg cap) :
    SameBut [.regions, .resync, .fences, .ev, .stats] s (endSegment s sg cap) := by
  unfold endSegment
  try dsimp only
  repeat' split
  all_goals repeat' first
    | with_reducible exact SameBut.refl _ _
    | ((with_reducible refine SameBut.then ?_ (resyncTurnOf_frame _) ?sub); case sub => rfl)
    | ((with_reducible refine SameBut.then ?_ (switchEnded_frame _ _ _) ?sub); case sub => rfl)
    | ((with_reducible refine SameBut.then ?_ (modResync_frame _ _) ?sub); case sub => rfl)
    | ((with_reducible refine SameBut.then ?_ (setEntry_frame _ _ _) ?sub); case sub => rfl)

theorem finishBlock_frame (s : State) (sg b q) :
    SameBut [.capture, .regions, .resync, .fences, .mem, .ev, .stats] s (finishBlock s sg b q) := by
  unfold finishBlock
  try dsimp only
  repeat' split
  all_goals repeat' first
    | with_reducible exact SameBut.refl _ _
    | ((with_reducible refine SameBut.then ?_ (tryStart_frame _) ?sub); case sub => rfl)
    | ((with_reducible refine SameBut.then ?_ (endSegment_frame _ _ _) ?sub); case sub => rfl)
    | ((with_reducible refine SameBut.then ?_ (endHoldOf_frame _ _) ?sub); case sub => rfl)
    | ((with_reducible refine SameBut.then ?_ (modResync_frame _ _) ?sub); case sub => rfl)
    | ((with_reducible refine SameBut.then ?_ (appendRecord_frame _ _ _) ?sub); case sub => rfl)

theorem goodRead_frame (s : State) (d) :
    SameBut [.capture, .regions, .resync, .fences, .mem, .ev, .stats] s (goodRead s d) := by
  unfold goodRead
  try dsimp only
  repeat' split
  all_goals repeat' first
    | with_reducible exact SameBut.refl _ _
    | ((with_reducible refine SameBut.then ?_ (finishBlock_frame _ _ _ _) ?sub); case sub => rfl)
    | ((with_reducible refine SameBut.then ?_ (modResync_frame _ _) ?sub); case sub => rfl)

theorem reportReadError_frame (s : State) (sg l) : SameBut [.regions, .ev, .stats] s (reportReadError s sg l) := by
  unfold reportReadError
  try dsimp only
  repeat' split
  all_goals repeat' first
    | with_reducible exact SameBut.refl _ _
    | ((with_reducible refine SameBut.then ?_ (emit_frame _ _) ?sub); case sub => rfl)
    | ((with_reducible refine SameBut.then ?_ (setEntry_frame _ _ _) ?sub); case sub => rfl)

theorem badRead_frame (s : State) : SameBut [.regions, .resync, .fences, .mem, .ev, .stats] s (badRead s) := by
  unfold badRead
  try dsimp only
  repeat' split
  all_goals repeat' first
    | with_reducible exact SameBut.refl _ _
    | ((with_reducible refine SameBut.then ?_ (resyncTurnOf_frame _) ?sub); case sub => rfl)
    | ((with_reducible refine SameBut.then ?_ (dropSegment_frame _ _) ?sub); case sub => rfl)
    | ((with_reducible refine SameBut.then ?_ (reportReadError_frame _ _ _) ?sub); case sub => rfl)
    | ((with_reducible refine SameBut.then ?_ (mark_frame _ _ _) ?sub); case sub => rfl)
    | ((with_reducible refine SameBut.then ?_ (releaseBlock_frame _) ?sub); case sub => rfl)
    | ((with_reducible refine SameBut.then ?_ (modResync_frame _ _) ?sub); case sub => rfl)

theorem resyncResponse_frame (s : State) (st d) :
    SameBut [.capture, .regions, .resync, .fences, .mem, .ev, .stats] s (resyncResponse s st d) := by
  unfold resyncResponse
  try dsimp only
  repeat' split
  all_goals repeat' first
    | with_reducible exact SameBut.refl _ _
    | ((with_reducible refine SameBut.then ?_ (goodRead_frame _ _) ?sub); case sub => rfl)
    | ((with_reducible refine SameBut.then ?_ (badRead_frame _) ?sub); case sub => rfl)
    | ((with_reducible refine SameBut.then ?_ (resyncTurnOf_frame _) ?sub); case sub => rfl)
    | ((with_reducible refine SameBut.then ?_ (endDiscarding_frame _) ?sub); case sub => rfl)
    | ((with_reducible refine SameBut.then ?_ (modResync_frame _ _) ?sub); case sub => rfl)

theorem removeQueued_frame (s : State) (e) : SameBut [.capture, .resync, .mem] s (removeQueued s e) := by
  have h : SameBut [.capture, .resync, .mem] s
      (((s.capture.sync ++ s.capture.async).filter fun r : Record => r.region == some e).foldl freeRecordBuffer
        (s.modCapture fun c =>
          { c with sync := c.sync.filter fun r => !(r.region == some e),
                   async := c.async.filter fun r => !(r.region == some e) })) :=
    ((modCapture_frame s _).mono rfl).trans
      (.foldl (fun t r => (freeRecordBuffer_frame t r).mono rfl) _ _)
  unfold removeQueued
  dsimp only
  split
  · exact h.then (slotFreed_frame _ _) rfl
  · exact h

theorem abandonOf_frame (s : State) (e) :
    SameBut [.regions, .resync, .fences, .mem, .ev, .stats] s (abandonOf s e) := by
  unfold abandonOf
  try dsimp only
  repeat' split
  all_goals repeat' first
    | with_reducible exact SameBut.refl _ _
    | ((with_reducible refine SameBut.then ?_ (abandonSegment_frame _ _) ?sub); case sub => rfl)

theorem claimRefused_frame (s : State) (e) :
    SameBut [.capture, .regions, .resync, .fences, .mem, .ev, .stats] s (claimRefused s e) := by
  unfold claimRefused
  try dsimp only
  repeat' split
  all_goals repeat' first
    | with_reducible exact SameBut.refl _ _
    | ((with_reducible refine SameBut.then ?_ (fenceTest_frame _) ?sub); case sub => rfl)
    | ((with_reducible refine SameBut.then ?_ (leftMirrored_frame _ _) ?sub); case sub => rfl)
    | ((with_reducible refine SameBut.then ?_ (abandonOf_frame _ _) ?sub); case sub => rfl)
    | ((with_reducible refine SameBut.then ?_ (removeQueued_frame _ _) ?sub); case sub => rfl)
    | ((with_reducible refine SameBut.then ?_ (markAll_frame _ _) ?sub); case sub => rfl)
    | ((with_reducible refine SameBut.then ?_ (failFences_frame _ _ _) ?sub); case sub => rfl)
    | ((with_reducible refine SameBut.then ?_ (emit_frame _ _) ?sub); case sub => rfl)
    | ((with_reducible refine SameBut.then ?_ (setEntry_frame _ _ _) ?sub); case sub => rfl)

/-! ## The Apply Engine -/

theorem setApplyWait_frame (s : State) (n) : SameBut [.mem] s (setApplyWait s n) := by
  unfold setApplyWait
  try dsimp only
  repeat' split
  all_goals repeat' first
    | with_reducible exact SameBut.refl _ _
    | ((with_reducible refine SameBut.then ?_ (modMem_frame _ _) ?sub); case sub => rfl)
    | ((with_reducible refine SameBut.then ?_ (endHold_frame _) ?sub); case sub => rfl)

theorem ackCompletion_frame (s : State) (q) : SameBut [.tx, .rx] s (ackCompletion s q) := by
  unfold ackCompletion
  try dsimp only
  repeat' split
  all_goals repeat' first
    | with_reducible exact SameBut.refl _ _
    | ((with_reducible refine SameBut.then ?_ (generateAck_frame _) ?sub); case sub => rfl)
    | ((with_reducible refine SameBut.then ?_ (modRx_frame _ _) ?sub); case sub => rfl)

theorem deferredCheck_frame (s : State) : SameBut [.tx, .rx] s (deferredCheck s) := by
  unfold deferredCheck
  try dsimp only
  repeat' split
  all_goals repeat' first
    | with_reducible exact SameBut.refl _ _
    | ((with_reducible refine SameBut.then ?_ (modRx_frame _ _) ?sub); case sub => rfl)
    | ((with_reducible refine SameBut.then ?_ (generate_frame _ _) ?sub); case sub => rfl)

theorem receiverStep_frame (s : State) (q) : SameBut [.tx, .rx] s (receiverStep s q) := by
  unfold receiverStep
  try dsimp only
  repeat' split
  all_goals repeat' first
    | with_reducible exact SameBut.refl _ _
    | ((with_reducible refine SameBut.then ?_ (deferredCheck_frame _) ?sub); case sub => rfl)
    | ((with_reducible refine SameBut.then ?_ (modRx_frame _ _) ?sub); case sub => rfl)
    | ((with_reducible refine SameBut.then ?_ (ackCompletion_frame _ _) ?sub); case sub => rfl)

theorem releaseTarget_frame (s : State) (en) :
    SameBut [.regions, .apply, .cmd, .ev, .stats] s (releaseTarget s en) := by
  unfold releaseTarget
  try dsimp only
  repeat' split
  all_goals repeat' first
    | with_reducible exact SameBut.refl _ _
    | ((with_reducible refine SameBut.then ?_ (releaseEntry_frame _ _) ?sub); case sub => rfl)

theorem noteStep_frame (s : State) (en) : SameBut [.ev, .stats] s (noteStep s en) := by
  unfold noteStep
  try dsimp only
  repeat' split
  all_goals repeat' first
    | with_reducible exact SameBut.refl _ _
    | ((with_reducible refine SameBut.then ?_ (emit_frame _ _) ?sub); case sub => rfl)

theorem appliedStep_frame (s : State) (en) : SameBut [.apply, .stats] s (appliedStep s en) := by
  unfold appliedStep
  try dsimp only
  repeat' split
  all_goals repeat' first
    | with_reducible exact SameBut.refl _ _
    | ((with_reducible refine SameBut.then ?_ (modApply_frame _ _) ?sub); case sub => rfl)
    | ((with_reducible refine SameBut.then ?_ (count_frame _ _) ?sub); case sub => rfl)

theorem completeRecord_frame (s : State) (en) :
    SameBut [.tx, .rx, .regions, .apply, .cmd, .ev, .stats] s (completeRecord s en) := by
  unfold completeRecord
  try dsimp only
  repeat' split
  all_goals repeat' first
    | with_reducible exact SameBut.refl _ _
    | ((with_reducible refine SameBut.then ?_ (releaseTarget_frame _ _) ?sub); case sub => rfl)
    | ((with_reducible refine SameBut.then ?_ (receiverStep_frame _ _) ?sub); case sub => rfl)
    | ((with_reducible refine SameBut.then ?_ (appliedStep_frame _ _) ?sub); case sub => rfl)
    | ((with_reducible refine SameBut.then ?_ (noteStep_frame _ _) ?sub); case sub => rfl)

theorem completeOldest_frame (s : State) :
    SameBut [.tx, .rx, .regions, .apply, .cmd, .mem, .ev, .stats] s (completeOldest s) := by
  unfold completeOldest
  split
  · exact .refl _ _
  · rename_i en rest _
    have h : SameBut [.tx, .rx, .regions, .apply, .cmd, .mem, .ev, .stats] s
        (setApplyWait (s.modApply fun a => { a with queue := rest }) (s.mem.applyWait - 1)) :=
      ((modApply_frame _ _).mono rfl).then (setApplyWait_frame _ _) rfl
    dsimp only
    generalize setApplyWait (s.modApply fun a => { a with queue := rest }) (s.mem.applyWait - 1) = u at h ⊢
    split
    · exact h.then (completeRecord_frame _ _) rfl
    · split
      · exact (h.then (modApply_frame _ _) rfl).then (releaseTarget_frame _ _) rfl
      · exact h

theorem completePassive_frame : ∀ (n : Nat) (s : State),
    SameBut [.tx, .rx, .regions, .apply, .cmd, .mem, .ev, .stats] s (completePassive n s)
  | 0, s => .refl _ s
  | n + 1, s => by
    unfold completePassive
    split
    · exact .refl _ s
    · split
      · exact (completeOldest_frame s).trans (completePassive_frame n _)
      · exact .refl _ s

theorem settle_frame (s : State) : SameBut [.tx, .rx, .regions, .apply, .cmd, .mem, .ev, .stats] s (settle s) := by
  unfold settle
  try dsimp only
  repeat' split
  all_goals repeat' first
    | with_reducible exact SameBut.refl _ _
    | ((with_reducible refine SameBut.then ?_ (completePassive_frame _ _) ?sub); case sub => rfl)

theorem claimFailed_frame (s : State) (e) : SameBut [.regions, .ev, .stats] s (claimFailed s e) := by
  unfold claimFailed
  try dsimp only
  repeat' split
  all_goals repeat' first
    | with_reducible exact SameBut.refl _ _
    | ((with_reducible refine SameBut.then ?_ (emit_frame _ _) ?sub); case sub => rfl)
    | ((with_reducible refine SameBut.then ?_ (setEntry_frame _ _ _) ?sub); case sub => rfl)

theorem applyErrorOf_frame (s : State) (en) : SameBut [.regions, .apply, .tx, .ev, .stats] s (applyErrorOf s en) := by
  unfold applyErrorOf
  try dsimp only
  repeat' split
  all_goals repeat' first
    | with_reducible exact SameBut.refl _ _
    | ((with_reducible refine SameBut.then ?_ (generate_frame _ _) ?sub); case sub => rfl)
    | ((with_reducible refine SameBut.then ?_ (emit_frame _ _) ?sub); case sub => rfl)
    | ((with_reducible refine SameBut.then ?_ (modApply_frame _ _) ?sub); case sub => rfl)
    | ((with_reducible refine SameBut.then ?_ (claimFailed_frame _ _) ?sub); case sub => rfl)

theorem applyResponse_frame (s : State) (st) :
    SameBut [.tx, .rx, .regions, .apply, .cmd, .mem, .ev, .stats] s (applyResponse s st) := by
  unfold applyResponse
  try dsimp only
  repeat' split
  all_goals repeat' first
    | with_reducible exact SameBut.refl _ _
    | ((with_reducible refine SameBut.then ?_ (settle_frame _) ?sub); case sub => rfl)
    | ((with_reducible refine SameBut.then ?_ (completeOldest_frame _) ?sub); case sub => rfl)
    | ((with_reducible refine SameBut.then ?_ (applyErrorOf_frame _ _) ?sub); case sub => rfl)

theorem acceptRecord_frame (s : State) (es rj) :
    SameBut [.tx, .rx, .regions, .apply, .cmd, .mem, .ev, .stats] s (acceptRecord s es rj) := by
  unfold acceptRecord
  try dsimp only
  repeat' split
  all_goals repeat' first
    | with_reducible exact SameBut.refl _ _
    | ((with_reducible refine SameBut.then ?_ (settle_frame _) ?sub); case sub => rfl)
    | ((with_reducible refine SameBut.then ?_ (modRx_frame _ _) ?sub); case sub => rfl)
    | ((with_reducible refine SameBut.then ?_ (generate_frame _ _) ?sub); case sub => rfl)
    | ((with_reducible refine SameBut.then ?_ (modApply_frame _ _) ?sub); case sub => rfl)

theorem inOrder_frame (s : State) (q r) :
    SameBut [.tx, .rx, .regions, .apply, .cmd, .mem, .ev, .stats] s (inOrder s q r) := by
  unfold inOrder
  try dsimp only
  repeat' split
  all_goals repeat' first
    | with_reducible exact SameBut.refl _ _
    | ((with_reducible refine SameBut.then ?_ (acceptRecord_frame _ _ _) ?sub); case sub => rfl)
    | ((with_reducible refine SameBut.then ?_ (modRx_frame _ _) ?sub); case sub => rfl)

theorem gapRecord_frame (s : State) : SameBut [.tx, .rx, .stats] s (gapRecord s) := by
  unfold gapRecord
  try dsimp only
  repeat' split
  all_goals repeat' first
    | with_reducible exact SameBut.refl _ _
    | ((with_reducible refine SameBut.then ?_ (count_frame _ _) ?sub); case sub => rfl)
    | ((with_reducible refine SameBut.then ?_ (modRx_frame _ _) ?sub); case sub => rfl)
    | ((with_reducible refine SameBut.then ?_ (generate_frame _ _) ?sub); case sub => rfl)

theorem receiveRecord_frame (s : State) (q r) :
    SameBut [.tx, .rx, .regions, .apply, .cmd, .mem, .ev, .stats] s (receiveRecord s q r) := by
  unfold receiveRecord
  try dsimp only
  repeat' split
  all_goals repeat' first
    | with_reducible exact SameBut.refl _ _
    | ((with_reducible refine SameBut.then ?_ (inOrder_frame _ _ _) ?sub); case sub => rfl)
    | ((with_reducible refine SameBut.then ?_ (generateAck_frame _) ?sub); case sub => rfl)
    | ((with_reducible refine SameBut.then ?_ (count_frame _ _) ?sub); case sub => rfl)
    | ((with_reducible refine SameBut.then ?_ (gapRecord_frame _) ?sub); case sub => rfl)

theorem restartApply_frame (s : State) : SameBut [.apply, .mem] s (restartApply s) := by
  unfold restartApply
  try dsimp only
  repeat' split
  all_goals repeat' first
    | with_reducible exact SameBut.refl _ _
    | ((with_reducible refine SameBut.then ?_ (setApplyWait_frame _ _) ?sub); case sub => rfl)
    | ((with_reducible refine SameBut.then ?_ (modApply_frame _ _) ?sub); case sub => rfl)

/-! ## Sessions -/

theorem markRecord_frame (s : State) (r) : SameBut [.regions, .stats] s (markRecord s r) := by
  unfold markRecord
  try dsimp only
  repeat' split
  all_goals repeat' first
    | with_reducible exact SameBut.refl _ _
    | ((with_reducible refine SameBut.then ?_ (mark_frame _ _ _) ?sub); case sub => rfl)

theorem loseNote_frame (s : State) (r) : SameBut [.ev, .stats] s (loseNote s r) := by
  unfold loseNote
  try dsimp only
  repeat' split
  all_goals repeat' first
    | with_reducible exact SameBut.refl _ _
    | ((with_reducible refine SameBut.then ?_ (done_frame _ _ _ _ _) ?sub); case sub => rfl)

theorem drainRegionOf_frame (s : State) (r) :
    SameBut [.regions, .fences, .cmd, .ev, .stats] s (drainRegionOf s r) := by
  unfold drainRegionOf
  try dsimp only
  repeat' split
  all_goals repeat' first
    | with_reducible exact SameBut.refl _ _
    | ((with_reducible refine SameBut.then ?_ (drainEntry_frame _ _) ?sub); case sub => rfl)

theorem convertRecord_frame (l) (s : State) (r) :
    SameBut [.regions, .resync, .fences, .cmd, .ev, .stats] s (convertRecord l s r) := by
  have h : SameBut [.regions, .resync, .fences, .cmd, .ev, .stats] s (freeRecordBuffer (markRecord s r) r) :=
    ((markRecord_frame s r).mono rfl).then (freeRecordBuffer_frame _ r) rfl
  unfold convertRecord
  dsimp only
  split
  · exact (h.then (loseNote_frame _ r) rfl).then (drainRegionOf_frame _ r) rfl
  · exact h

theorem convertReplay_frame (l) : ∀ (rs : List Replayed) (s : State),
    SameBut [.tx, .regions, .resync, .fences, .cmd, .ev, .stats] s (convertReplay l rs s)
  | [], s => .refl _ s
  | r :: rs, s =>
    (((modTx_frame s _).mono rfl).then (convertRecord_frame l _ r.record) rfl).trans
      (convertReplay_frame l rs _)

theorem popQueue_frame (s : State) (q) : SameBut [.capture, .mem] s (popQueue s q) := by
  unfold popQueue
  try dsimp only
  repeat' split
  all_goals repeat' first
    | with_reducible exact SameBut.refl _ _
    | ((with_reducible refine SameBut.then ?_ (slotFreed_frame _ _) ?sub); case sub => rfl)
    | ((with_reducible refine SameBut.then ?_ (modCapture_frame _ _) ?sub); case sub => rfl)

theorem convertQueued_frame (l) : ∀ (rs : List (QueueClass × Record)) (s : State),
    SameBut [.capture, .mem, .regions, .resync, .fences, .cmd, .ev, .stats] s (convertQueued l rs s)
  | [], s => .refl _ s
  | (q, r) :: rs, s =>
    (((popQueue_frame s q).mono rfl).then (convertRecord_frame l _ r) rfl).trans
      (convertQueued_frame l rs _)

theorem convertQueues_frame (l) (s : State) :
    SameBut [.capture, .mem, .regions, .resync, .fences, .cmd, .ev, .stats] s (convertQueues l s) :=
  convertQueued_frame l _ s

theorem enterCalling_frame (s : State) : SameBut [.session] s (enterCalling s) := by
  unfold enterCalling
  try dsimp only
  repeat' split
  all_goals repeat' first
    | with_reducible exact SameBut.refl _ _
    | ((with_reducible refine SameBut.then ?_ (modSession_frame _ _) ?sub); case sub => rfl)

theorem beginCalling_frame (s : State) : SameBut [.session, .tx] s (beginCalling s) := by
  unfold beginCalling
  try dsimp only
  repeat' split
  all_goals repeat' first
    | with_reducible exact SameBut.refl _ _
    | ((with_reducible refine SameBut.then ?_ (sendJoin_frame _) ?sub); case sub => rfl)

theorem enterDisabled_frame (s : State) : SameBut [.session] s (enterDisabled s) := by
  unfold enterDisabled
  try dsimp only
  repeat' split
  all_goals repeat' first
    | with_reducible exact SameBut.refl _ _
    | ((with_reducible refine SameBut.then ?_ (modSession_frame _ _) ?sub); case sub => rfl)

theorem clearControl_frame (s : State) : SameBut [.tx] s (clearControl s) := by
  unfold clearControl
  try dsimp only
  repeat' split
  all_goals repeat' first
    | with_reducible exact SameBut.refl _ _
    | ((with_reducible refine SameBut.then ?_ (modTx_frame _ _) ?sub); case sub => rfl)

theorem lossState_frame (s : State) : SameBut [.session, .regions, .fences, .mem, .ev, .stats] s (lossState s) := by
  unfold lossState
  split
  · exact ((enterCalling_frame s).mono rfl).then (sweep_frame (enterCalling s)) rfl
  · exact (enterDisabled_frame s).mono rfl

theorem lossTransmitter_frame (s : State) (c) :
    SameBut [.tx, .regions, .resync, .fences, .cmd, .ev, .stats] s (lossTransmitter s c) := by
  unfold lossTransmitter
  try dsimp only
  repeat' split
  all_goals repeat' first
    | with_reducible exact SameBut.refl _ _
    | ((with_reducible refine SameBut.then ?_ (convertReplay_frame true _ _) ?sub); case sub => rfl)
    | ((with_reducible refine SameBut.then ?_ (modTx_frame _ _) ?sub); case sub => rfl)
    | ((with_reducible refine SameBut.then ?_ (clearControl_frame _) ?sub); case sub => rfl)

theorem failAllFences_frame (s : State) : SameBut [.fences, .ev, .stats] s (failAllFences s) := by
  unfold failAllFences
  try dsimp only
  repeat' split
  all_goals repeat' first
    | with_reducible exact SameBut.refl _ _
    | ((with_reducible refine SameBut.then ?_ (completeFences_frame _ _ _ _ _) ?sub); case sub => rfl)

theorem completeDisconnect_frame (s : State) : SameBut [.session, .ev, .stats] s (completeDisconnect s) := by
  unfold completeDisconnect
  try dsimp only
  repeat' split
  all_goals repeat' first
    | with_reducible exact SameBut.refl _ _
    | ((with_reducible refine SameBut.then ?_ (done_frame _ _ _ _ _) ?sub); case sub => rfl)
    | ((with_reducible refine SameBut.then ?_ (modSession_frame _ _) ?sub); case sub => rfl)

theorem loseSession_frame (s : State) (c p) :
    SameBut [.regions, .session, .capture, .tx, .rx, .resync, .fences, .mem, .cmd, .ev, .stats] s
      (loseSession s c p) := by
  have h3 : SameBut [.regions, .session, .capture, .tx, .rx, .resync, .fences, .mem, .cmd, .ev, .stats] s
      (convertQueues true (lossTransmitter (lossState s) c)) := (((lossState_frame s).mono rfl).then (lossTransmitter_frame _ c) rfl).then (convertQueues_frame true _) rfl
  unfold loseSession
  dsimp only
  generalize convertQueues true (lossTransmitter (lossState s) c) = u at h3 ⊢
  have h4 : SameBut [.regions, .session, .capture, .tx, .rx, .resync, .fences, .mem, .cmd, .ev, .stats] s
      (if decide (s.session.state = .up) = true then resyncLeavesUp u else u) := by
    split
    · exact h3.then (resyncLeavesUp_frame _) rfl
    · exact h3
  generalize (if decide (s.session.state = .up) = true then resyncLeavesUp u else u) = v at h4 ⊢
  have h8 : SameBut [.regions, .session, .capture, .tx, .rx, .resync, .fences, .mem, .cmd, .ev, .stats] s
      (completeDisconnect (emit ((failAllFences v).modRx fun r => { r with ackTimer := none })
        (.sessionDown c s.session.epoch ((failAllFences v).modRx fun r => { r with ackTimer := none }).tx.highest
          (highestAccepted ((failAllFences v).modRx fun r => { r with ackTimer := none }).rx) p))) := (((h4.then (failAllFences_frame _) rfl).then (modRx_frame _ fun r => { r with ackTimer := none })
    rfl).then (emit_frame _ (.sessionDown c s.session.epoch
      ((failAllFences v).modRx fun r => { r with ackTimer := none }).tx.highest
      (highestAccepted ((failAllFences v).modRx fun r => { r with ackTimer := none }).rx) p)) rfl).then
    (completeDisconnect_frame _) rfl
  split
  · exact h8.then (beginCalling_frame _) rfl
  · exact h8

theorem drainTest_frame (s : State) :
    SameBut [.regions, .session, .capture, .tx, .rx, .resync, .fences, .mem, .cmd, .ev, .stats] s (drainTest s) := by
  unfold drainTest
  try dsimp only
  repeat' split
  all_goals repeat' first
    | with_reducible exact SameBut.refl _ _
    | ((with_reducible refine SameBut.then ?_ (loseSession_frame _ _ _) ?sub); case sub => rfl)
    | ((with_reducible refine SameBut.then ?_ (generate_frame _ _) ?sub); case sub => rfl)
    | ((with_reducible refine SameBut.then ?_ (generateAck_frame _) ?sub); case sub => rfl)

theorem enterClosing_frame (s : State) (tag) :
    SameBut [.regions, .session, .capture, .tx, .rx, .resync, .fences, .mem, .cmd, .ev, .stats] s
      (enterClosing s tag) :=
  (((((modSession_frame s _).mono rfl).then (sweep_frame (s.modSession _)) rfl).then (resyncLeavesUp_frame _)
    rfl).then (failAllFences_frame _) rfl).then (drainTest_frame _) rfl

theorem refuseJoin_frame (s : State) (j c) : SameBut [.session, .ev, .stats] s (refuseJoin s j c) := by
  unfold refuseJoin
  try dsimp only
  repeat' split
  all_goals repeat' first
    | with_reducible exact SameBut.refl _ _
    | ((with_reducible refine SameBut.then ?_ (emit_frame _ _) ?sub); case sub => rfl)
    | ((with_reducible refine SameBut.then ?_ (modSession_frame _ _) ?sub); case sub => rfl)

theorem answerJoin_frame (s : State) (j) : SameBut [.session, .tx] s (answerJoin s j) := by
  unfold answerJoin
  try dsimp only
  repeat' split
  all_goals repeat' first
    | with_reducible exact SameBut.refl _ _
    | ((with_reducible refine SameBut.then ?_ (startJoinTimer_frame _) ?sub); case sub => rfl)
    | ((with_reducible refine SameBut.then ?_ (sendAnswer_frame _) ?sub); case sub => rfl)
    | ((with_reducible refine SameBut.then ?_ (modSession_frame _ _) ?sub); case sub => rfl)

theorem joinInCalling_frame (s : State) (j) : SameBut [.session, .tx, .ev, .stats] s (joinInCalling s j) := by
  unfold joinInCalling
  try dsimp only
  repeat' split
  all_goals repeat' first
    | with_reducible exact SameBut.refl _ _
    | ((with_reducible refine SameBut.then ?_ (refuseJoin_frame _ _ _) ?sub); case sub => rfl)
    | ((with_reducible refine SameBut.then ?_ (answerJoin_frame _ _) ?sub); case sub => rfl)

theorem joinInSession_frame (s : State) (j) :
    SameBut [.regions, .session, .capture, .tx, .rx, .resync, .fences, .mem, .cmd, .ev, .stats] s (joinInSession s j) := by
  unfold joinInSession
  try dsimp only
  repeat' split
  all_goals repeat' first
    | with_reducible exact SameBut.refl _ _
    | ((with_reducible refine SameBut.then ?_ (refuseJoin_frame _ _ _) ?sub); case sub => rfl)
    | ((with_reducible refine SameBut.then ?_ (sendAnswer_frame _) ?sub); case sub => rfl)
    | ((with_reducible refine SameBut.then ?_ (joinInCalling_frame _ _) ?sub); case sub => rfl)
    | ((with_reducible refine SameBut.then ?_ (loseSession_frame _ _ _) ?sub); case sub => rfl)

theorem enterUp_frame (s : State) (x) : SameBut [.session, .tx, .rx, .ev, .stats] s (enterUp s x) := by
  unfold enterUp
  try dsimp only
  repeat' split
  all_goals repeat' first
    | with_reducible exact SameBut.refl _ _
    | ((with_reducible refine SameBut.then ?_ (emit_frame _ _) ?sub); case sub => rfl)
    | ((with_reducible refine SameBut.then ?_ (modRx_frame _ _) ?sub); case sub => rfl)
    | ((with_reducible refine SameBut.then ?_ (modTx_frame _ _) ?sub); case sub => rfl)
    | ((with_reducible refine SameBut.then ?_ (modSession_frame _ _) ?sub); case sub => rfl)

theorem takeAccept_frame (s : State) (a) : SameBut [.session, .tx, .rx, .ev, .stats] s (takeAccept s a) := by
  unfold takeAccept
  try dsimp only
  repeat' split
  all_goals repeat' first
    | with_reducible exact SameBut.refl _ _
    | ((with_reducible refine SameBut.then ?_ (enterUp_frame _ _) ?sub); case sub => rfl)
    | ((with_reducible refine SameBut.then ?_ (sendAnswer_frame _) ?sub); case sub => rfl)
    | ((with_reducible refine SameBut.then ?_ (modSession_frame _ _) ?sub); case sub => rfl)

/-! ## The Memory Path -/

theorem returnReady_frame (s : State) : SameBut [.out, .mem] s (returnReady s) := by
  unfold returnReady
  try dsimp only
  repeat' split
  all_goals repeat' first
    | with_reducible exact SameBut.refl _ _
    | ((with_reducible refine SameBut.then ?_ (modMem_frame _ _) ?sub); case sub => rfl)
    | ((with_reducible refine SameBut.then ?_ (modOut_frame _ _) ?sub); case sub => rfl)

theorem leaveHead_frame (s : State) (r) : SameBut [.mem] s (leaveHead s r) := by
  unfold leaveHead
  try dsimp only
  repeat' split
  all_goals repeat' first
    | with_reducible exact SameBut.refl _ _
    | ((with_reducible refine SameBut.then ?_ (modMem_frame _ _) ?sub); case sub => rfl)

theorem issueHead_frame (s : State) (q r) : SameBut [.mem] s (issueHead s q r) := by
  unfold issueHead
  try dsimp only
  repeat' split
  all_goals repeat' first
    | with_reducible exact SameBut.refl _ _
    | ((with_reducible refine SameBut.then ?_ (modMem_frame _ _) ?sub); case sub => rfl)
    | ((with_reducible refine SameBut.then ?_ (leaveHead_frame _ _) ?sub); case sub => rfl)

theorem answerHead_frame (s : State) (q) : SameBut [.out, .mem] s (answerHead s q) := by
  unfold answerHead
  try dsimp only
  repeat' split
  all_goals repeat' first
    | with_reducible exact SameBut.refl _ _
    | ((with_reducible refine SameBut.then ?_ (returnReady_frame _) ?sub); case sub => rfl)
    | ((with_reducible refine SameBut.then ?_ (leaveHead_frame _ _) ?sub); case sub => rfl)

theorem holdHead_frame (s : State) (r) : SameBut [.mem] s (holdHead s r) := by
  unfold holdHead
  try dsimp only
  repeat' split
  all_goals repeat' first
    | with_reducible exact SameBut.refl _ _
    | ((with_reducible refine SameBut.then ?_ (modMem_frame _ _) ?sub); case sub => rfl)

theorem refusalReport_frame (s : State) (e a) : SameBut [.apply, .ev, .stats] s (refusalReport s e a) := by
  unfold refusalReport
  try dsimp only
  repeat' split
  all_goals repeat' first
    | with_reducible exact SameBut.refl _ _
    | ((with_reducible refine SameBut.then ?_ (emit_frame _ _) ?sub); case sub => rfl)
    | ((with_reducible refine SameBut.then ?_ (modApply_frame _ _) ?sub); case sub => rfl)

theorem refuseWrite_frame (s : State) (q e a) :
    SameBut [.apply, .ev, .stats, .out, .mem] s (refuseWrite s q e a) := by
  unfold refuseWrite
  try dsimp only
  repeat' split
  all_goals repeat' first
    | with_reducible exact SameBut.refl _ _
    | ((with_reducible refine SameBut.then ?_ (answerHead_frame _ _) ?sub); case sub => rfl)
    | ((with_reducible refine SameBut.then ?_ (refusalReport_frame _ _ _) ?sub); case sub => rfl)
    | ((with_reducible refine SameBut.then ?_ (count_frame _ _) ?sub); case sub => rfl)

theorem issueUncaptured_frame (s : State) (q e a c) :
    SameBut [.mem, .regions, .fences, .ev, .stats] s (issueUncaptured s q e a c) := by
  unfold issueUncaptured
  try dsimp only
  repeat' split
  all_goals repeat' first
    | with_reducible exact SameBut.refl _ _
    | ((with_reducible refine SameBut.then ?_ (claimLagging_frame _ _ _ _) ?sub); case sub => rfl)
    | ((with_reducible refine SameBut.then ?_ (markAddr_frame _ _ _) ?sub); case sub => rfl)
    | ((with_reducible refine SameBut.then ?_ (issueHead_frame _ _ _) ?sub); case sub => rfl)

theorem holdSyncFull_frame (s : State) : SameBut [.mem, .stats] s (holdSyncFull s) := by
  unfold holdSyncFull
  try dsimp only
  repeat' split
  all_goals repeat' first
    | with_reducible exact SameBut.refl _ _
    | ((with_reducible refine SameBut.then ?_ (modMem_frame _ _) ?sub); case sub => rfl)
    | ((with_reducible refine SameBut.then ?_ (holdHead_frame _ _) ?sub); case sub => rfl)
    | ((with_reducible refine SameBut.then ?_ (count_frame _ _) ?sub); case sub => rfl)

theorem tryMerge_frame (s t : State) (e l m d) (h : tryMerge s e l m d = some t) : SameBut [.capture] s t := by
  unfold tryMerge at h
  dsimp only at h
  split at h
  · split at h
    · cases h
      exact modCapture_frame _ _
    · cases h
  · cases h

theorem captureWrite_frame (s t : State) (e a m d) (h : captureWrite s e a m d = some t) :
    SameBut [.capture, .stats] s t := by
  unfold captureWrite at h
  dsimp only at h
  split at h
  · rename_i hu
    cases h
    exact (((tryMerge_frame _ _ _ _ _ _ hu).mono rfl).then (count_frame _ _) rfl).then (count_frame _ _) rfl
  · split at h
    · cases h
      exact ((appendRecord_frame _ _ _).mono rfl).then (count_frame _ _) rfl
    · cases h

theorem presentMirrored_frame (s : State) (q e a m d) :
    SameBut [.mem, .capture, .regions, .fences, .ev, .stats] s (presentMirrored s q e a m d) := by
  unfold presentMirrored
  split
  · exact (holdHead_frame _ _).mono rfl
  split
  · exact (issueUncaptured_frame _ _ _ _ _).mono rfl
  split
  · rename_i h
    exact ((captureWrite_frame _ _ _ _ _ _ h).mono rfl).then (issueHead_frame _ _ _) rfl
  split
  · split
    · exact ((count_frame _ _).mono rfl).then (issueUncaptured_frame _ _ _ _ _) rfl
    · exact (holdSyncFull_frame _).mono rfl
  · exact (issueUncaptured_frame _ _ _ _ _).mono rfl

theorem presentControl_frame (s : State) (q m d) : SameBut [.mem, .cmd, .stats] s (presentControl s q m d) := by
  unfold presentControl
  try dsimp only
  repeat' split
  all_goals repeat' first
    | with_reducible exact SameBut.refl _ _
    | ((with_reducible refine SameBut.then ?_ (holdHead_frame _ _) ?sub); case sub => rfl)
    | ((with_reducible refine SameBut.then ?_ (issueHead_frame _ _ _) ?sub); case sub => rfl)
    | ((with_reducible refine SameBut.then ?_ (modCmd_frame _ _) ?sub); case sub => rfl)
    | ((with_reducible refine SameBut.then ?_ (count_frame _ _) ?sub); case sub => rfl)

theorem presentWrite_frame (s : State) (q a m d) :
    SameBut [.mem, .capture, .cmd, .apply, .out, .regions, .fences, .ev, .stats] s (presentWrite s q a m d) := by
  unfold presentWrite
  try dsimp only
  repeat' split
  all_goals repeat' first
    | with_reducible exact SameBut.refl _ _
    | ((with_reducible refine SameBut.then ?_ (presentControl_frame _ _ _ _) ?sub); case sub => rfl)
    | ((with_reducible refine SameBut.then ?_ (refuseWrite_frame _ _ _ _) ?sub); case sub => rfl)
    | ((with_reducible refine SameBut.then ?_ (presentMirrored_frame _ _ _ _ _ _) ?sub); case sub => rfl)
    | ((with_reducible refine SameBut.then ?_ (markAddr_frame _ _ _) ?sub); case sub => rfl)
    | ((with_reducible refine SameBut.then ?_ (issueHead_frame _ _ _) ?sub); case sub => rfl)

theorem presentRead_frame (s : State) (q a) : SameBut [.mem] s (presentRead s q a) := by
  unfold presentRead
  try dsimp only
  repeat' split
  all_goals repeat' first
    | with_reducible exact SameBut.refl _ _
    | ((with_reducible refine SameBut.then ?_ (modMem_frame _ _) ?sub); case sub => rfl)
    | ((with_reducible refine SameBut.then ?_ (holdHead_frame _ _) ?sub); case sub => rfl)
    | ((with_reducible refine SameBut.then ?_ (issueHead_frame _ _ _) ?sub); case sub => rfl)

theorem present_frame (s : State) (q) :
    SameBut [.mem, .capture, .cmd, .apply, .out, .regions, .fences, .ev, .stats] s (present s q) := by
  cases q with
  | read tag addr len => exact (presentRead_frame s _ _).mono rfl
  | write tag addr mask data => exact presentWrite_frame s _ _ _ _

theorem grantHead_frame (s : State) (q) :
    SameBut [.mem, .capture, .cmd, .apply, .out, .regions, .fences, .ev, .stats] s (grantHead s q) := by
  unfold grantHead
  try dsimp only
  repeat' split
  all_goals repeat' first
    | with_reducible exact SameBut.refl _ _
    | ((with_reducible refine SameBut.then ?_ (answerHead_frame _ _) ?sub); case sub => rfl)
    | ((with_reducible refine SameBut.then ?_ (issueHead_frame _ _ _) ?sub); case sub => rfl)
    | ((with_reducible refine SameBut.then ?_ (present_frame _ _) ?sub); case sub => rfl)

theorem issueInjected_frame (s : State) (i x f) : SameBut [.mem] s (issueInjected s i x f) := by
  unfold issueInjected
  try dsimp only
  repeat' split
  all_goals repeat' first
    | with_reducible exact SameBut.refl _ _
    | ((with_reducible refine SameBut.then ?_ (modMem_frame _ _) ?sub); case sub => rfl)

theorem issueApply_frame (s : State) : SameBut [.mem, .apply] s (issueApply s) := by
  unfold issueApply
  try dsimp only
  repeat' split
  all_goals repeat' first
    | with_reducible exact SameBut.refl _ _
    | ((with_reducible refine SameBut.then ?_ (issueInjected_frame _ _ _ _) ?sub); case sub => rfl)
    | ((with_reducible refine SameBut.then ?_ (modApply_frame _ _) ?sub); case sub => rfl)

theorem issueResync_frame (s : State) : SameBut [.mem, .resync] s (issueResync s) := by
  unfold issueResync
  try dsimp only
  repeat' split
  all_goals repeat' first
    | with_reducible exact SameBut.refl _ _
    | ((with_reducible refine SameBut.then ?_ (issueInjected_frame _ _ _ _) ?sub); case sub => rfl)
    | ((with_reducible refine SameBut.then ?_ (modResync_frame _ _) ?sub); case sub => rfl)

theorem issueWriter_frame (s : State) : SameBut [.mem, .ev] s (issueWriter s) := by
  unfold issueWriter
  try dsimp only
  repeat' split
  all_goals repeat' first
    | with_reducible exact SameBut.refl _ _
    | ((with_reducible refine SameBut.then ?_ (issueInjected_frame _ _ _ _) ?sub); case sub => rfl)
    | ((with_reducible refine SameBut.then ?_ (modEv_frame _ _) ?sub); case sub => rfl)

theorem grantInjected_frame (s : State) (i) : SameBut [.mem, .apply, .resync, .ev] s (grantInjected s i) := by
  unfold grantInjected
  try dsimp only
  repeat' split
  all_goals repeat' first
    | with_reducible exact SameBut.refl _ _
    | ((with_reducible refine SameBut.then ?_ (issueApply_frame _) ?sub); case sub => rfl)
    | ((with_reducible refine SameBut.then ?_ (issueResync_frame _) ?sub); case sub => rfl)
    | ((with_reducible refine SameBut.then ?_ (issueWriter_frame _) ?sub); case sub => rfl)

theorem arbiterStep_frame (s : State) :
    SameBut [.mem, .capture, .cmd, .apply, .out, .resync, .regions, .fences, .ev, .stats] s (arbiterStep s) := by
  unfold arbiterStep
  try dsimp only
  repeat' split
  all_goals repeat' first
    | with_reducible exact SameBut.refl _ _
    | ((with_reducible refine SameBut.then ?_ (grantInjected_frame _ _) ?sub); case sub => rfl)
    | ((with_reducible refine SameBut.then ?_ (grantHead_frame _ _) ?sub); case sub => rfl)

theorem arbiterRounds_frame : ∀ (n : Nat) (s : State),
    SameBut [.mem, .capture, .cmd, .apply, .out, .resync, .regions, .fences, .ev, .stats] s (arbiterRounds n s)
  | 0, s => .refl _ s
  | n + 1, s => by
    unfold arbiterRounds
    split
    · exact (arbiterStep_frame s).trans (arbiterRounds_frame n _)
    · exact arbiterStep_frame s

theorem arbiterChoice_frame (s : State) :
    SameBut [.mem, .capture, .cmd, .apply, .out, .resync, .regions, .fences, .ev, .stats] s (arbiterChoice s) := by
  unfold arbiterChoice
  try dsimp only
  repeat' split
  all_goals repeat' first
    | with_reducible exact SameBut.refl _ _
    | ((with_reducible refine SameBut.then ?_ (arbiterRounds_frame _ _) ?sub); case sub => rfl)

theorem writeError_frame (s : State) (e a) : SameBut [.regions, .fences, .mem, .ev, .stats] s (writeError s e a) := by
  unfold writeError
  try dsimp only
  repeat' split
  all_goals repeat' first
    | with_reducible exact SameBut.refl _ _
    | ((with_reducible refine SameBut.then ?_ (claimLagging_frame _ _ _ _) ?sub); case sub => rfl)
    | ((with_reducible refine SameBut.then ?_ (markAddr_frame _ _ _) ?sub); case sub => rfl)

theorem passThroughAnswer_frame (s : State) (r st d) :
    SameBut [.regions, .fences, .mem, .out, .ev, .stats] s (passThroughAnswer s r st d) := by
  unfold passThroughAnswer
  try dsimp only
  repeat' split
  all_goals repeat' first
    | with_reducible exact SameBut.refl _ _
    | ((with_reducible refine SameBut.then ?_ (returnReady_frame _) ?sub); case sub => rfl)
    | ((with_reducible refine SameBut.then ?_ (writeError_frame _ _ _) ?sub); case sub => rfl)
    | ((with_reducible refine SameBut.then ?_ (modMem_frame _ _) ?sub); case sub => rfl)

theorem advanceWrite_frame (s : State) : SameBut [.ev] s (advanceWrite s) := by
  unfold advanceWrite
  try dsimp only
  repeat' split
  all_goals repeat' first
    | with_reducible exact SameBut.refl _ _
    | ((with_reducible refine SameBut.then ?_ (modEv_frame _ _) ?sub); case sub => rfl)

theorem completeWriteOut_frame (s : State) : SameBut [.cmd, .ev, .stats] s (completeWriteOut s) := by
  unfold completeWriteOut
  try dsimp only
  repeat' split
  all_goals repeat' first
    | with_reducible exact SameBut.refl _ _
    | ((with_reducible refine SameBut.then ?_ (emit_frame _ _) ?sub); case sub => rfl)
    | ((with_reducible refine SameBut.then ?_ (modCmd_frame _ _) ?sub); case sub => rfl)

theorem writeOutAnswered_frame (s : State) (st) : SameBut [.cmd, .ev, .stats] s (writeOutAnswered s st) := by
  unfold writeOutAnswered
  try dsimp only
  repeat' split
  all_goals repeat' first
    | with_reducible exact SameBut.refl _ _
    | ((with_reducible refine SameBut.then ?_ (completeWriteOut_frame _) ?sub); case sub => rfl)
    | ((with_reducible refine SameBut.then ?_ (modCmd_frame _ _) ?sub); case sub => rfl)

theorem writerAnswer_frame (s : State) (i st) : SameBut [.cmd, .ev, .stats] s (writerAnswer s i st) := by
  unfold writerAnswer
  try dsimp only
  repeat' split
  all_goals repeat' first
    | with_reducible exact SameBut.refl _ _
    | ((with_reducible refine SameBut.then ?_ (advanceWrite_frame _) ?sub); case sub => rfl)
    | ((with_reducible refine SameBut.then ?_ (writeOutAnswered_frame _ _) ?sub); case sub => rfl)

end Sys2Proof.Machine
end

