-- ==== Sys2Proof/Laws/Regions.lean ====
section
/-! SUPPORT. What the shared operations do to the Region Table (R1, R8, R10, R80) and the fence list (R103, R104). -/

namespace Sys2Proof.Machine

/-! ## Entries -/

theorem getElem_setAt {α : Type} {n : Nat} (v : Vector α n) (i j : Fin n) (x : α) :
    (setAt v i x)[j] = if j = i then x else v[j] := by
  simp only [setAt, Fin.getElem_fin, Vector.getElem_set]
  by_cases h : j = i
  · simp [h]
  · rw [if_neg h, if_neg fun g => h (Fin.ext g.symm)]

theorem entry_setEntry (s : State) (e i : RegionIx) (en : Entry) :
    (setEntry s e en).entry i = if i = e then en else s.entry i := getElem_setAt s.regions e i en

/-- An operation that leaves the Region Table alone leaves each entry alone. -/
theorem SameBut.entry {ps : List Part} {s t : State} (h : SameBut ps s t) (n : Part.regions ∉ ps) (e : RegionIx) :
    t.entry e = s.entry e := by
  simp only [State.entry, h.regions n]

@[simp] theorem entry_emit (s : State) (ev : Event) (e : RegionIx) : (emit s ev).entry e = s.entry e :=
  (emit_frame s ev).entry (by decide) e

@[simp] theorem entry_countBy (s : State) (c : Stat) (n : Nat) (e : RegionIx) :
    (countBy s c n).entry e = s.entry e := (countBy_frame s c n).entry (by decide) e

@[simp] theorem entry_count (s : State) (c : Stat) (e : RegionIx) : (count s c).entry e = s.entry e :=
  (count_frame s c).entry (by decide) e

/-! ## Marks -/

theorem mem_insertSeg (k j : Nat) : ∀ l, j ∈ insertSeg k l ↔ j = k ∨ j ∈ l
  | [] => by simp [insertSeg]
  | x :: xs => by
    unfold insertSeg
    split
    · simp
    · split
      · rename_i h
        subst h
        simp
      · simp only [List.mem_cons, mem_insertSeg k j xs]
        exact or_left_comm

/-- A mark changes one entry, and of it the dirty segments only. -/
theorem entry_mark (s : State) (e i : RegionIx) (k : Nat) :
    (mark s e k).entry i = { s.entry i with dirty := ((mark s e k).entry i).dirty } ∧
      (i ≠ e → (mark s e k).entry i = s.entry i) := by
  unfold mark
  split
  · simp only [entry_count, entry_setEntry]
    constructor
    · split
      · rename_i h
        subst h
        rfl
      · rfl
    · intro h
      rw [if_neg h]
  · exact ⟨rfl, fun _ => rfl⟩

/-- Where a mark is made, the segment is dirty afterwards, and the others as before. -/
theorem mem_dirty_mark (s : State) (e : RegionIx) (k j : Nat) (h : markable (s.entry e).state = true) :
    j ∈ ((mark s e k).entry e).dirty ↔ j = k ∨ j ∈ (s.entry e).dirty := by
  unfold mark
  split
  · simp [entry_setEntry, mem_insertSeg]
  · rename_i g
    simp only [h, Bool.true_and, Bool.not_eq_true', List.contains_eq_mem, decide_eq_false_iff_not, not_not] at g
    constructor
    · exact Or.inr
    · rintro (rfl | g')
      · exact g
      · exact g'

/-! ## Fences -/

theorem foldl_emit_fences {α : Type} (f : α → Event) (l : List α) (s : State) :
    (l.foldl (fun t x => emit t (f x)) s).fences = s.fences :=
  (SameBut.foldl (ps := [.ev, .stats]) (fun t x => emit_frame t (f x)) l s).fences (by decide)

theorem fences_completeFences (s : State) (p : Fence → Bool) (o c r) :
    (completeFences s p o c r).fences = s.fences.filter fun f => !p f := by
  simp only [completeFences, foldl_emit_fences, State.modFences_fences]

/-- A run of events joins the event list in order, where the ring has room for them. -/
theorem eventsOf_foldl {α : Type} (f : α → Event) :
    ∀ (l : List α) (s : State), ringRoom s l.length →
      eventsOf (l.foldl (fun t x => emit t (f x)) s) = eventsOf s ++ l.map f
  | [], s, _ => by simp
  | a :: l, s, h => by
    rw [List.foldl_cons, eventsOf_foldl f l _ (ringRoom_emit s (f a) _ h),
      eventsOf_emit s (f a) (ringRoom_mono h (by simp)), List.map_cons, List.append_assoc, List.singleton_append]

/-- After the fences of an entry have failed, none has it in its scope (R104). -/
theorem failFences_covers (s : State) (e : RegionIx) (c : FenceCause) (f : Fence)
    (h : f ∈ (failFences s e c).fences) : f.covers e = false := by
  rw [failFences, fences_completeFences] at h
  simpa using (List.mem_filter.mp h).2

/-! ## Claims -/

/-- A claim to LAGGING moves a MIRRORED entry and no other (R8). -/
theorem entry_claimLagging (s : State) (e i : RegionIx) (c : RegionCause) (f : FenceCause) :
    (claimLagging s e c f).entry i =
      if i = e ∧ (s.entry e).state = .mirrored then { s.entry e with state := .lagging } else s.entry i := by
  unfold claimLagging
  split
  · rename_i h
    simp only [(leftMirrored_frame _ e).entry (by decide), (failFences_frame _ e f).entry (by decide), entry_emit,
      entry_setEntry, h, and_true]
  · rename_i h
    rw [if_neg fun g => h g.2]

/-- A sweep leaves each entry as it was, but for a MIRRORED one, which lags (R10). -/
theorem entry_sweep (s : State) (i : RegionIx) :
    (sweep s).entry i = if (s.entry i).state = .mirrored then { s.entry i with state := .lagging } else s.entry i := by
  have key : ∀ (l : List RegionIx) (t : State),
      (l.foldl (fun t e => claimLagging t e .sessionDown .sessionDown) t).entry i =
        if i ∈ l ∧ (t.entry i).state = .mirrored then { t.entry i with state := .lagging } else t.entry i := by
    intro l
    induction l with
    | nil => simp
    | cons a l ih =>
      intro t
      rw [List.foldl_cons, ih, entry_claimLagging]
      by_cases h : i = a
      · subst h
        by_cases g : (t.entry i).state = .mirrored <;> simp [g]
      · simp [h]
  have := key entryList s
  simpa [sweep, entryList] using this

end Sys2Proof.Machine
end

