-- ==== Sys2Proof/Laws/Losses.lean ====
section
/-! SUPPORT. What the teardown of a session leaves (R37, R44, R55, R72, R143): the conversions empty the queues and the
replay list, no source stays MIRRORED, and the Command Unit keeps all but its pending CLOSEs. -/

namespace Sys2Proof.Machine

/-- No source is MIRRORED. -/
abbrev NoneMirrored (s : State) : Prop := ∀ e, (s.entry e).state ≠ .mirrored

/-! ## What keeps sources from being MIRRORED -/

theorem NoneMirrored.of_regions {s t : State} (h : NoneMirrored s) (g : t.regions = s.regions) : NoneMirrored t := by
  intro e
  simp only [State.entry, g]
  exact h e

theorem noneMirrored_mark (s : State) (e : RegionIx) (k : Nat) (h : NoneMirrored s) : NoneMirrored (mark s e k) := by
  intro i
  rw [(entry_mark s e i k).1]
  exact h i

theorem noneMirrored_drainEntry (s : State) (e : RegionIx) (h : NoneMirrored s) : NoneMirrored (drainEntry s e) := by
  unfold drainEntry
  split
  · refine NoneMirrored.of_regions ?_ ((completeClose_frame _ e).regions (by decide))
    intro i
    rw [freeSource, (leaveScopes_frame _ e).entry (by decide), entry_emit, entry_setEntry]
    split
    · simp [Entry.zero]
    · exact h i
  · exact h

theorem noneMirrored_convertRecord (l : Bool) (s : State) (r : Record) (h : NoneMirrored s) :
    NoneMirrored (convertRecord l s r) := by
  have h1 : NoneMirrored (freeRecordBuffer (markRecord s r) r) := by
    refine NoneMirrored.of_regions ?_ ((freeRecordBuffer_frame _ r).regions (by decide))
    unfold markRecord
    split
    · split
      · exact noneMirrored_mark _ _ _ h
      · exact h
    · split
      · exact noneMirrored_mark _ _ _ h
      · exact h
    · exact h
  unfold convertRecord
  dsimp only
  split
  · have h2 := h1.of_regions ((loseNote_frame _ r).regions (by decide))
    unfold drainRegionOf
    split
    · exact noneMirrored_drainEntry _ _ h2
    · exact h2
  · exact h1

theorem noneMirrored_convertReplay (l : Bool) :
    ∀ (rs : List Replayed) (s : State), NoneMirrored s → NoneMirrored (convertReplay l rs s)
  | [], _, h => h
  | r :: rs, s, h =>
    noneMirrored_convertReplay l rs _
      (noneMirrored_convertRecord l _ r.record (h.of_regions ((modTx_frame s _).regions (by decide))))

theorem noneMirrored_convertQueued (l : Bool) :
    ∀ (rs : List (QueueClass × Record)) (s : State), NoneMirrored s → NoneMirrored (convertQueued l rs s)
  | [], _, h => h
  | (q, r) :: rs, s, h =>
    noneMirrored_convertQueued l rs _
      (noneMirrored_convertRecord l _ r (h.of_regions ((popQueue_frame s q).regions (by decide))))

theorem noneMirrored_abandonSegment (s : State) (m : Bool) (h : NoneMirrored s) : NoneMirrored (abandonSegment s m) := by
  unfold abandonSegment
  split
  · refine NoneMirrored.of_regions ?_ ((dropSegment_frame _ _).regions (by decide))
    have h1 := h.of_regions ((releaseBlock_frame s).regions (by decide))
    split
    · exact noneMirrored_mark _ _ _ h1
    · exact h1
  · exact h

theorem noneMirrored_resyncLeavesUp (s : State) (h : NoneMirrored s) : NoneMirrored (resyncLeavesUp s) :=
  (noneMirrored_abandonSegment s true h).of_regions ((releaseDiscarding_frame _).regions (by decide))

theorem noneMirrored_sweep (s : State) : NoneMirrored (sweep s) := by
  intro e
  rw [entry_sweep]
  split
  · simp
  · assumption

/-! ## The conversions empty what they convert -/

theorem tx_convertReplay (l : Bool) :
    ∀ (rs : List Replayed) (s : State),
      (convertReplay l rs s).tx = if rs = [] then s.tx else { s.tx with replay := [] }
  | [], s => by simp [convertReplay]
  | r :: rs, s => by
    have e := (convertRecord_frame l (s.modTx fun t => { t with replay := rs }) r.record).tx (by decide)
    rw [convertReplay, tx_convertReplay l rs, e]
    by_cases h : rs = [] <;> simp [h]

theorem replay_convertReplay (l : Bool) (s : State) :
    (convertReplay l s.tx.replay s).tx = { s.tx with replay := [] } := by
  rw [tx_convertReplay]
  split
  · rename_i h
    rw [← h]
  · rfl

theorem capture_popQueue (s : State) (q : QueueClass) :
    (popQueue s q).capture = s.capture.setQueue q (s.capture.queueOf q).tail :=
  (slotFreed_frame _ q).capture (by decide)

/-- The records of one queue in a list of conversions. -/
abbrev ofQueue (q : QueueClass) (rs : List (QueueClass × Record)) : Nat := (rs.filter fun x => x.1 = q).length

theorem capture_convertQueued (l : Bool) :
    ∀ (rs : List (QueueClass × Record)) (s : State),
      (convertQueued l rs s).capture =
        { s.capture with sync := s.capture.sync.drop (ofQueue .sync rs), async := s.capture.async.drop (ofQueue .async rs) }
  | [], s => rfl
  | (q, r) :: rs, s => by
    rw [convertQueued, capture_convertQueued l rs, (convertRecord_frame l _ r).capture (by decide), capture_popQueue]
    cases q <;> simp [Capture.setQueue, Capture.queueOf, ofQueue, List.drop_tail]

theorem ofQueue_mergeByCap :
    ∀ (n : Nat) (as bs : List Record), as.length + bs.length < n →
      ofQueue .sync (mergeByCap n as bs) = as.length ∧ ofQueue .async (mergeByCap n as bs) = bs.length
  | 0, _, _, h => absurd h (Nat.not_lt_zero _)
  | n + 1, [], bs, _ => by simp [mergeByCap, ofQueue, List.filter_map, Function.comp_def]
  | n + 1, a :: as, [], _ => by simp [mergeByCap, ofQueue, List.filter_map, Function.comp_def]
  | n + 1, a :: as, b :: bs, h => by
    simp only [List.length_cons] at h
    unfold mergeByCap
    split
    · have := ofQueue_mergeByCap n (a :: as) bs (by simp only [List.length_cons]; omega)
      simp_all [ofQueue]
    · have := ofQueue_mergeByCap n as (b :: bs) (by simp only [List.length_cons]; omega)
      simp_all [ofQueue]

/-- The conversion of the send queues leaves both empty (R37, R38). -/
theorem capture_convertQueues (l : Bool) (s : State) :
    (convertQueues l s).capture = { s.capture with sync := [], async := [] } := by
  have h := ofQueue_mergeByCap (s.capture.sync.length + s.capture.async.length + 1) s.capture.sync s.capture.async
    (Nat.lt_succ_self _)
  rw [convertQueues, capture_convertQueued, h.1, h.2]
  simp

/-! ## The segment in progress -/

theorem segment_releaseBlock (s : State) : (releaseBlock s).resync.segment = s.resync.segment := by
  unfold releaseBlock
  split
  · simp only [(slotFreed_frame _ _).resync (by decide), (endHoldOf_frame _ _).resync (by decide),
      State.modResync_resync, freeBuffer]
  · rfl

theorem segment_dropSegment (s : State) (sg : Segment) : (dropSegment s sg).resync.segment = none := by
  unfold dropSegment
  dsimp only
  split
  · rw [switchAbandoned, failFences]
    have := (completeFences_frame (s.modResync fun r => { r with segment := none }) (fun f => f.covers sg.region)
      .notDurable .resyncAbandoned (some sg.region)).resync (by decide)
    rw [this]
    rfl
  · rfl

theorem segment_abandonSegment (s : State) (m : Bool) : (abandonSegment s m).resync.segment = none := by
  unfold abandonSegment
  split
  · exact segment_dropSegment _ _
  · assumption

theorem segment_resyncLeavesUp (s : State) : (resyncLeavesUp s).resync.segment = none := by
  unfold resyncLeavesUp releaseDiscarding
  split
  · rw [segment_releaseBlock, segment_abandonSegment]
  · exact segment_abandonSegment _ _

/-! ## The Command Unit and the time base -/

/-- From `s` to `t` the Command Unit keeps everything but its pending CLOSEs (R143), and the time base stands. -/
structure Steady (s t : State) : Prop where
  cmd : t.cmd = { s.cmd with pendingClose := t.cmd.pendingClose }
  clock : t.ev.timeBase = s.ev.timeBase

theorem Steady.of_eq {s t : State} (h : t.cmd = s.cmd) (g : t.ev.timeBase = s.ev.timeBase) : Steady s t :=
  ⟨by rw [h], g⟩

theorem Steady.trans {s t u : State} (h : Steady s t) (g : Steady t u) : Steady s u :=
  ⟨by rw [g.cmd, h.cmd], g.clock.trans h.clock⟩

/-- An operation that leaves the Command Unit and the Event Writer keeps both. -/
theorem Steady.frame {s t u : State} {ps : List Part} (h : Steady s t) (f : SameBut ps t u)
    (c : Part.cmd ∉ ps) (v : Part.ev ∉ ps) : Steady s u :=
  h.trans (.of_eq (f.cmd c) (by rw [f.ev v]))

theorem Steady.refl (s : State) : Steady s s := .of_eq rfl rfl

theorem Steady.emit {s t : State} (h : Steady s t) (ev : Event) : Steady s (emit t ev) :=
  h.trans (.of_eq ((emit_frame t ev).cmd (by decide)) (emit_timeBase t ev))

theorem Steady.foldl_emit {α : Type} (f : α → Event) {s : State} : ∀ (l : List α) {t : State}, Steady s t →
    Steady s (l.foldl (fun t x => Machine.emit t (f x)) t)
  | [], _, h => h
  | a :: l, _, h => Steady.foldl_emit f l (h.emit (f a))

theorem Steady.completeFences {s t : State} (h : Steady s t) (p o c r) : Steady s (completeFences t p o c r) :=
  Steady.foldl_emit _ _ (h.frame (modFences_frame t _) (by decide) (by decide))

theorem Steady.completeClose {s t : State} (h : Steady s t) (e : RegionIx) : Steady s (completeClose t e) := by
  unfold Machine.completeClose
  split
  · unfold done
    refine Steady.emit (h.trans ?_) _
    exact ⟨rfl, rfl⟩
  · exact h

theorem Steady.drainEntry {s t : State} (h : Steady s t) (e : RegionIx) : Steady s (drainEntry t e) := by
  unfold Machine.drainEntry
  split
  · exact Steady.completeClose (Steady.frame (Steady.emit (h.frame (setEntry_frame t e _) (by decide) (by decide)) _)
      (leaveScopes_frame _ e) (by decide) (by decide)) e
  · exact h

theorem Steady.convertRecord {s t : State} (h : Steady s t) (l : Bool) (r : Record) :
    Steady s (convertRecord l t r) := by
  have h1 : Steady s (freeRecordBuffer (markRecord t r) r) :=
    (h.frame (markRecord_frame t r) (by decide) (by decide)).frame (freeRecordBuffer_frame _ r) (by decide) (by decide)
  unfold Machine.convertRecord
  dsimp only
  split
  · have h2 : Steady s (loseNote (freeRecordBuffer (markRecord t r) r) r) := by
      unfold loseNote
      split
      · exact h1.emit _
      all_goals exact h1
    unfold drainRegionOf
    split
    · exact h2.drainEntry _
    · exact h2
  · exact h1

theorem Steady.convertReplay (l : Bool) {s : State} : ∀ (rs : List Replayed) {t : State}, Steady s t →
    Steady s (convertReplay l rs t)
  | [], _, h => h
  | r :: rs, t, h =>
    Steady.convertReplay l rs ((h.frame (modTx_frame t _) (by decide) (by decide)).convertRecord l r.record)

theorem Steady.convertQueued (l : Bool) {s : State} : ∀ (rs : List (QueueClass × Record)) {t : State}, Steady s t →
    Steady s (convertQueued l rs t)
  | [], _, h => h
  | (q, r) :: rs, t, h =>
    Steady.convertQueued l rs ((h.frame (popQueue_frame t q) (by decide) (by decide)).convertRecord l r)

theorem Steady.claimLagging {s t : State} (h : Steady s t) (e : RegionIx) (c f) : Steady s (claimLagging t e c f) := by
  unfold Machine.claimLagging
  split
  · exact Steady.frame (Steady.completeFences (Steady.emit (h.frame (setEntry_frame t e _) (by decide) (by decide)) _)
      _ _ _ _) (leftMirrored_frame _ e) (by decide) (by decide)
  · exact h

theorem Steady.lossState {s t : State} (h : Steady s t) : Steady s (lossState t) := by
  unfold Machine.lossState
  split
  · unfold sweep
    generalize entryList = l
    generalize g : enterCalling t = u
    have h1 : Steady s u := g ▸ h.frame (enterCalling_frame t) (by decide) (by decide)
    clear g
    induction l generalizing u with
    | nil => exact h1
    | cons e l ih => exact ih _ (h1.claimLagging e _ _)
  · exact h.frame (enterDisabled_frame t) (by decide) (by decide)

theorem Steady.lossTransmitter {s t : State} (h : Steady s t) (c : LossCause) : Steady s (lossTransmitter t c) := by
  unfold Machine.lossTransmitter
  dsimp only
  refine Steady.convertReplay true _ ?_
  split
  · exact h.frame (modTx_frame _ _) (by decide) (by decide)
  · exact (h.frame (clearControl_frame t) (by decide) (by decide)).frame (modTx_frame _ _) (by decide) (by decide)

theorem Steady.resyncLeavesUp {s t : State} (h : Steady s t) : Steady s (resyncLeavesUp t) := by
  have h1 : Steady s (abandonSegment t true) := by
    unfold abandonSegment
    split
    · rename_i sg _
      have h2 := (h.frame (releaseBlock_frame t) (by decide) (by decide)).frame
        (mark_frame _ sg.region sg.index) (by decide) (by decide)
      dsimp only
      rw [if_pos rfl]
      unfold dropSegment
      dsimp only
      split
      · exact Steady.completeFences (h2.frame (modResync_frame _ _) (by decide) (by decide)) _ _ _ _
      · exact h2.frame (modResync_frame _ _) (by decide) (by decide)
    · exact h
  exact h1.frame (releaseDiscarding_frame _) (by decide) (by decide)

theorem Steady.completeDisconnect {s t : State} (h : Steady s t) : Steady s (completeDisconnect t) := by
  unfold Machine.completeDisconnect
  split
  · exact Steady.emit (h.frame (modSession_frame t _) (by decide) (by decide)) _
  · exact h

/-! ## The teardown -/

theorem fences_failAllFences (s : State) : (failAllFences s).fences = [] := by
  simp [failAllFences, fences_completeFences]

theorem session_completeDisconnect (s : State) :
    (completeDisconnect s).session = { s.session with pendingDisconnect := none } := by
  unfold completeDisconnect
  split
  · simp only [done, (emit_frame _ _).session (by decide), State.modSession_session]
  · rename_i h
    rw [← h]

/-- The transmitter after its part of the teardown (R72). -/
theorem tx_lossTransmitter (s : State) (c : LossCause) :
    (lossTransmitter s c).tx =
      { s.tx with
        control := if c = .disconnected then s.tx.control else []
        replay := [], timer := none, cursor := none, timeouts := 0, syncRun := 0, suspended := false } := by
  unfold lossTransmitter
  dsimp only
  rw [replay_convertReplay]
  split <;> rfl

theorem session_lossState (s : State) :
    (lossState s).session =
      if s.session.state = .up then (enterCalling s).session else (enterDisabled s).session := by
  unfold lossState
  split
  · exact (sweep_frame (enterCalling s)).session (by decide)
  · rfl

/-- The teardown up to its last step (R55): everything but the JOIN of a part that calls again. -/
abbrev lossBody (s : State) (c : LossCause) (part : BitVec 32) : State :=
  let s3 := convertQueues true (lossTransmitter (lossState s) c)
  let s5 := failAllFences (if s.session.state = .up then resyncLeavesUp s3 else s3)
  let s6 := s5.modRx fun r => { r with ackTimer := none }
  completeDisconnect (emit s6 (.sessionDown c s.session.epoch s6.tx.highest (highestAccepted s6.rx) part))

theorem loseSession_eq (s : State) (c : LossCause) (part : BitVec 32) :
    loseSession s c part =
      if s.session.state = .up then beginCalling (lossBody s c part) else lossBody s c part := by
  by_cases h : s.session.state = .up <;> simp [loseSession, lossBody, h]

/-- The last steps of the teardown change no more than its events, the JOIN and the pending DISCONNECT. -/
theorem lossBody_frame (s : State) (c : LossCause) (part : BitVec 32) :
    SameBut [.session, .rx, .fences, .ev, .stats]
      (if s.session.state = .up then resyncLeavesUp (convertQueues true (lossTransmitter (lossState s) c))
        else convertQueues true (lossTransmitter (lossState s) c)) (lossBody s c part) :=
  ((((failAllFences_frame _).mono rfl).then (modRx_frame _ _) rfl).then (emit_frame _ _) rfl).then
    (completeDisconnect_frame _) rfl

section body
variable (s : State) (c : LossCause) (part : BitVec 32)

theorem regions_lossBody :
    (lossBody s c part).regions =
      (if s.session.state = .up then resyncLeavesUp (convertQueues true (lossTransmitter (lossState s) c))
        else convertQueues true (lossTransmitter (lossState s) c)).regions :=
  (lossBody_frame s c part).regions (by decide)

theorem capture_lossBody : (lossBody s c part).capture = { s.capture with sync := [], async := [] } := by
  have e : (convertQueues true (lossTransmitter (lossState s) c)).capture = { s.capture with sync := [], async := [] } := by
    rw [capture_convertQueues, (lossTransmitter_frame _ c).capture (by decide), (lossState_frame s).capture (by decide)]
  rw [(lossBody_frame s c part).capture (by decide)]
  split
  · rw [(resyncLeavesUp_frame _).capture (by decide), e]
  · exact e

theorem tx_lossBody :
    (lossBody s c part).tx =
      { s.tx with
        control := if c = .disconnected then s.tx.control else []
        replay := [], timer := none, cursor := none, timeouts := 0, syncRun := 0, suspended := false } := by
  have e : (convertQueues true (lossTransmitter (lossState s) c)).tx =
      { s.tx with
        control := if c = .disconnected then s.tx.control else []
        replay := [], timer := none, cursor := none, timeouts := 0, syncRun := 0, suspended := false } := by
    rw [(convertQueues_frame true _).tx (by decide), tx_lossTransmitter, (lossState_frame s).tx (by decide)]
  rw [(lossBody_frame s c part).tx (by decide)]
  split
  · rw [(resyncLeavesUp_frame _).tx (by decide), e]
  · exact e

theorem rx_lossBody : (lossBody s c part).rx = { s.rx with ackTimer := none } := by
  have e : ∀ t : State, t.rx = s.rx →
      (completeDisconnect (emit ((failAllFences t).modRx fun r => { r with ackTimer := none })
        (.sessionDown c s.session.epoch ((failAllFences t).modRx fun r => { r with ackTimer := none }).tx.highest
          (highestAccepted ((failAllFences t).modRx fun r => { r with ackTimer := none }).rx) part))).rx =
        { s.rx with ackTimer := none } := by
    intro t h
    rw [(completeDisconnect_frame _).rx (by decide), (emit_frame _ _).rx (by decide), State.modRx_rx,
      (failAllFences_frame _).rx (by decide), h]
  refine e _ ?_
  have g : (convertQueues true (lossTransmitter (lossState s) c)).rx = s.rx := by
    rw [(convertQueues_frame true _).rx (by decide), (lossTransmitter_frame _ c).rx (by decide),
      (lossState_frame s).rx (by decide)]
  split
  · rw [(resyncLeavesUp_frame _).rx (by decide), g]
  · exact g

theorem fences_lossBody : (lossBody s c part).fences = [] := by
  rw [lossBody, (completeDisconnect_frame _).fences (by decide), (emit_frame _ _).fences (by decide),
    State.modRx_fences, fences_failAllFences]

theorem session_lossBody :
    (lossBody s c part).session =
      { (if s.session.state = .up then (enterCalling s).session else (enterDisabled s).session) with
        pendingDisconnect := none } := by
  have g : (convertQueues true (lossTransmitter (lossState s) c)).session =
      if s.session.state = .up then (enterCalling s).session else (enterDisabled s).session := by
    rw [(convertQueues_frame true _).session (by decide), (lossTransmitter_frame _ c).session (by decide),
      session_lossState]
  have e : ∀ t : State, (completeDisconnect (emit ((failAllFences t).modRx fun r => { r with ackTimer := none })
        (.sessionDown c s.session.epoch ((failAllFences t).modRx fun r => { r with ackTimer := none }).tx.highest
          (highestAccepted ((failAllFences t).modRx fun r => { r with ackTimer := none }).rx) part))).session =
        { t.session with pendingDisconnect := none } := by
    intro t
    rw [session_completeDisconnect, (emit_frame _ _).session (by decide), State.modRx_session,
      (failAllFences_frame _).session (by decide)]
  refine (e _).trans ?_
  split
  · rename_i h
    rw [(resyncLeavesUp_frame _).session (by decide), g, if_pos h]
  · rename_i h
    rw [g, if_neg h]

theorem noneMirrored_lossBody (h : s.session.state = .up) : NoneMirrored (lossBody s c part) := by
  refine NoneMirrored.of_regions ?_ (regions_lossBody s c part)
  rw [if_pos h]
  refine noneMirrored_resyncLeavesUp _ (noneMirrored_convertQueued true _ _ ?_)
  unfold lossTransmitter
  dsimp only
  refine noneMirrored_convertReplay true _ _ ?_
  have h1 : NoneMirrored (lossState s) := by
    rw [lossState, if_pos h]
    exact noneMirrored_sweep _
  split
  · exact h1.of_regions rfl
  · exact h1.of_regions rfl

theorem segment_lossBody (h : s.session.state = .up) : (lossBody s c part).resync.segment = none := by
  rw [(lossBody_frame s c part).resync (by decide), if_pos h, segment_resyncLeavesUp]

end body

/-- What a JOIN at the end of a teardown adds (R46). -/
theorem beginCalling_eq (s : State) :
    (beginCalling s).session =
        { s.session with
          joinTimer := if s.session.carrier then some (s.ev.timeBase + s.params.joinInterval) else s.session.joinTimer } ∧
      (beginCalling s).tx =
        { s.tx with
          control := s.tx.control ++
            if s.session.carrier then [⟨0, .join s.session.call s.session.lastEpoch⟩] else [] } := by
  unfold beginCalling
  split
  · simp_all [sendJoin, startJoinTimer, generate, after]
  · exact ⟨rfl, by rw [List.append_nil]⟩

/-- The teardown of a session leaves of the session, the links, the queues and the fences what R55 says, and at the
control list the frames kept and the JOIN; from UP no source stays MIRRORED and no segment in progress. -/
theorem sessionEnded_loseSession (s : State) (c : LossCause) (part : BitVec 32) :
    SessionEnded s (loseSession s c part) ∧
      (s.session.state = .up →
        NoneMirrored (loseSession s c part) ∧ (loseSession s c part).resync.segment = none) ∧
      (loseSession s c part).tx.control =
        (if c = .disconnected then s.tx.control else []) ++
          (if s.session.state = .up ∧ s.session.carrier = true then
            [⟨0, .join (loseSession s c part).session.call (loseSession s c part).session.lastEpoch⟩] else []) ∧
      (loseSession s c part).session.carrier = s.session.carrier := by
  have hs := session_lossBody s c part
  have hx := tx_lossBody s c part
  have hc := capture_lossBody s c part
  have hr := rx_lossBody s c part
  have hf := fences_lossBody s c part
  by_cases h : s.session.state = .up
  · rw [loseSession_eq, if_pos h]
    rw [if_pos h] at hs
    obtain ⟨b1, b2⟩ := beginCalling_eq (lossBody s c part)
    have bf := beginCalling_frame (lossBody s c part)
    have bc := bf.capture (by decide)
    have br := bf.rx (by decide)
    have bn := bf.fences (by decide)
    have bg := bf.resync (by decide)
    refine ⟨?_, fun _ => ⟨(noneMirrored_lossBody s c part h).of_regions (bf.regions (by decide)), ?_⟩, ?_, ?_⟩
    · simp [SessionEnded, bc, br, bn, b1, b2, hs, hx, hc, hr, hf, enterCalling, h]
    · rw [bg]
      exact segment_lossBody s c part h
    all_goals simp [b1, b2, hs, hx, enterCalling, h]
  · rw [loseSession_eq, if_neg h]
    rw [if_neg h] at hs
    refine ⟨?_, fun g => absurd g h, ?_, ?_⟩
    · simp [SessionEnded, hs, hx, hc, hr, hf, enterDisabled, h]
    all_goals simp [hs, hx, enterDisabled, h]

theorem steady_lossBody (s : State) (c : LossCause) (part : BitVec 32) : Steady s (lossBody s c part) := by
  have h1 : Steady s (convertQueues true (lossTransmitter (lossState s) c)) :=
    Steady.convertQueued true _ ((Steady.refl s).lossState.lossTransmitter c)
  have h2 : Steady s (if s.session.state = .up then resyncLeavesUp (convertQueues true (lossTransmitter (lossState s) c))
      else convertQueues true (lossTransmitter (lossState s) c)) := by
    split
    · exact h1.resyncLeavesUp
    · exact h1
  exact (Steady.emit ((h2.completeFences (fun _ => true) .notDurable .sessionDown none).frame (modRx_frame _ _)
    (by decide) (by decide)) _).completeDisconnect

theorem params_lossBody (s : State) (c : LossCause) (part : BitVec 32) : (lossBody s c part).params = s.params := by
  rw [(lossBody_frame s c part).params (by decide)]
  have h : (convertQueues true (lossTransmitter (lossState s) c)).params = s.params := by
    rw [(convertQueues_frame true _).params (by decide), (lossTransmitter_frame _ c).params (by decide),
      (lossState_frame s).params (by decide)]
  split
  · rw [(resyncLeavesUp_frame _).params (by decide), h]
  · exact h

/-- The teardown makes of the session what `lostSession` says, and keeps of the link halves and of the Command Unit what
R44, R55, R72 and R143 say. -/
theorem kept_loseSession (s : State) (c : LossCause) (part : BitVec 32) :
    (loseSession s c part).session = lostSession s s.session ∧
      (loseSession s c part).rx = { s.rx with ackTimer := none } ∧
      (loseSession s c part).tx.lossClaim = s.tx.lossClaim ∧
      Steady s (loseSession s c part) := by
  have hs := session_lossBody s c part
  have hx := tx_lossBody s c part
  have hr := rx_lossBody s c part
  have hd := steady_lossBody s c part
  by_cases h : s.session.state = .up
  · rw [loseSession_eq, if_pos h]
    rw [if_pos h] at hs
    obtain ⟨b1, b2⟩ := beginCalling_eq (lossBody s c part)
    have bf := beginCalling_frame (lossBody s c part)
    refine ⟨?_, (bf.rx (by decide)).trans hr, by simp [b2, hx], hd.frame bf (by decide) (by decide)⟩
    simp [b1, hs, lostSession, h, enterCalling, params_lossBody, hd.clock]
  · rw [loseSession_eq, if_neg h]
    rw [if_neg h] at hs
    exact ⟨by rw [hs, lostSession, if_neg h]; rfl, hr, by rw [hx], hd⟩

end Sys2Proof.Machine
end

