-- ==== Sys2Proof/Laws/Holds.lean ====
section
/-! SUPPORT. Which operations end the hold on the head request, and that they change nothing else of the Memory Path
(R19, R24, R29, R89, R132). -/

namespace Sys2Proof.Machine

/-! ## The relation -/

theorem HoldEnds.of_eq {m m' : MemPath} {p : Prop} (h : m' = m) (g : ¬p) : HoldEnds m m' p :=
  ⟨fun x => absurd x g, fun _ => h⟩

theorem HoldEnds.congr {m m' : MemPath} {p q : Prop} (h : HoldEnds m m' p) (g : p ↔ q) : HoldEnds m m' q := by
  rwa [← show p = q from propext g]

/-- A hold that does not stand cannot end again: the second of two ends counts where the first did not come. -/
theorem HoldEnds.then {m m1 m2 : MemPath} {p : Prop} {q : HoldReason → Prop} (h : HoldEnds m m1 p)
    (g : HoldEnds m1 m2 (q m1.hold)) (none : ¬q .none) : HoldEnds m m2 (p ∨ q m.hold) := by
  constructor
  · intro x
    by_cases hp : p
    · have e := h.1 hp
      rw [g.2 (by rw [e]; exact none), e]
    · have e := h.2 hp
      subst e
      exact g.1 (x.resolve_left hp)
  · intro x
    have e := h.2 fun y => x (.inl y)
    subst e
    exact g.2 fun y => x (.inr y)

/-- The end of a hold leaves the head request. -/
theorem HoldEnds.head {m m' : MemPath} {p : Prop} (h : HoldEnds m m' p) : m'.head = m.head := by
  by_cases g : p
  · rw [h.1 g]
  · rw [h.2 g]

/-! ## The operations -/

theorem holdEnds_endHoldOf (s : State) (r : HoldReason) : HoldEnds s.mem (endHoldOf s r).mem (s.mem.hold = r) := by
  unfold endHoldOf
  split
  · exact ⟨fun _ => rfl, fun x => absurd ‹_› x⟩
  · exact .of_eq rfl ‹_›

theorem holdEnds_leftMirrored (s : State) (e : RegionIx) : HoldEnds s.mem (leftMirrored s e).mem (HeldOn s e) := by
  unfold leftMirrored
  split
  · exact ⟨fun _ => rfl, fun x => absurd ‹_› x⟩
  · exact .of_eq rfl ‹_›

theorem holdEnds_slotFreed (s : State) (q : QueueClass) :
    HoldEnds s.mem (slotFreed s q).mem (q = .sync ∧ s.mem.hold = .syncFull) := by
  cases q
  · exact (holdEnds_endHoldOf s .syncFull).congr (by simp)
  · exact .of_eq rfl (by simp)

/-- The release of a block ends the holds that wait for the block or for its slot. -/
theorem holdEnds_releaseBlock (s : State) : HoldEnds s.mem (releaseBlock s).mem (ReleaseEndsHold s) := by
  unfold releaseBlock
  split
  · rename_i b q h
    refine ((holdEnds_endHoldOf _ .blockRead).then (q := fun r => q = .sync ∧ r = .syncFull)
      (holdEnds_slotFreed _ q) (by simp)).congr ?_
    constructor
    · exact fun x => ⟨b, q, h, x⟩
    · rintro ⟨b', q', h', x⟩
      rw [h] at h'
      cases h'
      exact x
  · rename_i h
    exact .of_eq rfl fun ⟨b, q, h', _⟩ => by simp [h] at h'

/-- The region of the head request depends on the head and on the ranges of the non-FREE entries. -/
theorem headRegion_congr {s t : State} (h : t.mem.head = s.mem.head)
    (g : ∀ e a, entryHolds (t.entry e) a = entryHolds (s.entry e) a) : headRegion t = headRegion s := by
  simp only [headRegion, h, regionAt, g]

/-- A change of state between states that are not FREE keeps the range of an entry. -/
theorem entryHolds_state (en : Entry) (st : RegionState) (a : Nat) (h : st = .free ↔ en.state = .free) :
    entryHolds { en with state := st } a = entryHolds en a := by
  have e : (st != .free) = (en.state != .free) := by
    rw [Bool.eq_iff_iff, bne_iff_ne, bne_iff_ne]
    exact not_congr h
  simp only [entryHolds, e]
  rfl

/-- A claim to LAGGING ends the hold on its region where it takes effect (R19). -/
theorem holdEnds_claimLagging (s : State) (e : RegionIx) (c f) :
    HoldEnds s.mem (claimLagging s e c f).mem ((s.entry e).state = .mirrored ∧ HeldOn s e) := by
  unfold claimLagging
  split
  · rename_i h
    have m : ∀ u : State, SameBut [.regions, .fences, .ev, .stats] s u → u.mem = s.mem := fun u k => k.mem (by decide)
    have k : SameBut [.regions, .fences, .ev, .stats] s (failFences (emit (setEntry s e { s.entry e with state := .lagging })
        (.regionState c e .source .mirrored .lagging)) e f) :=
      (((setEntry_frame s e _).mono rfl).then (emit_frame _ _) rfl).then (failFences_frame _ _ _) rfl
    have hm := m _ k
    have hr : headRegion (failFences (emit (setEntry s e { s.entry e with state := .lagging })
        (.regionState c e .source .mirrored .lagging)) e f) = headRegion s := by
      refine headRegion_congr (by rw [hm]) fun i a => ?_
      rw [(failFences_frame _ e f).entry (by decide), entry_emit, entry_setEntry]
      split
      · rename_i x
        subst x
        exact entryHolds_state _ _ a (by simp [h])
      · rfl
    refine HoldEnds.congr (by rw [← hm]; exact holdEnds_leftMirrored _ e) ?_
    simp only [HeldOn, hm, hr, h, true_and]
  · exact .of_eq rfl fun x => absurd x.1 ‹_›

theorem headRegion_claimLagging (s : State) (e : RegionIx) (c f) : headRegion (claimLagging s e c f) = headRegion s := by
  refine headRegion_congr (holdEnds_claimLagging s e c f).head fun i a => ?_
  rw [entry_claimLagging]
  split
  · rename_i x
    obtain ⟨x, y⟩ := x
    subst x
    exact entryHolds_state _ _ a (by simp [y])
  · rfl

/-- The sweep ends a hold on a region that it takes out of MIRRORED (R10, R19). -/
theorem holdEnds_sweep (s : State) :
    HoldEnds s.mem (sweep s).mem (∃ e, (s.entry e).state = .mirrored ∧ HeldOn s e) := by
  have key : ∀ (l : List RegionIx) (t : State), l.Nodup →
      HoldEnds t.mem (l.foldl (fun t e => claimLagging t e .sessionDown .sessionDown) t).mem
        (∃ e ∈ l, (t.entry e).state = .mirrored ∧ HeldOn t e) := by
    intro l
    induction l with
    | nil => exact fun t _ => .of_eq rfl (by simp)
    | cons e l ih =>
      intro t nd
      obtain ⟨ne, nd⟩ := List.nodup_cons.mp nd
      have h := holdEnds_claimLagging t e .sessionDown .sessionDown
      have g := ih (claimLagging t e .sessionDown .sessionDown) nd
      have st : ∀ i ∈ l, (claimLagging t e .sessionDown .sessionDown).entry i = t.entry i := by
        intro i m
        rw [entry_claimLagging, if_neg]
        rintro ⟨x, _⟩
        subst x
        exact ne m
      have same : (∃ i ∈ l, ((claimLagging t e .sessionDown .sessionDown).entry i).state = .mirrored ∧
          HeldOn (claimLagging t e .sessionDown .sessionDown) i) ↔
          ∃ i ∈ l, (t.entry i).state = .mirrored ∧
            ((claimLagging t e .sessionDown .sessionDown).mem.hold = .syncFull ∨
              (claimLagging t e .sessionDown .sessionDown).mem.hold = .blockRead) ∧ headRegion t = some i := by
        simp only [HeldOn, headRegion_claimLagging]
        exact exists_congr fun i => and_congr_right fun m => by rw [st i m]
      refine (h.then (q := fun r => ∃ i ∈ l, (t.entry i).state = .mirrored ∧
        (r = .syncFull ∨ r = .blockRead) ∧ headRegion t = some i) (g.congr same) (by simp)).congr ?_
      simp only [List.exists_mem_cons_iff, HeldOn]
  exact (key entryList s (List.nodup_finRange 32)).congr (by simp [entryList])

/-! ## The conversions -/

theorem holdEnds_popQueue (s : State) (q : QueueClass) :
    HoldEnds s.mem (popQueue s q).mem (q = .sync ∧ s.mem.hold = .syncFull) :=
  holdEnds_slotFreed (s.modCapture fun c => c.setQueue q (c.queueOf q).tail) q

/-- The conversion of records ends a SYNC_FULL hold with the first that it takes from the SYNC queue (R24, R37). -/
theorem holdEnds_convertQueued (l : Bool) : ∀ (rs : List (QueueClass × Record)) (s : State),
    HoldEnds s.mem (convertQueued l rs s).mem (s.mem.hold = .syncFull ∧ ∃ x ∈ rs, x.1 = .sync)
  | [], s => .of_eq rfl (by simp)
  | (q, r) :: rs, s => by
    have h := holdEnds_popQueue s q
    have m : (convertRecord l (popQueue s q) r).mem = (popQueue s q).mem := (convertRecord_frame l _ r).mem (by decide)
    have g := holdEnds_convertQueued l rs (convertRecord l (popQueue s q) r)
    rw [m] at g
    refine (h.then (q := fun x => x = .syncFull ∧ ∃ x ∈ rs, x.1 = .sync) g (by simp)).congr ?_
    simp only [List.exists_mem_cons_iff]
    tauto

theorem mem_sync_mergeByCap (n : Nat) (as bs : List Record) (h : as.length + bs.length < n) :
    (∃ x ∈ mergeByCap n as bs, x.1 = .sync) ↔ as ≠ [] := by
  have k := (ofQueue_mergeByCap n as bs h).1
  rw [← List.length_pos_iff, ← k, ofQueue, List.length_pos_iff_exists_mem]
  simp [List.mem_filter]

theorem holdEnds_convertQueues (l : Bool) (s : State) :
    HoldEnds s.mem (convertQueues l s).mem (s.mem.hold = .syncFull ∧ s.capture.sync ≠ []) :=
  (holdEnds_convertQueued l _ s).congr (and_congr_right fun _ => mem_sync_mergeByCap _ _ _ (Nat.lt_succ_self _))

/-! ## The end of the segment in progress -/

theorem reserved_releaseBlock (s : State) : (releaseBlock s).resync.reserved = none := by
  unfold releaseBlock
  split
  · simp only [(slotFreed_frame _ _).resync (by decide), (endHoldOf_frame _ _).resync (by decide),
      State.modResync_resync]
  · simpa

theorem block_releaseBlock (s : State) : (releaseBlock s).resync.block = .idle := by
  unfold releaseBlock
  split
  · simp only [(slotFreed_frame _ _).resync (by decide), (endHoldOf_frame _ _).resync (by decide),
      State.modResync_resync]
  · rfl

theorem dropSegment_block (s : State) (sg : Segment) : (dropSegment s sg).resync.block = s.resync.block := by
  unfold dropSegment
  dsimp only
  split
  · rw [(switchAbandoned_frame _ _).resync (by decide)]
    rfl
  · rfl

theorem mem_dropSegment (s : State) (sg : Segment) : (dropSegment s sg).mem = s.mem :=
  (dropSegment_frame s sg).mem (by decide)

theorem holdEnds_abandonSegment (s : State) (m : Bool) :
    HoldEnds s.mem (abandonSegment s m).mem (s.resync.segment ≠ none ∧ ReleaseEndsHold s) := by
  unfold abandonSegment
  split
  · rename_i sg h
    rw [mem_dropSegment]
    refine HoldEnds.congr (p := ReleaseEndsHold s) ?_ (by simp [h])
    split
    · rw [(mark_frame _ _ _).mem (by decide)]
      exact holdEnds_releaseBlock s
    · exact holdEnds_releaseBlock s
  · rename_i h
    exact .of_eq rfl (by simp [h])

/-- The session's departure from UP ends the holds that wait for the block under way or its slot (R89, R94, R96). -/
theorem holdEnds_resyncLeavesUp (s : State) :
    HoldEnds s.mem (resyncLeavesUp s).mem (UnderWay s ∧ ReleaseEndsHold s) := by
  unfold resyncLeavesUp releaseDiscarding
  have h := holdEnds_abandonSegment s true
  cases g : s.resync.segment with
  | some sg =>
    have b : (abandonSegment s true).resync.block = .idle := by
      simp only [abandonSegment, g, if_true]
      rw [dropSegment_block, (mark_frame _ _ _).resync (by decide), block_releaseBlock]
    rw [if_neg (by rw [b]; decide)]
    exact h.congr (by simp [UnderWay, g])
  | none =>
    have e : abandonSegment s true = s := by simp [abandonSegment, g]
    rw [e]
    split
    · rename_i b
      exact (holdEnds_releaseBlock s).congr (by simp [UnderWay, b])
    · rename_i b
      exact .of_eq rfl (by simp [UnderWay, b, g])

/-! ## The conversions and removals change of the Resync Engine its buffers only -/

theorem resync_freeRecordBuffer (s : State) (r : Record) :
    (freeRecordBuffer s r).resync = { s.resync with buffers := (freeRecordBuffer s r).resync.buffers } := by
  unfold freeRecordBuffer
  split <;> rfl

theorem resync_foldl_freeRecordBuffer : ∀ (l : List Record) (s : State),
    (l.foldl freeRecordBuffer s).resync = { s.resync with buffers := (l.foldl freeRecordBuffer s).resync.buffers }
  | [], _ => rfl
  | r :: l, s => by
    rw [List.foldl_cons, resync_foldl_freeRecordBuffer l, resync_freeRecordBuffer]

theorem resync_removeQueued (s : State) (e : RegionIx) :
    (removeQueued s e).resync = { s.resync with buffers := (removeQueued s e).resync.buffers } := by
  unfold removeQueued
  dsimp only
  split
  · rw [(slotFreed_frame _ _).resync (by decide), resync_foldl_freeRecordBuffer]
    rfl
  · rw [resync_foldl_freeRecordBuffer]
    rfl

theorem resync_convertRecord (l : Bool) (s : State) (r : Record) :
    (convertRecord l s r).resync = { s.resync with buffers := (convertRecord l s r).resync.buffers } := by
  have h : (freeRecordBuffer (markRecord s r) r).resync =
      { s.resync with buffers := (freeRecordBuffer (markRecord s r) r).resync.buffers } := by
    rw [resync_freeRecordBuffer, (markRecord_frame s r).resync (by decide)]
  unfold convertRecord
  dsimp only
  split
  · rw [(drainRegionOf_frame _ r).resync (by decide), (loseNote_frame _ r).resync (by decide)]
    exact h
  · exact h

theorem resync_convertReplay (l : Bool) : ∀ (rs : List Replayed) (s : State),
    (convertReplay l rs s).resync = { s.resync with buffers := (convertReplay l rs s).resync.buffers }
  | [], _ => rfl
  | r :: rs, s => by
    rw [convertReplay, resync_convertReplay l rs, resync_convertRecord]
    rfl

theorem resync_convertQueued (l : Bool) : ∀ (rs : List (QueueClass × Record)) (s : State),
    (convertQueued l rs s).resync = { s.resync with buffers := (convertQueued l rs s).resync.buffers }
  | [], _ => rfl
  | (q, r) :: rs, s => by
    rw [convertQueued, resync_convertQueued l rs, resync_convertRecord, (popQueue_frame s q).resync (by decide)]

theorem resync_convertQueues (l : Bool) (s : State) :
    (convertQueues l s).resync = { s.resync with buffers := (convertQueues l s).resync.buffers } :=
  resync_convertQueued l _ s

theorem resync_lossTransmitter (s : State) (c : LossCause) :
    (lossTransmitter s c).resync = { s.resync with buffers := (lossTransmitter s c).resync.buffers } := by
  unfold lossTransmitter
  dsimp only
  rw [resync_convertReplay]
  split <;> rfl

/-! ## Entry into REFUSED and the teardown -/

theorem holdEnds_removeQueued (s : State) (e : RegionIx) :
    HoldEnds s.mem (removeQueued s e).mem (s.mem.hold = .syncFull ∧ ∃ x ∈ s.capture.sync, x.region = some e) := by
  have m : ∀ (l : List Record) (t : State), (l.foldl freeRecordBuffer t).mem = t.mem := fun l t =>
    (SameBut.foldl (ps := [.resync]) (fun t r => freeRecordBuffer_frame t r) l t).mem (by decide)
  unfold removeQueued
  dsimp only
  split
  · rename_i h
    have k := holdEnds_slotFreed (((s.capture.sync ++ s.capture.async).filter fun r : Record =>
      r.region == some e).foldl freeRecordBuffer (s.modCapture fun c =>
        { c with sync := c.sync.filter fun r => !(r.region == some e),
                 async := c.async.filter fun r => !(r.region == some e) })) .sync
    rw [m] at k
    refine k.congr ?_
    simp only [List.any_eq_true, beq_iff_eq] at h
    simp [h]
  · rename_i h
    rw [m]
    refine .of_eq rfl fun x => h ?_
    simpa using x.2

theorem holdEnds_abandonOf (s : State) (e : RegionIx) :
    HoldEnds s.mem (abandonOf s e).mem (SegmentOf s e ∧ ReleaseEndsHold s) := by
  unfold abandonOf
  split
  · rename_i sg h
    split
    · rename_i g
      exact (holdEnds_abandonSegment s false).congr (by simp [SegmentOf, h, g])
    · rename_i g
      exact .of_eq rfl (by simp [SegmentOf, h, g])
  · rename_i h
    exact .of_eq rfl (by simp [SegmentOf, h])

theorem entryHolds_abandonOf (s : State) (e i : RegionIx) (a : Nat) :
    entryHolds ((abandonOf s e).entry i) a = entryHolds (s.entry i) a := by
  have m : ∀ (v : State) (k : Nat), entryHolds ((mark v e k).entry i) a = entryHolds (v.entry i) a := by
    intro v k
    rw [(entry_mark v e i k).1]
    rfl
  unfold abandonOf
  split
  · rename_i sg _
    split
    · rename_i g
      unfold abandonSegment
      split
      · rw [(dropSegment_frame _ _).entry (by decide)]
        simp only [Bool.false_eq_true, if_false, (releaseBlock_frame s).entry (by decide)]
      · rfl
    · rfl
  · rfl

/-- The holds that the removals, the abandonment and the transition of an entry into REFUSED end. -/
theorem holdEnds_refusedWork (u : State) (e : RegionIx) :
    HoldEnds u.mem (leftMirrored (abandonOf (removeQueued u e) e) e).mem
      (HeldOn u e ∨ (u.mem.hold = .syncFull ∧ ∃ x ∈ u.capture.sync, x.region = some e) ∨
        (SegmentOf u e ∧ ReleaseEndsHold u)) := by
  have h1 := holdEnds_removeQueued u e
  have h2 := holdEnds_abandonOf (removeQueued u e) e
  have h3 := holdEnds_leftMirrored (abandonOf (removeQueued u e) e) e
  have rs := congrArg Resync.segment (resync_removeQueued u e)
  have rr := congrArg Resync.reserved (resync_removeQueued u e)
  dsimp only at rs rr
  have hr : headRegion (abandonOf (removeQueued u e) e) = headRegion u := by
    refine headRegion_congr (h2.head.trans h1.head) fun i a => ?_
    rw [entryHolds_abandonOf, (removeQueued_frame u e).entry (by decide)]
  have g2 := h2.congr (q := SegmentOf u e ∧ ∃ b q, u.resync.reserved = some (b, q) ∧
      ((removeQueued u e).mem.hold = .blockRead ∨ (q = .sync ∧ (removeQueued u e).mem.hold = .syncFull)))
    (by simp only [SegmentOf, ReleaseEndsHold, rs, rr])
  have g3 := h3.congr (q := ((abandonOf (removeQueued u e) e).mem.hold = .syncFull ∨
      (abandonOf (removeQueued u e) e).mem.hold = .blockRead) ∧ headRegion u = some e) (by simp only [HeldOn, hr])
  have a1 := h1.then (q := fun r => SegmentOf u e ∧ ∃ b q, u.resync.reserved = some (b, q) ∧
      (r = .blockRead ∨ (q = .sync ∧ r = .syncFull))) g2 (by simp)
  have a2 := a1.then (q := fun r => (r = .syncFull ∨ r = .blockRead) ∧ headRegion u = some e) g3 (by simp)
  refine a2.congr ?_
  simp only [HeldOn, ReleaseEndsHold]
  exact or_comm

/-- Entry into REFUSED ends the hold on the region, and those that wait for a slot or the block that it frees (R9, R19,
R36). -/
theorem holdEnds_claimRefused (s : State) (e : RegionIx)
    (h : (s.entry e).state = .mirrored ∨ (s.entry e).state = .lagging) :
    HoldEnds s.mem (claimRefused s e).mem
      (HeldOn s e ∨ (s.mem.hold = .syncFull ∧ ∃ x ∈ s.capture.sync, x.region = some e) ∨
        (SegmentOf s e ∧ ReleaseEndsHold s)) := by
  unfold claimRefused
  dsimp only
  rw [if_pos h, (fenceTest_frame _).mem (by decide)]
  have k : ∀ ev c, SameBut [.regions, .fences, .ev, .stats] s
      (markAll (failFences (emit (setEntry s e { s.entry e with state := .refused }) ev) e c) e) := fun ev c =>
    ((((setEntry_frame s e _).mono rfl).then (emit_frame _ _) rfl).then (failFences_frame _ _ _) rfl).then
      (markAll_frame _ _) rfl
  have ho : ∀ ev c i a, entryHolds
      ((markAll (failFences (emit (setEntry s e { s.entry e with state := .refused }) ev) e c) e).entry i) a =
        entryHolds (s.entry i) a := by
    intro ev c i a
    simp only [markAll, entry_countBy, entry_setEntry, (failFences_frame _ e _).entry (by decide), entry_emit, if_true]
    split
    · rename_i x
      subst x
      exact entryHolds_state (s.entry i) .refused a (by rcases h with h | h <;> simp [h])
    · rfl
  generalize Event.regionState .rejected e .source (s.entry e).state .refused = ev
  have k' := k ev .regionRefused
  have ho' := ho ev .regionRefused
  generalize markAll (failFences (emit (setEntry s e { s.entry e with state := .refused }) ev) e .regionRefused) e = u at *
  have g := holdEnds_refusedWork u e
  rw [k'.mem (by decide)] at g
  refine g.congr ?_
  have hr : headRegion u = headRegion s := headRegion_congr (by rw [k'.mem (by decide)]) ho'
  simp only [HeldOn, SegmentOf, ReleaseEndsHold, hr, k'.mem (by decide), k'.capture (by decide), k'.resync (by decide)]

/-- The holds that a teardown ends (R10, R19, R24, R55). -/
theorem holdEnds_lossBody (s : State) (c : LossCause) (part : BitVec 32) :
    HoldEnds s.mem (lossBody s c part).mem
      ((s.session.state = .up ∧ SweepEndsHold s) ∨ (s.mem.hold = .syncFull ∧ s.capture.sync ≠ [])) := by
  rw [(lossBody_frame s c part).mem (by decide)]
  have hq := holdEnds_convertQueues true (lossTransmitter (lossState s) c)
  rw [(lossTransmitter_frame _ c).mem (by decide), (lossTransmitter_frame _ c).capture (by decide),
    (lossState_frame s).capture (by decide)] at hq
  split
  · rename_i up
    have ls : lossState s = sweep (enterCalling s) := by rw [lossState, if_pos up]
    have h1 : HoldEnds s.mem (lossState s).mem (∃ e, (s.entry e).state = .mirrored ∧ HeldOn s e) := by
      rw [ls]
      exact holdEnds_sweep (enterCalling s)
    have h3 := holdEnds_resyncLeavesUp (convertQueues true (lossTransmitter (lossState s) c))
    have rs := resync_convertQueues true (lossTransmitter (lossState s) c)
    rw [resync_lossTransmitter, (lossState_frame s).resync (by decide)] at rs
    have r1 := congrArg Resync.segment rs
    have r2 := congrArg Resync.reserved rs
    have r3 := congrArg Resync.block rs
    dsimp only at r1 r2 r3
    clear rs
    generalize convertQueues true (lossTransmitter (lossState s) c) = u at *
    have g3 := h3.congr (q := UnderWay s ∧ ∃ b q, s.resync.reserved = some (b, q) ∧
        (u.mem.hold = .blockRead ∨ (q = .sync ∧ u.mem.hold = .syncFull)))
      (by simp only [UnderWay, ReleaseEndsHold, r1, r2, r3])
    have a1 := h1.then (q := fun r => r = .syncFull ∧ s.capture.sync ≠ []) hq (by simp)
    have a2 := a1.then (q := fun r => UnderWay s ∧ ∃ b q, s.resync.reserved = some (b, q) ∧
        (r = .blockRead ∨ (q = .sync ∧ r = .syncFull))) g3 (by simp)
    refine a2.congr ?_
    simp only [SweepEndsHold, ReleaseEndsHold, up, true_and]
    exact or_right_comm
  · rename_i up
    have ls : lossState s = enterDisabled s := by rw [lossState, if_neg up]
    rw [show (lossState s).mem = s.mem by rw [ls]; rfl] at hq
    exact hq.congr (by simp [up])

end Sys2Proof.Machine
end

