-- ==== Sys2Proof/Laws/Marks.lean ====
section
/-! SUPPORT. What DIRTY_MARKS counts (R80, R165): an operation counts each dirty flag that it sets, and of the other
counters at most EVENTS_LOST changes. What the test of R14 makes of a target. -/

namespace Sys2Proof.Machine

/-! ## Counters -/

theorem stats_countBy (s : State) (c d : Stat) (n : Nat) :
    ((countBy s c n).stats)[statIx d] = if d = c then (s.stats)[statIx d] + BitVec.ofNat 64 n else (s.stats)[statIx d] := by
  have inj : statIx d = statIx c ↔ d = c := ⟨by cases c <;> cases d <;> decide, fun h => by rw [h]⟩
  simp only [countBy, State.modStats_stats, getElem_setAt, inj]
  split
  · rename_i h
    rw [h]
  · rfl

theorem stats_count (s : State) (c d : Stat) :
    ((count s c).stats)[statIx d] = if d = c then (s.stats)[statIx d] + 1 else (s.stats)[statIx d] := stats_countBy s c d 1

theorem MarksCounted.of_stats {s t : State} (h : t.stats = s.stats) : MarksCounted s t 0 := by
  constructor
  · simp [h]
  · intro c _ _
    rw [h]

theorem MarksCounted.then {s t u : State} {m n : Nat} (h : MarksCounted s t m) (g : MarksCounted t u n) :
    MarksCounted s u (m + n) := by
  constructor
  · rw [g.1, h.1, BitVec.add_assoc, ← BitVec.ofNat_add]
  · exact fun c x y => (g.2 c x y).trans (h.2 c x y)

/-- A step that counts no mark keeps the count. -/
theorem MarksCounted.same {s t u : State} {m : Nat} (h : MarksCounted s t m) (g : MarksCounted t u 0) :
    MarksCounted s u m := h.then g

theorem SameBut.marks {ps : List Part} {s t : State} (h : SameBut ps s t) (n : Part.stats ∉ ps) : MarksCounted s t 0 :=
  .of_stats (h.stats n)

theorem marks_countBy_lost (s : State) (n : Nat) : MarksCounted s (countBy s .eventsLost n) 0 := by
  constructor
  · rw [stats_countBy, if_neg (by decide)]
    simp
  · intro c _ h
    rw [stats_countBy, if_neg h]

theorem marks_emit (s : State) (ev : Event) : MarksCounted s (emit s ev) 0 := by
  unfold emit
  split
  · exact .of_stats rfl
  · exact MarksCounted.same (.of_stats rfl) (marks_countBy_lost (s.modEv loseEvent) 1)

theorem marks_foldl_emit {α : Type} (f : α → Event) : ∀ (l : List α) (s : State),
    MarksCounted s (l.foldl (fun t x => emit t (f x)) s) 0
  | [], _ => .of_stats rfl
  | a :: l, s => MarksCounted.same (marks_emit s (f a)) (marks_foldl_emit f l _)

theorem marks_completeFences (s : State) (p o c r) : MarksCounted s (completeFences s p o c r) 0 :=
  MarksCounted.same (.of_stats rfl) (marks_foldl_emit _ _ (s.modFences fun fs => fs.filter fun f => !p f))

theorem marks_fenceTest (s : State) : MarksCounted s (fenceTest s) 0 := by
  unfold fenceTest
  split
  · exact marks_completeFences ..
  · exact .of_stats rfl

theorem marks_completeClose (s : State) (e : RegionIx) : MarksCounted s (completeClose s e) 0 := by
  unfold completeClose
  split
  · exact MarksCounted.same (.of_stats rfl) (marks_emit _ _)
  · exact .of_stats rfl

/-! ## The flags that a run of operations sets -/

/-- The flags of one entry that are set in `t` and clear in `s`. -/
abbrev newMarks (s t : State) (e : RegionIx) : Nat := ((t.entry e).dirty.filter fun k => k ∉ (s.entry e).dirty).length

theorem marksMade_eq_sum (s t : State) : marksMade s t = ∑ e, newMarks s t e := by
  rw [marksMade, Fin.sum_univ_def]

/-- Where only one entry changes, so does only its share. -/
theorem marksMade_change {s t u : State} (e : RegionIx) (h : ∀ i, i ≠ e → u.entry i = t.entry i) :
    marksMade s u + newMarks s t e = marksMade s t + newMarks s u e := by
  rw [marksMade_eq_sum, marksMade_eq_sum, ← Finset.add_sum_erase (f := newMarks s u) (h := Finset.mem_univ e),
    ← Finset.add_sum_erase (f := newMarks s t) (h := Finset.mem_univ e)]
  have : ∑ x ∈ Finset.univ.erase e, newMarks s u x = ∑ x ∈ Finset.univ.erase e, newMarks s t x :=
    Finset.sum_congr rfl fun x m => by rw [newMarks, h x (Finset.ne_of_mem_erase m)]
  omega

/-- From `s` to `t` every flag that is set has been counted: an entry that may be marked has kept its flags, and one that
may not has none that it did not have. -/
structure Counting (s t : State) : Prop where
  counted : MarksCounted s t (marksMade s t)
  kept : ∀ e, markable (t.entry e).state = true → (s.entry e).dirty ⊆ (t.entry e).dirty
  none : ∀ e, markable (t.entry e).state = false → (t.entry e).dirty ⊆ (s.entry e).dirty

theorem newMarks_zero {s t : State} {e : RegionIx} (h : (t.entry e).dirty ⊆ (s.entry e).dirty) : newMarks s t e = 0 := by
  rw [newMarks, List.length_eq_zero_iff, List.filter_eq_nil_iff]
  intro k m
  simpa using h m

theorem Counting.refl (s : State) : Counting s s := by
  refine ⟨?_, fun _ _ => List.Subset.refl _, fun _ _ => List.Subset.refl _⟩
  have : marksMade s s = 0 := by
    rw [marksMade_eq_sum]
    exact Finset.sum_eq_zero fun e _ => newMarks_zero (List.Subset.refl _)
  rw [this]
  exact .of_stats rfl

/-- A step that counts no mark and leaves what may be marked, and every flag, as it was. -/
theorem Counting.same {s t u : State} (h : Counting s t) (g : MarksCounted t u 0)
    (k : ∀ e, (u.entry e).dirty = (t.entry e).dirty ∧ markable (u.entry e).state = markable (t.entry e).state) :
    Counting s u := by
  have e : marksMade s u = marksMade s t := by simp only [marksMade_eq_sum, newMarks, (k _).1]
  refine ⟨?_, ?_, ?_⟩
  · rw [e]
    exact h.counted.same g
  · intro i m
    rw [(k i).1]
    exact h.kept i (by rw [← (k i).2]; exact m)
  · intro i m
    rw [(k i).1]
    exact h.none i (by rw [← (k i).2]; exact m)

theorem Counting.step {s t u : State} {ps : List Part} (h : Counting s t) (g : MarksCounted t u 0) (f : SameBut ps t u)
    (n : Part.regions ∉ ps) : Counting s u :=
  h.same g fun e => by rw [f.entry n]; exact ⟨rfl, rfl⟩

theorem Counting.frame {s t u : State} {ps : List Part} (h : Counting s t) (f : SameBut ps t u)
    (n : Part.regions ∉ ps) (m : Part.stats ∉ ps) : Counting s u := h.step (f.marks m) f n

theorem filter_insertSeg (k : Nat) (p : Nat → Bool) : ∀ l : List Nat, k ∉ l →
    ((insertSeg k l).filter p).length = (l.filter p).length + if p k then 1 else 0
  | [], _ => by
    unfold insertSeg
    cases h : p k <;> simp [h]
  | x :: xs, n => by
    obtain ⟨n1, n2⟩ := not_or.mp fun h => n (List.mem_cons.mpr h)
    unfold insertSeg
    split
    · cases h : p k <;> simp [List.filter_cons, h]
    · rw [List.filter_cons, List.filter_cons]
      have := filter_insertSeg k p xs n2
      split
      · simp only [List.length_cons, this]
        omega
      · exact this

/-- A mark is counted where it sets a flag. -/
theorem Counting.mark {s t : State} (h : Counting s t) (e : RegionIx) (k : Nat) : Counting s (mark t e k) := by
  by_cases g : (markable (t.entry e).state && !(t.entry e).dirty.contains k) = true
  · have eq : Machine.mark t e k =
        count (setEntry t e { t.entry e with dirty := insertSeg k (t.entry e).dirty }) .dirtyMarks := by
      rw [Machine.mark, if_pos g]
    simp only [Bool.and_eq_true, Bool.not_eq_true', List.contains_eq_mem, decide_eq_false_iff_not] at g
    obtain ⟨mk, fresh⟩ := g
    have en : ∀ i, (Machine.mark t e k).entry i =
        if i = e then { t.entry e with dirty := insertSeg k (t.entry e).dirty } else t.entry i := by
      intro i
      rw [eq, entry_count, entry_setEntry]
    have old : k ∉ (s.entry e).dirty := fun m => fresh (h.kept e mk m)
    have ch := marksMade_change (s := s) (t := t) (u := Machine.mark t e k) e fun i n => by rw [en, if_neg n]
    have nw : newMarks s (Machine.mark t e k) e = newMarks s t e + 1 := by
      rw [newMarks, en, if_pos rfl]
      have := filter_insertSeg k (fun k => decide (k ∉ (s.entry e).dirty)) (t.entry e).dirty fresh
      rw [if_pos (by simpa using old)] at this
      exact this
    have cnt : MarksCounted t (Machine.mark t e k) 1 := by
      constructor
      · rw [eq, stats_count, if_pos rfl]
        rfl
      · intro c x _
        rw [eq, stats_count, if_neg x]
        rfl
    refine ⟨?_, ?_, ?_⟩
    · rw [show marksMade s (Machine.mark t e k) = marksMade s t + 1 by omega]
      exact h.counted.then cnt
    · intro i m
      rw [en] at m ⊢
      split
      · rename_i x
        subst x
        exact fun j hj => (mem_insertSeg k j _).mpr (.inr (h.kept i mk hj))
      · rw [if_neg ‹_›] at m
        exact h.kept i m
    · intro i m
      rw [en] at m ⊢
      split
      · rename_i x
        rw [if_pos x, mk] at m
        cases m
      · rw [if_neg ‹_›] at m
        exact h.none i m
  · rw [Machine.mark, if_neg g]
    exact h

/-- An entry that may not be marked becomes FREE without a count. -/
theorem Counting.free {s t : State} (h : Counting s t) (e : RegionIx) (m : markable (t.entry e).state = false) :
    Counting s (setEntry t e Entry.zero) := by
  have ch := marksMade_change (s := s) (t := t) (u := setEntry t e Entry.zero) e fun i n => by rw [entry_setEntry, if_neg n]
  have z : newMarks s (setEntry t e Entry.zero) e = 0 := by
    refine newMarks_zero ?_
    rw [entry_setEntry, if_pos rfl]
    exact List.nil_subset _
  have eq : marksMade s (setEntry t e Entry.zero) = marksMade s t := by
    rw [z, newMarks_zero (h.none e m)] at ch
    simpa only [Nat.add_zero] using ch
  refine ⟨?_, ?_, ?_⟩
  · rw [eq]
    exact h.counted.same (.of_stats rfl)
  · intro i g
    rw [entry_setEntry] at g ⊢
    split
    · rw [if_pos ‹_›] at g
      exact absurd g (by decide)
    · rw [if_neg ‹_›] at g
      exact h.kept i g
  · intro i g
    rw [entry_setEntry] at g ⊢
    split
    · exact List.nil_subset _
    · rw [if_neg ‹_›] at g
      exact h.none i g

/-! ## The teardown -/

theorem Counting.claimLagging {s t : State} (h : Counting s t) (e : RegionIx) (c f) :
    Counting s (claimLagging t e c f) := by
  have m : MarksCounted t (Machine.claimLagging t e c f) 0 := by
    unfold Machine.claimLagging
    split
    · refine MarksCounted.same ?_ ((leftMirrored_frame _ e).marks (by decide))
      refine MarksCounted.same ?_ (marks_completeFences ..)
      exact MarksCounted.same (.of_stats rfl) (marks_emit _ _)
    · exact .of_stats rfl
  refine h.same m fun i => ?_
  rw [entry_claimLagging]
  split
  · rename_i x
    obtain ⟨x, y⟩ := x
    subst x
    simp [y, markable]
  · exact ⟨rfl, rfl⟩

theorem Counting.sweep {s t : State} (h : Counting s t) : Counting s (sweep t) := by
  unfold Machine.sweep
  generalize entryList = l
  induction l generalizing t with
  | nil => exact h
  | cons e l ih => exact ih (h.claimLagging e _ _)

theorem Counting.drainEntry {s t : State} (h : Counting s t) (e : RegionIx) : Counting s (drainEntry t e) := by
  unfold Machine.drainEntry
  split
  · rename_i g
    have d : (t.entry e).state = .draining := by
      simp only [isDrained, Bool.and_eq_true, decide_eq_true_eq] at g
      exact g.1
    have h1 := h.free e (by rw [d]; rfl)
    have h2 := h1.step (marks_emit _ (.regionState .drained e .source .draining .free)) (emit_frame _ _) (by decide)
    have h3 := h2.frame (leaveScopes_frame _ e) (by decide) (by decide)
    exact h3.step (marks_completeClose _ e) (completeClose_frame _ e) (by decide)
  · exact h

theorem Counting.convertRecord {s t : State} (h : Counting s t) (l : Bool) (r : Record) :
    Counting s (convertRecord l t r) := by
  have h1 : Counting s (markRecord t r) := by
    unfold markRecord
    split
    · split
      · exact h.mark _ _
      · exact h
    · split
      · exact h.mark _ _
      · exact h
    · exact h
  have h2 := h1.frame (freeRecordBuffer_frame _ r) (by decide) (by decide)
  unfold Machine.convertRecord
  dsimp only
  split
  · have h3 : Counting s (loseNote (freeRecordBuffer (markRecord t r) r) r) := by
      refine h2.step ?_ (loseNote_frame _ r) (by decide)
      unfold loseNote
      split
      · exact marks_emit _ _
      · exact .of_stats rfl
      · exact .of_stats rfl
    unfold drainRegionOf
    split
    · exact h3.drainEntry _
    · exact h3
  · exact h2

theorem Counting.convertReplay (l : Bool) {s : State} : ∀ (rs : List Replayed) {t : State}, Counting s t →
    Counting s (convertReplay l rs t)
  | [], _, h => h
  | r :: rs, _, h =>
    Counting.convertReplay l rs ((h.frame (modTx_frame _ _) (by decide) (by decide)).convertRecord l r.record)

theorem Counting.convertQueued (l : Bool) {s : State} : ∀ (rs : List (QueueClass × Record)) {t : State}, Counting s t →
    Counting s (convertQueued l rs t)
  | [], _, h => h
  | (q, r) :: rs, _, h =>
    Counting.convertQueued l rs ((h.frame (popQueue_frame _ q) (by decide) (by decide)).convertRecord l r)

theorem marks_dropSegment (s : State) (sg : Segment) : MarksCounted s (dropSegment s sg) 0 := by
  unfold dropSegment
  dsimp only
  split
  · exact MarksCounted.same (.of_stats rfl) (marks_completeFences ..)
  · exact .of_stats rfl

theorem Counting.resyncLeavesUp {s t : State} (h : Counting s t) : Counting s (resyncLeavesUp t) := by
  have h1 : Counting s (abandonSegment t true) := by
    unfold abandonSegment
    split
    · exact ((h.frame (releaseBlock_frame t) (by decide) (by decide)).mark _ _).step (marks_dropSegment _ _)
        (dropSegment_frame _ _) (by decide)
    · exact h
  exact h1.frame (releaseDiscarding_frame _) (by decide) (by decide)

theorem Counting.lossState {s t : State} (h : Counting s t) : Counting s (lossState t) := by
  unfold Machine.lossState
  split
  · exact (h.frame (enterCalling_frame t) (by decide) (by decide)).sweep
  · exact h.frame (enterDisabled_frame t) (by decide) (by decide)

theorem Counting.lossTransmitter {s t : State} (h : Counting s t) (c : LossCause) : Counting s (lossTransmitter t c) := by
  unfold Machine.lossTransmitter
  dsimp only
  refine Counting.convertReplay true _ ?_
  split
  · exact h.frame (modTx_frame _ _) (by decide) (by decide)
  · exact (h.frame (clearControl_frame t) (by decide) (by decide)).frame (modTx_frame _ _) (by decide) (by decide)

theorem marks_completeDisconnect (s : State) : MarksCounted s (completeDisconnect s) 0 := by
  unfold completeDisconnect
  split
  · exact MarksCounted.same (.of_stats rfl) (marks_emit _ _)
  · exact .of_stats rfl

/-- The teardown of a session counts each mark that it makes, and changes no other counter but EVENTS_LOST (R55, R80). -/
theorem counting_loseSession (s : State) (c : LossCause) (part : BitVec 32) : Counting s (loseSession s c part) := by
  have h1 : Counting s (convertQueues true (lossTransmitter (lossState s) c)) :=
    Counting.convertQueued true _ ((Counting.refl s).lossState.lossTransmitter c)
  have h2 : Counting s (if s.session.state = .up then resyncLeavesUp (convertQueues true (lossTransmitter (lossState s) c))
      else convertQueues true (lossTransmitter (lossState s) c)) := by
    split
    · exact h1.resyncLeavesUp
    · exact h1
  have h3 : Counting s (lossBody s c part) := by
    have m1 := h2.step (marks_completeFences _ (fun _ => true) .notDurable .sessionDown none)
      (completeFences_frame _ _ _ _ _) (by decide)
    have m2 := m1.frame (modRx_frame _ fun r => { r with ackTimer := none }) (by decide) (by decide)
    exact (m2.step (marks_emit _ _) (emit_frame _ _) (by decide)).step (marks_completeDisconnect _)
      (completeDisconnect_frame _) (by decide)
  rw [loseSession_eq]
  split
  · exact h3.frame (beginCalling_frame _) (by decide) (by decide)
  · exact h3

/-- The hold after a teardown is that after its body. -/
theorem holdEnds_loseSession (s : State) (c : LossCause) (part : BitVec 32) :
    HoldEnds s.mem (loseSession s c part).mem
      ((s.session.state = .up ∧ SweepEndsHold s) ∨ (s.mem.hold = .syncFull ∧ s.capture.sync ≠ [])) := by
  rw [loseSession_eq]
  split
  · rw [(beginCalling_frame _).mem (by decide)]
    exact holdEnds_lossBody s c part
  · exact holdEnds_lossBody s c part

/-! ## A target that becomes FREE -/

/-- The test of R14 does to a target what `TargetTested` says, and nothing else. -/
theorem targetTested_releaseEntry (w : State) (e : RegionIx) : TargetTested w (releaseEntry w e) e := by
  have test : isReleased w e = true ↔
      ¬((w.entry e).state ≠ .releasing ∨ ∃ y ∈ w.apply.queue, y.isLine = true ∧ y.target = some e) := by
    simp [isReleased]
  refine ⟨fun h => ?_, fun h => ?_⟩
  · rw [releaseEntry, if_neg fun g => test.mp g h]
  · rw [releaseEntry, if_pos (test.mpr h)]
    dsimp only
    have at_self : ∀ {α : Type} (v : Vector α 32) (x : α), (setAt v e x)[e] = x := fun v x => by
      rw [getElem_setAt, if_pos rfl]
    have at_other : ∀ {α : Type} (v : Vector α 32) (x : α) (i : RegionIx), i ≠ e → (setAt v e x)[i] = v[i] :=
      fun v x i n => by rw [getElem_setAt, if_neg n]
    have f1 : SameBut [.regions, .apply] w (resetReport (setEntry w e Entry.zero) e) :=
      ((setEntry_frame w e _).mono rfl).then (resetReport_frame _ e) rfl
    have e1 : ∀ i, (resetReport (setEntry w e Entry.zero) e).entry i = if i = e then Entry.zero else w.entry i :=
      fun i => by rw [(resetReport_frame _ e).entry (by decide), entry_setEntry]
    have a1 : (resetReport (setEntry w e Entry.zero) e).apply =
        { w.apply with reports := setAt w.apply.reports e ⟨none, 0⟩ } := rfl
    generalize resetReport (setEntry w e Entry.zero) e = t at f1 e1 a1
    cases hp : (w.cmd.pendingClose)[e] with
    | none =>
      rw [if_neg (by simp)]
      refine ⟨by simp [e1], fun i n => by simp [e1, n], by rw [a1], by rw [a1]; exact at_self _ _,
        fun i n => by rw [a1]; exact at_other _ _ i n, by rw [f1.cmd (by decide)], by rw [f1.cmd (by decide), hp],
        fun i n => by rw [f1.cmd (by decide)], f1.marks (by decide), fun _ => f1.ev (by decide), ?_, f1.mono rfl⟩
      intro tag g
      rw [hp] at g
      cases g
    | some tag =>
      rw [if_pos (by simp)]
      have hq : ((emit t (.regionState .released e .target .releasing .free)).cmd.pendingClose)[e] = some tag := by
        rw [(emit_frame _ _).cmd (by decide), f1.cmd (by decide), hp]
      have hc : (completeClose (emit t (.regionState .released e .target .releasing .free)) e).cmd =
          { w.cmd with pendingClose := setAt w.cmd.pendingClose e none } := by
        rw [completeClose, hq]
        simp only [done, (emit_frame _ _).cmd (by decide), State.modCmd_cmd, f1.cmd (by decide)]
      have fr : SameBut [.regions, .apply, .cmd, .ev, .stats] w
          (completeClose (emit t (.regionState .released e .target .releasing .free)) e) :=
        ((f1.mono rfl).then (emit_frame _ _) rfl).then (completeClose_frame _ e) rfl
      refine ⟨?_, ?_, ?_, ?_, ?_, by rw [hc], by rw [hc]; exact at_self _ _,
        fun i n => by rw [hc]; exact at_other _ _ i n, ?_, fun g => absurd (hp.symm.trans g) (by simp), ?_, fr⟩
      · rw [(completeClose_frame _ e).entry (by decide), entry_emit, e1, if_pos rfl]
      · intro i n
        rw [(completeClose_frame _ e).entry (by decide), entry_emit, e1, if_neg n]
      · rw [(completeClose_frame _ e).apply (by decide), (emit_frame _ _).apply (by decide), a1]
      · rw [(completeClose_frame _ e).apply (by decide), (emit_frame _ _).apply (by decide), a1]
        exact at_self _ _
      · intro i n
        rw [(completeClose_frame _ e).apply (by decide), (emit_frame _ _).apply (by decide), a1]
        exact at_other _ _ i n
      · exact (f1.marks (by decide)).same ((marks_emit _ _).same (marks_completeClose _ e))
      · intro tag' g r
        rw [hp] at g
        cases g
        have r1 : ringRoom t 2 := by rwa [ringRoom, f1.ev (by decide)]
        rw [completeClose, hq]
        simp only [done]
        rw [eventsOf_emit _ _ (show ringRoom (State.modCmd _ _) 1 from ringRoom_emit _ _ 1 r1)]
        show eventsOf (emit t _) ++ _ = _
        rw [eventsOf_emit _ _ (ringRoom_mono r1 (by decide)), eventsOf, f1.ev (by decide), List.append_assoc]
        rfl

end Sys2Proof.Machine
end

