-- ==== Sys2Proof/Laws/Steps.lean ====
section
/-! SUPPORT. What a command comes down to under the conditions that statements name: a delivered frame, a taken line,
a grant of the arbiter, an answer of memory. -/

namespace Sys2Proof.Machine

/-! ## Frames of the link -/

theorem deliver_of_delivered (s : State) (bytes : List Byte) (f : State → State) (h : Delivered s bytes) :
    deliver s bytes f = f s := by
  simp [deliver, framesCome, h.1, h.2]

theorem deliver_of_current (s : State) (bytes : List Byte) (f : State → State) (h : Current s bytes) :
    (deliver s bytes fun s => sortSession s bytes f) = f s := by
  rw [deliver_of_delivered s bytes _ h.1, sortSession, if_pos h.2]

/-- A record frame of the session goes to the Link Receiver (R75). -/
theorem exec_record (c : Instr) (bytes : List Byte) (seq : BitVec 32) (rec : Inbound) (s : State)
    (h : sessionArrival c = some bytes) (g : recordArrival c = some (seq, rec)) (hc : Current s bytes) :
    exec c s = .next (receiveRecord s seq rec) := by
  cases c <;> simp only [recordArrival, sessionArrival, Option.some.injEq, Prod.mk.injEq, reduceCtorEq] at h g
  all_goals
    obtain ⟨rfl, rfl⟩ := g
    subst h
    simp only [exec, execWriteFrame, execBlockFrame, execNoteFrame, deliver_of_current _ _ _ hc]

/-! ## Command lines -/

/-- A line whose code is one of a command's is taken (R144). -/
theorem take_of_takes (s : State) (l : Line) (code : Nat) (codes : Nat → Bool) (run : Line → State → State)
    (h : Takes s l code) (g : codes code = true) : take s codes run = .next (run l (popLine s)) := by
  obtain ⟨h1, h2, rfl⟩ := h
  simp [take, nextLine, h1, h2, g]

/-- Nothing is taken while the part waits for RESTARTED or the queue is empty (R144, R156). -/
theorem take_of_none (s : State) (codes : Nat → Bool) (run : Line → State → State)
    (h : s.cmd.waiting ≠ none ∨ s.cmd.queue = []) : take s codes run = .next s := by
  have : nextLine s = none := by
    unfold nextLine
    rcases h with h | h
    · rw [if_pos (by simpa [Option.isSome_iff_ne_none] using h)]
    · simp [h]
  simp [take, this]

theorem popLine_frame (s : State) : SameBut [.cmd, .mem] s (popLine s) :=
  ((modCmd_frame s _).mono rfl).then (endHoldOf_frame _ _) rfl

/-! ## The response list -/

/-- A list without repeats is no longer than one that holds all its members. -/
theorem length_le_of_subset {α : Type} [DecidableEq α] :
    ∀ {l m : List α}, l.Nodup → l ⊆ m → l.length ≤ m.length
  | [], _, _, _ => Nat.zero_le _
  | a :: l, m, h, g => by
    obtain ⟨h1, h2⟩ := List.nodup_cons.mp h
    have ha : a ∈ m := g (List.mem_cons_self ..)
    have := length_le_of_subset (m := m.erase a) h2 fun x hx =>
      (List.mem_erase_of_ne (by rintro rfl; exact h1 hx)).mpr (g (List.mem_cons_of_mem _ hx))
    rw [List.length_erase_of_mem ha] at this
    have := List.length_pos_of_mem ha
    simp only [List.length_cons]
    omega

/-- With fewer than sixteen entries, `nextPlace` is the lowest place that no entry holds. -/
theorem lowestFree_nextPlace (rs : List RespEntry) (h : rs.length < 16) : LowestFree rs (nextPlace rs) := by
  cases g : places.find? fun p => rs.all fun r => r.place != p with
  | none =>
    have sub : places ⊆ rs.map RespEntry.place := fun p hp => by
      simpa using List.find?_eq_none.mp g p hp
    have := length_le_of_subset (by decide) sub
    rw [List.length_map, show places.length = 16 from rfl] at this
    omega
  | some p =>
    obtain ⟨hp, as, bs, e, ha⟩ := List.find?_eq_some_iff_append.mp g
    have hp' : ∀ r ∈ rs, r.place ≠ p := by simpa using hp
    simp only [nextPlace, g, Option.getD_some]
    refine ⟨hp', fun q hq => ?_⟩
    have mem : q ∈ as ++ p :: bs := e ▸ (by decide : ∀ q : BitVec 4, q ∈ places) q
    have sorted : (as ++ p :: bs).Pairwise (· < ·) := e ▸ (by decide : places.Pairwise (· < ·))
    rw [List.pairwise_append, List.pairwise_cons] at sorted
    rcases List.mem_append.mp mem with m | m
    · simpa using ha q m
    · rcases List.mem_cons.mp m with m | m
      · subst m; exact absurd hq (by bv_omega)
      · have := sorted.2.1.1 q m
        exact absurd hq (by bv_omega)

/-- The head request issued is what `Issued` says. -/
theorem issued_issueHead (s : State) (req : SysRequest) (region : Option RegionIx) (h : s.mem.responses.length < 16) :
    Issued s (issueHead s req region) req region :=
  ⟨_, lowestFree_nextPlace _ h, rfl⟩

/-- A return of READY entries is what `Returned` says (R135). -/
theorem returned_returnReady (s t : State) (h : t.out = s.out) :
    Returned s (returnReady t) t.mem.responses := by
  simp [Returned, returnReady, h]

/-- The head request answered by the part is what `Answered` says. -/
theorem answered_answerHead (s : State) (req : SysRequest) (h : s.mem.responses.length < 16) :
    Answered s (answerHead s req) req :=
  ⟨_, lowestFree_nextPlace _ h, returned_returnReady s (leaveHead s _) rfl, rfl⟩

/-! ## The memory-port arbiter -/

/-- A request waits at the head with room in the response list. -/
theorem waitingHead_eq_some (s : State) (req : SysRequest) :
    waitingHead s = some req ↔ s.mem.hold = .none ∧ s.mem.responses.length < 16 ∧ s.mem.head = some req := by
  simp [waitingHead, Config.portSlots, and_assoc]

/-- How a grant of the pass-through requester can end: with its request issued, with a hold, or with the head gone and
nothing issued (R130). -/
def GrantEnds (s t : State) : Prop :=
  t.mem.outstanding.length = s.mem.outstanding.length + 1 ∨
    (t.mem.outstanding = s.mem.outstanding ∧
      (t.mem.hold ≠ .none ∨ (t.mem.head = s.mem.behind.head? ∧ t.mem.behind = s.mem.behind.tail)))

theorem grantEnds_of_mem {s t u : State} (h : GrantEnds s t) (g : u.mem = t.mem) : GrantEnds s u := by
  unfold GrantEnds
  rwa [g]

theorem grantEnds_issueHead (s t : State) (req r) (h : t.mem = s.mem) : GrantEnds s (issueHead t req r) := by
  simp [GrantEnds, issueHead, leaveHead, h]

theorem grantEnds_holdHead (s t : State) (r : HoldReason) (h : t.mem = s.mem) (g : r ≠ .none) :
    GrantEnds s (holdHead t r) := by
  simp [GrantEnds, holdHead, h, g]

theorem grantEnds_answerHead (s t : State) (req) (h : t.mem = s.mem) : GrantEnds s (answerHead t req) := by
  simp [GrantEnds, answerHead, returnReady, leaveHead, h]

theorem outstanding_leftMirrored (s : State) (e : RegionIx) :
    (leftMirrored s e).mem.outstanding = s.mem.outstanding := by
  unfold leftMirrored
  split <;> rfl

theorem outstanding_claimLagging (s : State) (e c f) :
    (claimLagging s e c f).mem.outstanding = s.mem.outstanding := by
  unfold claimLagging
  split
  · rw [outstanding_leftMirrored, (failFences_frame _ _ _).mem (by decide), (emit_frame _ _).mem (by decide),
      (setEntry_frame _ _ _).mem (by decide)]
  · rfl

theorem grantEnds_issueUncaptured (s t : State) (req e a c) (h : t.mem = s.mem) :
    GrantEnds s (issueUncaptured t req e a c) := by
  refine .inl ?_
  rw [issueUncaptured, outstanding_claimLagging, (markAddr_frame _ _ _).mem (by decide)]
  simp [issueHead, leaveHead, h]

theorem grantEnds_presentRead (s : State) (req a) : GrantEnds s (presentRead s req a) := by
  unfold presentRead
  split
  · dsimp only
    split
    · simp [GrantEnds, holdHead]
    · exact grantEnds_issueHead s s _ _ rfl
  all_goals exact grantEnds_issueHead s s _ _ rfl

theorem grantEnds_presentControl (s : State) (req m d) : GrantEnds s (presentControl s req m d) := by
  unfold presentControl
  repeat' split
  · exact grantEnds_holdHead s s _ rfl (by decide)
  all_goals exact grantEnds_issueHead s _ _ _ rfl

theorem grantEnds_presentMirrored (s : State) (req e a m d) : GrantEnds s (presentMirrored s req e a m d) := by
  unfold presentMirrored
  split
  · exact grantEnds_holdHead s s _ rfl (by decide)
  split
  · exact grantEnds_issueUncaptured s s _ _ _ _ rfl
  split
  · rename_i h
    exact grantEnds_issueHead s _ _ _ ((captureWrite_frame _ _ _ _ _ _ h).mem (by decide))
  split
  · split
    · exact grantEnds_issueUncaptured s _ _ _ _ _ rfl
    · simp [GrantEnds, holdSyncFull, holdHead, count, countBy]
  · exact grantEnds_issueUncaptured s s _ _ _ _ rfl

theorem grantEnds_presentWrite (s : State) (req a m d) : GrantEnds s (presentWrite s req a m d) := by
  have refuse : ∀ e, GrantEnds s (refuseWrite s req e a) := fun e =>
    grantEnds_answerHead s _ _ ((refusalReport_frame _ _ _).mem (by decide))
  unfold presentWrite
  split
  · exact grantEnds_presentControl s _ _ _
  · split
    · exact refuse _
    · exact refuse _
    · exact refuse _
    · exact grantEnds_presentMirrored s _ _ _ _ _
    · exact grantEnds_of_mem (grantEnds_issueHead s s _ _ rfl) ((markAddr_frame _ _ _).mem (by decide))
    · exact grantEnds_of_mem (grantEnds_issueHead s s _ _ rfl) ((markAddr_frame _ _ _).mem (by decide))
    · exact grantEnds_issueHead s s _ _ rfl
    · exact grantEnds_issueHead s s _ _ rfl
  all_goals exact grantEnds_issueHead s s _ _ rfl

theorem grantEnds_grantHead (s : State) (req : SysRequest) : GrantEnds s (grantHead s req) := by
  unfold grantHead
  split
  · exact grantEnds_answerHead s s _ rfl
  split
  · exact grantEnds_issueHead s s _ _ rfl
  cases req with
  | read tag addr len => exact grantEnds_presentRead s _ _
  | write tag addr mask data => exact grantEnds_presentWrite s _ _ _ _

theorem arbiterStep_granted (s : State) (req : SysRequest) (h : Granted s req) : arbiterStep s = grantHead s req := by
  obtain ⟨h1, h2⟩ := h
  simp only [arbiterStep, h1]
  cases hg : grantedSource s with
  | none => rfl
  | some i => rcases h2 with h2 | h2 <;> simp_all

theorem passGranted_iff (s : State) : passGranted s = true ↔ ∃ req, Granted s req := by
  simp only [passGranted, Granted, Bool.and_eq_true, Option.isSome_iff_exists, Bool.or_eq_true, Option.isNone_iff_eq_none,
    bne_iff_ne, ne_eq]
  exact ⟨fun ⟨⟨r, a⟩, b⟩ => ⟨r, a, b⟩, fun ⟨r, a, b⟩ => ⟨⟨r, a⟩, b⟩⟩

/-- How many choices the arbiter may still make again: one for each request that waits at the port. -/
abbrev choicesLeft (s : State) : Nat := if (waitingHead s).isSome then s.mem.behind.length + 1 else 0

/-- Each choice that is made again leaves one less. -/
theorem choicesLeft_lt (s : State) (h : choosesAgain s (arbiterStep s) = true) :
    choicesLeft (arbiterStep s) < choicesLeft s := by
  simp only [choosesAgain, Bool.and_eq_true, beq_iff_eq] at h
  obtain ⟨h1, h2⟩ := h
  obtain ⟨req, g⟩ := (passGranted_iff s).mp h1
  rw [arbiterStep_granted s req g] at h2 ⊢
  have hs : choicesLeft s = s.mem.behind.length + 1 := by simp [choicesLeft, g.1]
  rw [hs]
  rcases grantEnds_grantHead s req with e | ⟨-, e | ⟨e1, e2⟩⟩
  · omega
  · simp [choicesLeft, waitingHead, e]
  · cases hb : s.mem.behind with
    | nil => simp [choicesLeft, waitingHead, e1, hb]
    | cons a l =>
      simp only [choicesLeft, e2, hb, List.tail_cons, List.length_cons]
      split <;> omega

/-- Enough choices are as good as more. -/
theorem arbiterRounds_enough : ∀ (m n : Nat) (s : State), choicesLeft s < m → choicesLeft s < n →
    arbiterRounds m s = arbiterRounds n s
  | 0, _, _, h, _ => absurd h (Nat.not_lt_zero _)
  | _ + 1, 0, _, _, h => absurd h (Nat.not_lt_zero _)
  | m + 1, n + 1, s, h, g => by
    unfold arbiterRounds
    split
    · rename_i c
      have := choicesLeft_lt s c
      exact arbiterRounds_enough m n _ (by omega) (by omega)
    · rfl

theorem choicesLeft_lt_fuel (s : State) : choicesLeft s < s.mem.behind.length + 2 := by
  simp only [choicesLeft]
  split <;> omega

/-- A grant that issues a request ends the arbiter's choices. -/
theorem exec_granted (s : State) (req : SysRequest) (h : Granted s req)
    (g : (grantHead s req).mem.outstanding.length ≠ s.mem.outstanding.length) :
    exec .memoryPortArbiter s = .next (grantHead s req) := by
  have e := arbiterStep_granted s req h
  simp only [exec, execMemoryPortArbiter, arbiterChoice, arbiterRounds]
  rw [if_neg (by simp [choosesAgain, e, g]), e]

/-- After a grant that issues nothing the arbiter chooses again at once (R130, R138). -/
theorem exec_grantedAgain (s : State) (req : SysRequest) (h : Granted s req)
    (g : (grantHead s req).mem.outstanding.length = s.mem.outstanding.length) :
    exec .memoryPortArbiter s = exec .memoryPortArbiter (grantHead s req) := by
  have e := arbiterStep_granted s req h
  have c : choosesAgain s (arbiterStep s) = true := by
    simp [choosesAgain, e, g, (passGranted_iff s).mpr ⟨req, h⟩]
  have lt := choicesLeft_lt s c
  have := choicesLeft_lt_fuel s
  have enough := choicesLeft_lt_fuel (grantHead s req)
  rw [e] at lt
  simp only [exec, execMemoryPortArbiter, arbiterChoice]
  conv => lhs; rw [arbiterRounds, if_pos c, e]
  rw [arbiterRounds_enough _ ((grantHead s req).mem.behind.length + 2) _ (by omega) enough]

/-- With nothing waiting the arbiter does nothing. -/
theorem exec_noneWaiting (s : State) (h : waitingHead s = none) (g : grantedSource s = none) :
    exec .memoryPortArbiter s = .next s := by
  simp [exec, execMemoryPortArbiter, arbiterChoice, arbiterRounds, choosesAgain, passGranted, arbiterStep, h, g]

/-- The arbiter's choice of an injected source is its last. -/
theorem exec_sourceChosen (s : State) (i : Injected) (h1 : grantedSource s = some i)
    (h2 : waitingHead s = none ∨ s.mem.run = 3) : exec .memoryPortArbiter s = .next (grantInjected s i) := by
  have p : passGranted s = false := by
    rcases h2 with h2 | h2 <;> simp [passGranted, h1, h2]
  have e : arbiterStep s = grantInjected s i := by
    simp only [arbiterStep, h1]
    cases hg : waitingHead s with
    | none => rfl
    | some req => rcases h2 with h2 | h2 <;> simp_all
  simp [exec, execMemoryPortArbiter, arbiterChoice, arbiterRounds, choosesAgain, p, e]

theorem exec_grantedInjected (s : State) (i : Injected) (h : GrantedInjected s i) :
    exec .memoryPortArbiter s = .next (grantInjected s i) := exec_sourceChosen s i h.1 h.2.2

/-- With 16 injected requests outstanding a chosen source waits for an answer (R137). -/
theorem exec_sourceWaits (s : State) (i : Injected) (h : grantedSource s = some i) (f : injectedRoom s = false)
    (g : waitingHead s = none ∨ s.mem.run = 3) : exec .memoryPortArbiter s = .next s := by
  have e : grantInjected s i = s := by
    unfold grantInjected
    rw [if_neg (by simp [f])]
  rw [exec_sourceChosen s i h g, e]

/-! ## Answers of memory -/

/-- The oldest outstanding request takes its answer (R136). -/
theorem takeAnswer_of_answers (s : State) (a : MemAnswer) (r : MemRequest) (rest : List MemRequest)
    (p : MemSource → Bool) (h : Answers s a r rest) (g : p r.source = true) :
    takeAnswer s a p = some (r, s.modMem fun m => { m with outstanding := rest }) := by
  obtain ⟨h1, h2⟩ := h
  simp [takeAnswer, h1, h2, g]

/-- An answer of none of the requests that a row answers leaves the row nothing to take (R136, R174). -/
theorem takeAnswer_of_noAnswer (s : State) (a : MemAnswer) (own : MemSource → Prop) (p : MemSource → Bool)
    (h : NoAnswer s a own) (g : ∀ x, p x = true → own x) : takeAnswer s a p = none := by
  unfold takeAnswer
  rcases h with h | h | ⟨r, rest, h, n⟩
  · rw [if_pos h]
  · simp [h]
  · have e : p r.source = false := by
      cases q : p r.source with
      | false => rfl
      | true => exact absurd (g _ q) n
    simp [h, e]

/-- The count of an injected answer, in one piece (R168). -/
theorem injectedAnswered_eq (v : State) : injectedAnswered v = answerCounted v := by
  unfold injectedAnswered finishRestart answerCounted
  simp only [State.modCmd_cmd]
  cases h : v.cmd.waiting with
  | none =>
    have e : ({ v.cmd with waiting := none } : CommandUnit) = v.cmd := by rw [← h]
    simp only [Option.map_none]
    show { v with cmd := { v.cmd with waiting := v.cmd.waiting.map _ } } = v
    rw [h, Option.map_none, e]
  | some w =>
    simp only [Option.map_some]
    by_cases g : 1 < w.due
    · rw [if_pos g, if_neg (by omega)]
      simp [State.modCmd, h]
    · rw [if_neg g, if_pos (by omega)]
      rfl

/-- An answer changes nothing of the Command Unit while it does not wait for RESTARTED. -/
theorem injectedAnswered_of_none (s : State) (h : s.cmd.waiting = none) : injectedAnswered s = s := by
  rw [injectedAnswered_eq, answerCounted, h]

/-! ## The apply queue -/

/-- Nothing completes while the oldest entry has a line to write. -/
theorem settle_of_active (s : State) (h : ∀ en, s.apply.queue.head? = some en → en.passive = false) : settle s = s := by
  unfold settle
  cases hq : s.apply.queue with
  | nil => rfl
  | cons a b => simp [completePassive, hq, h a (by simp [hq])]

theorem queue_releaseTarget (s : State) (en : ApplyEntry) : (releaseTarget s en).apply.queue = s.apply.queue := by
  unfold releaseTarget releaseEntry
  split
  · split
    · dsimp only
      split
      · rw [(completeClose_frame _ _).apply (by decide), (emit_frame _ _).apply (by decide)]
        rfl
      · rfl
    · rfl
  · rfl

theorem queue_appliedStep (s : State) (en : ApplyEntry) : (appliedStep s en).apply.queue = s.apply.queue := by
  unfold appliedStep
  dsimp only
  repeat' split
  all_goals rfl

/-- The oldest entry leaves the queue, and no other (R116). -/
theorem queue_completeOldest (s : State) : (completeOldest s).apply.queue = s.apply.queue.tail := by
  unfold completeOldest
  split
  · rename_i h
    rw [h]; rfl
  · rename_i en rest h
    have g : (setApplyWait (s.modApply fun a => { a with queue := rest }) (s.mem.applyWait - 1)).apply.queue = rest := by
      rw [(setApplyWait_frame _ _).apply (by decide)]
      rfl
    rw [h, List.tail_cons]
    dsimp only
    split
    · rw [completeRecord, queue_releaseTarget, (receiverStep_frame _ _).apply (by decide)]
      exact (queue_appliedStep _ en).trans ((congrArg ApplyEngine.queue ((noteStep_frame _ _).apply (by decide))).trans g)
    · split
      · rw [queue_releaseTarget]
        exact g
      · exact g

/-- A passive entry that is the oldest completes, and then those behind it (R116). -/
theorem settle_passive (s : State) (en : ApplyEntry) (rest : List ApplyEntry) (h : s.apply.queue = en :: rest)
    (g : en.passive = true) : settle s = settle (completeOldest s) := by
  unfold settle
  rw [queue_completeOldest, h, List.length_cons, List.tail_cons, completePassive, h]
  simp [g]

/-- The drain test passes only with the replay list empty. -/
theorem drainTest_of_replay (s : State) (h : s.tx.replay ≠ []) : drainTest s = s := by
  unfold drainTest
  rw [if_neg]
  rintro ⟨_, g⟩
  simp [isDry] at g
  exact h g.2

end Sys2Proof.Machine
end

