-- ==== Sys2Proof/WellFormed.lean ====
section
/-! DEFINITION. What a command's operands must be to be an arrival that the spec describes (R42, R128). -/

namespace Sys2Proof

/-- A WRITE's address is a multiple of 64 (R128). A READ may be malformed: the part answers it. -/
def SysRequest.wellFormed : SysRequest → Bool
  | .read _ _ _ => true
  | .write _ addr _ _ => addr.toNat % 64 == 0

/-- A command is well-formed: a WRITE names a line, an unknown frame fails the checks of R42, and the answer to a
pass-through request brings at most 64 bytes. -/
def Instr.wellFormed : Instr → Bool
  | .systemPortRequest req => req.wellFormed
  | .unknownFrame frame => !Machine.frameGood frame
  | .passThroughResponse _ data => data.length ≤ 64
  | .powerOn | .resetAssert | .promImageRead _ | .loadTimerExpiry | .carrierUp | .carrierDown
  | .join _ | .accept _ | .part _ | .writeFrame _ | .blockFrame _ | .noteFrame _ | .ack _ | .retry _ | .reject _
  | .lossClaim | .transmitArbiterChoice | .joinTimerExpiry | .replayTimerExpiry | .ackDelayTimerExpiry
  | .holdLimitExpiry | .quietTimerExpiry _ | .attnDelayExpiry | .memoryPortArbiter | .applyWriteResponse _
  | .resyncReadResponse _ _ | .writerResponse _ | .writeOutDone | .resyncTurn | .blockStart | .deferredRetry
  | .drainTestPassed | .drained _ | .released _ | .fenceDurable | .restarted | .noneCommand | .badCommand
  | .connect | .disconnect | .openSource | .openTarget | .close | .fence | .sendNote | .setParameter
  | .setEventRing | .releaseEvents | .dumpStats | .snapshot | .restart => true

end Sys2Proof
end

