-- ==== Sys2Proof/Tests/Slice0.lean ====
section
/-! SUPPORT. Small tests: ill-formed commands that the check refuses, single steps with values of the spec's worked
examples, and for each statement of Certificates/Slice0/Obligations.lean states that meet its hypotheses, clause by
clause. -/

set_option Elab.async false

namespace Sys2Proof.Tests

open Sys2Proof Sys2Proof.Machine

/-! ## Well-formedness -/

theorem test_writeOffALineIsIllFormed :
    (Instr.systemPortRequest (.write 1 0x1001#40 fullMask 0)).wellFormed = false ∧
      (Instr.systemPortRequest (.write 1 0x1040#40 fullMask 0)).wellFormed = true := by decide +kernel

theorem test_goodFrameIsNoUnknownFrame :
    (Instr.unknownFrame (controlBytes 2 ⟨5, .ack 7⟩)).wellFormed = false ∧
      (Instr.unknownFrame [10#8]).wellFormed = true := by decide +kernel

theorem test_longAnswerIsIllFormed :
    (Instr.passThroughResponse ⟨0, .ok, false⟩ (List.replicate 65 0)).wellFormed = false ∧
      (Instr.passThroughResponse ⟨0, .ok, false⟩ (List.replicate 64 0)).wellFormed = true := by decide +kernel

/-! ## Helpers -/

/-- The state after one command. -/
def after1 (c : Instr) (s : State) : State :=
  match exec c s with
  | .next t => t
  | .fault _ | .refused _ => s

/-- A command line: code, tag and the bytes from byte 4 on (R176). -/
def line (code tag : Nat) (bs : List Byte) : Line :=
  BitVec.ofNat 512 (leNat (leBytes 2 code ++ leBytes 2 tag ++ bs))

/-- The command queue holds one line. -/
def withLine (l : Line) (s : State) : State := s.modCmd fun c => { c with queue := [l] }

/-- The head request is present. -/
def withHead (r : SysRequest) (s : State) : State := s.modMem fun m => { m with head := some r }

/-- One request is outstanding at the memory port. -/
def awaiting (x : MemSource) (f : MemForm) (s : State) : State := s.modMem fun m => { m with outstanding := [⟨x, 0, f⟩] }

def ok : MemAnswer := ⟨0, .ok, false⟩
def bad : MemAnswer := ⟨0, .error, false⟩

/-- An image of unit 1 with its control page at 0x10_0000 and no parameter present (R180). -/
def image : Line :=
  let b := leBytes 4 0xC3160A5E ++ [1#8, 1#8] ++ leBytes 2 0 ++ leBytes 8 0x100000 ++ leBytes 46 0
  BitVec.ofNat 512 (leNat (b ++ leBytes 2 (crc16 b).toNat))

/-- A part after a good load, with the carrier present and its READY entry consumed. -/
def run : State :=
  { State.reset with
    loader := ⟨.running, none, promFields image⟩
    mem := { State.reset.mem with hold := .none }
    session := { State.reset.session with transceiver := true, carrier := true }
    ev := { State.reset.ev with ringBase := 0x101000#40 } }

/-- The regions of the tests, 64 KiB each: entries 0 and 7 MIRRORED (SYNC, ASYNC), 1 LAGGING, 2 ACCEPTING, 3 FAILED,
4 RELEASING, 5 REFUSED, 6 DRAINING. -/
def table : Vector Entry 32 :=
  setAt (setAt (setAt (setAt (setAt (setAt (setAt (setAt State.reset.regions
    0 ⟨.mirrored, 0x200000#40, 16, some .sync, 3, 0, [], []⟩)
    1 ⟨.lagging, 0x300000#40, 16, some .async, 4, 3, [2, 5], []⟩)
    2 ⟨.accepting, 0x400000#40, 16, none, 0, 0, [], []⟩)
    3 ⟨.failed, 0x500000#40, 16, none, 0, 0, [], []⟩)
    4 ⟨.releasing, 0x600000#40, 16, none, 0, 0, [], []⟩)
    5 ⟨.refused, 0x700000#40, 16, some .sync, 5, 0, [0], []⟩)
    6 ⟨.draining, 0x800000#40, 16, some .sync, 6, 0, [], []⟩)
    7 ⟨.mirrored, 0x900000#40, 16, some .async, 7, 0, [], []⟩

/-- A session of epoch 5 with unit 2, call 9; the own call number is 1. -/
def up : State :=
  { run with
    regions := table
    session := { run.session with
      state := .up, enable := true, call := 1, lastEpoch := 5, epoch := 5, peerUnit := 2, peerCall := 9
      answer := some ⟨5, 9, 4⟩ } }

def calling : State :=
  run.modSession fun x => { x with state := .calling, enable := true, call := 1, lastEpoch := 4 }

/-- No session and no carrier. -/
def dark : State := run.modSession fun x => { x with carrier := false }

/-- The session is closing. -/
def closing (s : State) : State := s.modSession fun x => { x with state := .closing }

/-- A frame of the peer, and its bytes from byte 1 on. -/
def fromPeer (epoch : BitVec 16) (b : ControlBody) : List Byte := controlBytes 2 ⟨epoch, b⟩
def restOf (epoch : BitVec 16) (b : ControlBody) : List Byte := (fromPeer epoch b).tail

/-- A NOTE and a WRITE frame of the peer's session. -/
def noteFrom (seq : BitVec 32) : List Byte := recordBytes 2 5 (Vector.replicate 4 none) ⟨seq, 1, .note 0x77 0xAB⟩
def writeFrom (seq : BitVec 32) (peer : RegionIx) : List Byte :=
  recordBytes 2 5 (Vector.replicate 4 none) ⟨seq, 1, .write 0 peer 3 0xFF 0x1122334455667788 1⟩

def aNote (cap : BitVec 48) : Record := ⟨cap, .note 0x77 0xAB⟩
def aWrite (e : RegionIx) (cap : BitVec 48) : Record := ⟨cap, .write e 3 64 0xFF 0 1⟩

/-- An apply entry that writes the first line of entry 2. -/
def anEntry (seq : BitVec 32) (last issued : Bool) : ApplyEntry :=
  ⟨seq, 5, some 2, .line 0x400000#40 0xFF 0x55 .write, last, issued, false⟩

def withQueue (q : List ApplyEntry) (s : State) : State := s.modApply fun a => { a with queue := q }
def withReplay (rs : List Replayed) (high : BitVec 32) (s : State) : State :=
  s.modTx fun t => { t with replay := rs, highest := high, next := seqSucc high, timer := some 200 }
def withSync (rs : List Record) (s : State) : State := s.modCapture fun c => { c with sync := rs }

/-! ## Check values and single steps -/

theorem test_crcCheckValues :
    crc32 ([0x31, 0x32, 0x33, 0x34, 0x35, 0x36, 0x37, 0x38, 0x39] : List Byte) = 0xCBF43926#32 ∧
      crc16 ([0x31, 0x32, 0x33, 0x34, 0x35, 0x36, 0x37, 0x38, 0x39] : List Byte) = 0x29B1#16 := by decide +kernel

/-- The bytes of an ACK of section 12.6, written out. -/
theorem test_ackBytes :
    (controlBytes 2 ⟨5, .ack 0x01020304⟩).take 12 =
      ([7, 0, 5, 0, 2, 0, 16, 0, 4, 3, 2, 1] : List Byte) := by decide +kernel

theorem test_goodImageStarts :
    (after1 (.promImageRead image) State.reset).loader.loadState = .running ∧
      (after1 (.promImageRead image) State.reset).ev.ringBase = 0x101000#40 ∧
      eventsOf (after1 (.promImageRead image) State.reset) = [.ready 1 0x100000 1] := by decide +kernel

theorem test_badImageBypasses :
    bypassPin (after1 (.promImageRead 0) State.reset) = true ∧
      bypassPin (after1 .loadTimerExpiry State.reset) = true := by decide +kernel

/-- R47's example: B's first JOIN is answered under epoch 1. -/
theorem test_firstJoinIsAnswered :
    let t := after1 (.join (restOf 0 (.join 1 0))) (calling.modSession fun x => { x with lastEpoch := 0 })
    t.session.answer = some ⟨1, 1, 0⟩ ∧ t.tx.control = [⟨0, .accept 1 1 1 0⟩] := by decide +kernel

/-- R48's example: the valid ACCEPT brings the part up and is answered. -/
theorem test_validAcceptBringsUp :
    let t := after1 (.accept (restOf 0 (.accept 1 1 1 0))) (calling.modSession fun x => { x with lastEpoch := 0 })
    t.session.state = .up ∧ t.session.epoch = 1 ∧ t.tx.control = [⟨0, .accept 1 1 1 0⟩] ∧
      eventsOf t = [.sessionUp 1 2 1 1] := by decide +kernel

/-- Chapter 2's example, time 0: W1 merges into the tail. -/
theorem test_writeMergesIntoTheTail :
    let s := withHead (.write 1 0x201000#40 0xFF00 0) (withSync [aWrite 0 1061] up)
    let t := after1 .memoryPortArbiter s
    (t.capture.sync.map Record.body) = [.write 0 3 64 0xFFFF 0 2] ∧ t.mem.outstanding.length = 1 ∧
      (t.stats)[statIx .mergedWrites] = 1 := by decide +kernel

/-- Chapter 2's example, time 2: below the boundary nothing merges. -/
theorem test_boundaryStopsTheMerge :
    let s := (withHead (.write 1 0x201000#40 0xFF0000 0) (withSync [aWrite 0 1061] up)).modCapture fun c =>
      { c with boundary := 1062, counter := 1062 }
    let t := after1 .memoryPortArbiter s
    (t.capture.sync.map Record.cap) = [1061, 1062] ∧ t.capture.counter = 1063 := by decide +kernel

/-- Chapter 6's example, time 5: a FENCE of a target only is DURABLE at once. -/
theorem test_fenceOfNoSourceIsDurable :
    let s := (withLine (line 6 0x13 (leBytes 4 0x4)) up).modCapture fun c => { c with counter := 2002 }
    eventsOf (after1 .fence s) = [.fenceDone .durable .none 0x13 none 2002] := by decide +kernel

/-- Chapter 10's example: a ring of 64 that is full, and the release that recovers it. -/
theorem test_releaseReportsTheLost :
    let s := (withLine (line 10 7 (leBytes 4 110)) run).modEv fun e =>
      { e with produce := 36, release := 100, write := 36, lost := 3, attn := true }
    let t := after1 .releaseEvents s
    t.ev.produce = 38 ∧ t.ev.release = 110 ∧ t.ev.lost = 0 ∧ unreleased t.ev = 56 ∧
      eventsOf t = [.eventsLost 3, .commandDone .ok 7 10 0 0] := by decide +kernel

theorem test_releaseOfEverythingReleasesItself :
    let s := (withLine (line 10 7 (leBytes 4 38)) run).modEv fun e =>
      { e with produce := 38, release := 110, write := 38, attn := true }
    let t := after1 .releaseEvents s
    t.ev.produce = 39 ∧ t.ev.release = 39 ∧ attnPin t = false := by decide +kernel

/-- The upper half of a line under the mask of its 32 bytes (R160). -/
theorem test_entryWriteOfAnUpperHalf :
    entryWrite ⟨.restarted 9, true, 0x0A0B0C0D, 0x101020#40, true⟩ =
      .write 0x101000#40 0xFFFFFFFF00000000#64 ((0x0A0B0C0D000000090000_0D01#512) <<< 256) := by decide +kernel

/-! ## States that meet the hypotheses of the statements, clause by clause -/

/-- O1; O2 with the load timer above 1 and at 1, with the load stopped by RESET_N, and in BYPASS. -/
theorem test_meetsO1O2 :
    ({ run with pending := [.restarted] } : State).pending = .restarted :: [] ∧
      run.pending = [] ∧ run.loader.loadState = .running ∧
      State.reset.pending = [] ∧ State.reset.loader.loadState = .loading ∧ State.reset.loader.loadTimer = some 20000 ∧
      bypassPin (tick (State.reset.modLoader fun l => { l with loadTimer := some 1 })) = true ∧
      (after1 .resetAssert run).loader.loadState = .loading ∧ (after1 .resetAssert run).loader.loadTimer = none ∧
      (after1 .loadTimerExpiry State.reset).pending = [] ∧
      (after1 .loadTimerExpiry State.reset).loader.loadState = .bypass := by decide +kernel

/-- O6, O7: a good and a bad image while the load runs, and a load that has ended. -/
theorem test_meetsO6O7 :
    loadRunning State.reset = true ∧ imageGood image = true ∧ imageGood 0 = false ∧ loadRunning run = false := by
  decide +kernel

/-- O8. -/
theorem test_meetsO8 :
    frameArrival (.unknownFrame [0xFF]) = some [0xFF] ∧ run.session.carrier = true ∧ frameGood [0xFF] = false ∧
      dark.session.carrier = false ∧ dark.session.dropped = false := by decide +kernel

/-- O9: the premise on a JOIN. -/
theorem test_meetsO9 : (⟨0, .join 1 0⟩ : ControlFrame).epoch = 0 := by decide

/-- O8: a stale ACK, a JOIN in DISABLED, an ACCEPT in a session. -/
theorem test_meetsO8Stale :
    sessionArrival (.ack (restOf 4 (.ack 1))) = some (fromPeer 4 (.ack 1)) ∧ Delivered up (fromPeer 4 (.ack 1)) ∧
      frameEpoch (fromPeer 4 (.ack 1)) ≠ up.session.epoch ∧
      Delivered run (frameOf .join (restOf 0 (.join 9 4))) ∧ run.session.state = .disabled ∧
      Delivered up (frameOf .accept (restOf 0 (.accept 5 9 1 4))) ∧ up.session.state ≠ .calling := by
  unfold Delivered
  decide +kernel

/-- A JOIN whose sender is this part. -/
def ownJoin : List Byte := (controlBytes 1 ⟨0, .join 9 4⟩).tail

/-- O10: refused and reported, refused and not, answered. -/
theorem test_meetsO10 :
    let reported := calling.modSession fun x => { x with refusalReported := true }
    Delivered reported (frameOf .join ownJoin) ∧ Delivered calling (frameOf .join ownJoin) ∧
      calling.session.state = .calling ∧ (joinFields (frameOf .join ownJoin)).sender = calling.loader.prom.unitId ∧
      reported.session.refusalReported = true ∧ calling.session.refusalReported = false ∧
      Delivered calling (frameOf .join (restOf 0 (.join 9 4))) ∧
      (joinFields (frameOf .join (restOf 0 (.join 9 4)))).sender ≠ calling.loader.prom.unitId ∧
      (joinFields (frameOf .join (restOf 0 (.join 9 4)))).version = 1 := by
  unfold Delivered
  decide +kernel

/-- O11: refused and reported, refused and not, the current peer's, another call in CLOSING and in UP. -/
theorem test_meetsO11 :
    let reported := up.modSession fun x => { x with refusalReported := true }
    Delivered reported (frameOf .join ownJoin) ∧ reported.session.refusalReported = true ∧
      Delivered up (frameOf .join ownJoin) ∧ inSession up = true ∧ up.session.refusalReported = false ∧
      Delivered up (frameOf .join (restOf 0 (.join 9 4))) ∧ up.session.answer = some ⟨5, 9, 4⟩ ∧
      (joinFields (frameOf .join (restOf 0 (.join 9 4)))).sender = up.session.peerUnit ∧
      (joinFields (frameOf .join (restOf 0 (.join 9 4)))).call = up.session.peerCall ∧
      Delivered (closing up) (frameOf .join (restOf 0 (.join 10 5))) ∧ inSession (closing up) = true ∧
      (joinFields (frameOf .join (restOf 0 (.join 10 5)))).call ≠ up.session.peerCall ∧
      (closing up).session.state = .closing ∧
      Delivered up (frameOf .join (restOf 0 (.join 10 5))) ∧ up.session.state = .up := by
  unfold Delivered
  decide +kernel

/-- O12: an echo of another call, an ACCEPT whose answer was sent, one whose answer was not. -/
theorem test_meetsO12 :
    let answered := calling.modSession fun x => { x with answer := some ⟨5, 9, 4⟩ }
    Delivered calling (frameOf .accept (restOf 0 (.accept 5 9 2 4))) ∧ calling.session.state = .calling ∧
      (acceptFields (frameOf .accept (restOf 0 (.accept 5 9 2 4)))).echo ≠ calling.session.call ∧
      Delivered calling (frameOf .accept (restOf 0 (.accept 5 9 1 4))) ∧
      acceptValid calling (acceptFields (frameOf .accept (restOf 0 (.accept 5 9 1 4)))) = true ∧
      answerMatches calling (acceptFields (frameOf .accept (restOf 0 (.accept 5 9 1 4)))) = false ∧
      answerMatches answered (acceptFields (frameOf .accept (restOf 0 (.accept 5 9 1 4)))) = true := by
  unfold Delivered
  decide +kernel

/-- O13: a PART of the session, a claim outside and inside a session, a carrier that drops. -/
theorem test_meetsO13 :
    let claimed := fun s : State => s.modTx fun t => { t with lossClaim := some .retryLimit, suspended := true }
    Current up (frameOf .part (restOf 5 (.part 3))) ∧
      (claimed calling).tx.lossClaim = some .retryLimit ∧ inSession (claimed calling) = false ∧
      (claimed up).tx.lossClaim = some .retryLimit ∧ inSession (claimed up) = true ∧
      up.session.carrier = true ∧ inSession up = true := by
  unfold Current Delivered
  decide +kernel

/-- O13: a session with nothing in flight. -/
theorem test_meetsO13Quiet :
    let s := { up with regions := State.reset.regions }
    Current s (frameOf .part (restOf 5 (.part 3))) ∧ s.session.state = .up ∧ (∀ e, (s.entry e).state ≠ .mirrored) ∧
      s.capture.sync = [] ∧ s.capture.async = [] ∧ s.tx.replay = [] ∧ s.resync.segment = none ∧ s.resync.block = .idle ∧
      s.fences = [] ∧ s.session.pendingDisconnect = none ∧ ringRoom s 1 := by
  unfold Current Delivered ringRoom
  decide +kernel

/-- A session that holds a WRITE of the LAGGING region in segment 1, one of the DRAINING region with its CLOSE pending, a
NOTE and a BLOCK, with a fence and with a block of the LAGGING region under way. -/
def laden : State :=
  { withReplay [⟨3, aWrite 6 2⟩, ⟨4, aNote 3⟩, ⟨5, ⟨4, .block 1 4 7 1⟩⟩] 5 (withSync [aWrite 1 5] up) with
    fences := [⟨9, 6, [⟨0, .none⟩, ⟨6, .none⟩]⟩]
    cmd := { up.cmd with pendingClose := setAt up.cmd.pendingClose 6 (some 8) }
    resync := { up.resync with
      segment := some ⟨1, 9, 9, false⟩, block := .reading, issued := 5, taken := 2, reserved := some (0, .async)
      buffers := setAt (setAt up.resync.buffers 0 (some 0)) 1 (some 0) } }

/-- A write at an address is the head request, held with a reason. -/
def holding (h : HoldReason) (addr : Addr) (s : State) : State :=
  s.modMem fun m => { m with hold := h, holdTimer := some 9, presented := true, head := some (.write 1 addr 0xFF 0) }

/-- O13's clauses on regions, buffers and events: each kind of region, record and fence, the room in the ring, and what
a drop of the carrier makes of it (R37, R55, R72, R94). -/
theorem test_lossOfALadenSession :
    let t := after1 .carrierDown laden
    laden.session.carrier = true ∧ inSession laden = true ∧
      unreleased laden.ev + (34 + laden.fences.length + 2 * (heldRecords laden).length) ≤ laden.ev.count ∧
      (t.entry 1).dirty = [1, 2, 5, 7, 9] ∧ (t.entry 1).state = .lagging ∧ (t.entry 0).state = .lagging ∧
      (t.entry 5).state = .refused ∧ t.entry 6 = Entry.zero ∧ (t.cmd.pendingClose)[(6 : RegionIx)] = none ∧
      buffersHeld t.resync = 0 ∧ t.resync.toDiscard = 3 ∧ t.resync.block = .idle ∧
      eventsOf t = [.regionState .sessionDown 0 .source .mirrored .lagging,
        .fenceDone .notDurable .sessionDown 9 (some 0) 6,
        .regionState .sessionDown 7 .source .mirrored .lagging,
        .regionState .drained 6 .source .draining .free, .commandDone .ok 8 5 6 0,
        .commandDone .lost 0x77 7 0 0, .sessionDown .carrier 5 5 0 0] := by decide +kernel

/-- O11's, O13's and O38's clauses on what a loss makes of the session and keeps of the Command Unit, with the carrier
present and gone, and from CLOSING (R44, R46, R143). -/
theorem test_lossKeepsTheRest :
    let s := (up.modSession fun x => { x with refusalReported := true, lastEpoch := 5 }).modCmd fun c =>
      { c with queue := [7], writeOut := some ⟨true, 1, 0, 3, 0⟩, waiting := some ⟨1, 2⟩ }
    let left := after1 (.part (restOf 5 (.part 3))) s
    let dropped := after1 .carrierDown s
    let closed := after1 (.part (restOf 5 (.part 3))) (closing s)
    let calls := { s.session with state := .calling, call := 2, epoch := 0, answer := none, refusalReported := false }
    Current s (frameOf .part (restOf 5 (.part 3))) ∧ s.session.carrier = true ∧ s.session.joinTimer = none ∧
      left.session = { calls with joinTimer := some s.params.joinInterval } ∧
      dropped.session = { calls with carrier := false, dropped := true } ∧
      closed.session = { s.session with state := .disabled, epoch := 0 } ∧
      left.cmd = s.cmd ∧ dropped.cmd = s.cmd ∧ closed.cmd = s.cmd := by
  unfold Current Delivered
  decide +kernel

/-- O11's and O13's clauses on holds and marks: a hold on a MIRRORED region, on the SYNC queue and on the block under
way ends, another stays, and three new marks are counted (R19, R24, R80, R89). -/
theorem test_lossEndsHolds :
    let hold := fun (h : HoldReason) (addr : Addr) (s : State) => (after1 .carrierDown (holding h addr s)).mem
    HeldOn (holding .syncFull 0x200000#40 up) 0 ∧ ReleaseEndsHold (holding .blockRead 0x300000#40 laden) ∧
      (hold .syncFull 0x200000#40 up).hold = .none ∧ (hold .syncFull 0x200000#40 up).holdTimer = none ∧
      (hold .blockRead 0x300000#40 laden).hold = .none ∧ (hold .syncFull 0x300000#40 laden).hold = .none ∧
      (hold .syncFull 0x300000#40 up).hold = .syncFull ∧ (hold .commandFull 0x200000#40 laden).hold = .commandFull ∧
      marksMade laden (after1 .carrierDown laden) = 3 ∧
      ((after1 .carrierDown laden).stats)[statIx .dirtyMarks] = 3 := by
  refine ⟨⟨.inl rfl, by decide +kernel⟩, ⟨0, .async, rfl, .inl rfl⟩, ?_⟩
  decide +kernel

/-- O13, O8 and R108: the ACK that a fence waits for, taken behind the carrier-down report, is stale in CALLING, and the
fence has completed NOT_DURABLE. -/
theorem test_ackBehindTheDrop :
    let s := (withReplay [⟨3, aWrite 0 1⟩] 3 up).modFences fun _ => [⟨9, 6, [⟨0, .none⟩]⟩]
    let ack := Instr.ack (restOf 5 (.ack 3))
    let t := after1 ack (after1 .carrierDown s)
    frameGood (frameOf .ack (restOf 5 (.ack 3))) = true ∧ t.session.state = .calling ∧ t.session.carrier = false ∧
      t.session.dropped = true ∧ (t.stats)[statIx .framesStale] = 1 ∧ t.fences = [] ∧
      Event.fenceDone .notDurable .sessionDown 9 (some 0) 6 ∈ eventsOf t ∧
      (eventsOf (after1 .carrierDown (after1 ack s))).head? = some (.fenceDone .durable .none 9 none 6) ∧
      (∃ x, sessionArrival ack = some x ∧ Delivered (after1 .carrierDown s) x) := by
  refine ⟨?_, ?_, ?_, ?_, ?_, ?_, ?_, ?_, _, rfl, ?_⟩
  all_goals (try unfold Delivered); decide +kernel

/-- O11, O13 and O22 with the carrier absent: a JOIN of a new call and a PART in a session, and the JOIN timer, which an
ACCEPT has started (R46, R47). -/
theorem test_framesBehindTheDrop :
    let s := up.modSession fun x => { x with carrier := false, dropped := true }
    let t := after1 (.join (restOf 0 (.join 10 5))) s
    let u := after1 .joinTimerExpiry t
    Delivered s (frameOf .join (restOf 0 (.join 10 5))) ∧ Current s (frameOf .part (restOf 5 (.part 3))) ∧
      t.tx.control = [⟨0, .accept 6 2 10 5⟩] ∧ t.session.joinTimer = some 100 ∧ t.session.state = .calling ∧
      u.session.joinTimer = none ∧ u.tx.control = t.tx.control ∧ u.ev.timeBase = 100 ∧
      (after1 (.part (restOf 5 (.part 3))) s).tx.control = [] := by
  unfold Current Delivered
  decide +kernel

/-- O14. -/
theorem test_meetsO14 :
    let callingDark := calling.modSession fun x => { x with carrier := false }
    dark.session.transceiver = true ∧ dark.session.carrier = false ∧ dark.session.state ≠ .calling ∧
      callingDark.session.transceiver = true ∧ callingDark.session.carrier = false ∧
      callingDark.session.state = .calling ∧
      run.session.carrier = true ∧ run.session.state = .disabled ∧
      calling.session.carrier = true ∧ calling.session.state = .calling := by decide +kernel

/-- O15: a NOTE in order that finds the queue empty and nothing else under way, and one that takes the last free entry
behind an active one. -/
theorem test_meetsO15 :
    let s := withQueue (List.replicate 127 (anEntry 1 true false)) up
    sessionArrival (.noteFrame (noteFrom 1).tail) = some (noteFrom 1) ∧
      recordArrival (.noteFrame (noteFrom 1).tail) = some (1, .note 0x77 0xAB) ∧ Current up (noteFrom 1) ∧
      1 = up.rx.expected ∧ up.apply.queue = [] ∧ up.apply.headError = false ∧ up.rx.carried = 0 ∧ up.rx.unacked = 0 ∧
      up.mem.hold ≠ .applyPending ∧
      (recordEntries up 1 (.note 0x77 0xAB)).1.length ≤ Config.applySlots - up.apply.queue.length ∧
      Current s (noteFrom 1) ∧ 1 = s.rx.expected ∧
      (recordEntries s 1 (.note 0x77 0xAB)).1.length = Config.applySlots - s.apply.queue.length ∧
      ((s.apply.queue ++ (recordEntries s 1 (.note 0x77 0xAB)).1).head?.map ApplyEntry.passive) = some false := by
  unfold Current Delivered
  decide +kernel

/-- A WRITE frame whose mask is empty. -/
def emptyWrite : List Byte := recordBytes 2 5 (Vector.replicate 4 none) ⟨1, 1, .write 0 2 3 0 0 1⟩

/-- O15's record that finds the queue empty and is passive: a rejected WRITE and one with an empty mask (R113, R115). -/
theorem test_meetsO15Passive :
    Current up (writeFrom 1 3) ∧ Current up emptyWrite ∧ up.apply.queue = [] ∧ 1 = up.rx.expected ∧
      ((recordEntries up 1 (writeFields (writeFrom 1 3))).1.map fun p => (p.passive, p.target)) = [(true, some 3)] ∧
      ((recordEntries up 1 (writeFields emptyWrite)).1.map fun p => (p.passive, p.target)) = [(true, some 2)] ∧
      (up.entry 3).state ≠ .releasing ∧ (up.entry 4).state = .releasing := by
  have good : ∀ r, frameGood (recordBytes 2 5 (Vector.replicate 4 none) r) =
      formGood (recordBytes 2 5 (Vector.replicate 4 none) r) := fun r => by
    rw [frameGood, crcGood_recordBytes, Bool.true_and]
  unfold Current Delivered writeFrom emptyWrite
  rw [good, good]
  decide +kernel

/-- Such a record completes in the action of its acceptance, behind its REJECT: as the first unacknowledged one, as the
16th, carried over, with a RELEASING target, and with an empty mask (R14, R74, R77, R114, R116). -/
theorem test_passiveRecordCompletesAtOnce :
    let of := fun (bytes : List Byte) (s : State) => receiveRecord s 1 (writeFields bytes)
    let first := of (writeFrom 1 3) up
    let sixteenth := of (writeFrom 1 3) (up.modRx fun r => { r with unacked := 15, ackTimer := some 8 })
    let carried := of (writeFrom 1 3) (up.modRx fun r => { r with carried := 1, unacked := 1 })
    let masked := of emptyWrite up
    first.apply.queue = [] ∧ first.tx.control = [⟨5, .reject 1 3 .targetFailed⟩] ∧ first.rx.ackPoint = 1 ∧
      first.rx.unacked = 1 ∧ first.rx.ackTimer = some up.params.ackDelay ∧ (first.stats)[statIx .recordsApplied] = 0 ∧
      sixteenth.tx.control = [⟨5, .reject 1 3 .targetFailed⟩, ⟨5, .ack 1⟩] ∧ sixteenth.rx.unacked = 0 ∧
      sixteenth.rx.ackTimer = none ∧ carried.rx.ackPoint = 0 ∧ carried.rx.unacked = 1 ∧ carried.rx.carried = 0 ∧
      (of (writeFrom 1 4) up).entry 4 = Entry.zero ∧ masked.apply.queue = [] ∧ masked.tx.control = [] ∧
      masked.rx.ackPoint = 1 ∧ (masked.stats)[statIx .recordsApplied] = 1 := by decide +kernel

/-- The fields of a WRITE frame, whose record E's validation turns into one line entry (R113, R114). -/
theorem test_writeFrameReadsBack :
    ((recordArrival (.writeFrame (writeFrom 1 2).tail)).map Prod.fst) = some 1 ∧
      ((recordEntries up 1 (writeFields (writeFrom 1 2))).1.map fun en => (en.target, en.last)) = [(some 2, true)] := by
  decide +kernel

/-- O16: the peer indices and the positions at the ends of their ranges, for each reason. -/
theorem test_meetsO16 :
    32 ≤ (32#8).toNat ∧ (31 : RegionIx).val = (31#8).toNat ∧ roleOf (up.entry 31).state ≠ .target ∧
      (up.entry 4).state = .releasing ∧ (up.entry 3).state = .failed ∧ (up.entry 2).state = .accepting ∧
      2 ^ ((up.entry 2).sizeExp - 6) ≤ 1024 ∧ 1023 < 2 ^ ((up.entry 2).sizeExp - 6) ∧
      2 ^ ((up.entry 2).sizeExp - 12) ≤ 16 ∧ 15 < 2 ^ ((up.entry 2).sizeExp - 12) := by decide +kernel

/-- O17: a duplicate, a gap without and with a RETRY sent, and a record in order with the queue full. -/
theorem test_meetsO17 :
    let later := up.modRx fun r => { r with expected := 2 }
    let retried := up.modRx fun r => { r with retrySent := true }
    let full := withQueue (List.replicate 128 (anEntry 1 true false)) up
    Current later (noteFrom 1) ∧ seqBelow 1 later.rx.expected = true ∧
      Current up (noteFrom 2) ∧ seqBelow up.rx.expected 2 = true ∧ up.rx.retrySent = false ∧ up.rx.deferred = none ∧
      Current retried (noteFrom 2) ∧ retried.rx.retrySent = true ∧
      Current full (noteFrom 1) ∧ 1 = full.rx.expected ∧
      Config.applySlots - full.apply.queue.length < (recordEntries full 1 (.note 0x77 0xAB)).1.length := by
  unfold Current Delivered
  decide +kernel

/-- O18: an ACK beyond the highest sent, with and without a suspension; one with nothing to remove; one that covers
the oldest; one that covers a NOTE. -/
theorem test_meetsO18 :
    let s := withReplay [⟨3, aWrite 0 1⟩, ⟨4, aNote 2⟩] 4 up
    let n := withReplay [⟨4, aNote 2⟩] 4 up
    let stuck := s.modTx fun t => { t with suspended := true }
    Current stuck (frameOf .ack (restOf 5 (.ack 5))) ∧ seqBelow stuck.tx.highest 5 = true ∧ stuck.tx.suspended = true ∧
      frameSeq (frameOf .ack (restOf 5 (.ack 5))) = 5 ∧ s.tx.suspended = false ∧
      seqBelow s.tx.highest 2 = false ∧ seqBelow 2 3 = true ∧ frameSeq (frameOf .ack (restOf 5 (.ack 2))) = 2 ∧
      Current s (frameOf .ack (restOf 5 (.ack 3))) ∧ seqBelow s.tx.highest 3 = false ∧
      (s.tx.replay.head?.map Replayed.seq) = some 3 ∧ seqBelow 3 3 = false ∧ s.session.state = .up ∧
      Current n (frameOf .ack (restOf 5 (.ack 4))) ∧ seqBelow n.tx.highest 4 = false ∧
      n.tx.replay = [⟨frameSeq (frameOf .ack (restOf 5 (.ack 4))), ⟨2, .note 0x77 0xAB⟩⟩] ∧ n.session.state = .up ∧
      n.fences = [] := by
  unfold Current Delivered
  decide +kernel

/-- O18's steps of R66: an ACK of everything in the replay list frees a buffer, completes a NOTE and a CLOSE, and lets a
fence of which nothing else is held pass, while one with a record in a queue stays. -/
theorem test_ackOfALadenSession :
    let s := laden.modFences fun fs => fs ++ [⟨10, 6, [⟨1, .none⟩]⟩]
    let t := after1 (.ack (restOf 5 (.ack 5))) s
    Current s (frameOf .ack (restOf 5 (.ack 5))) ∧ s.session.state = .up ∧ seqBelow s.tx.highest 5 = false ∧
      unreleased s.ev + (3 * 3 + s.fences.length) ≤ s.ev.count ∧
      t.tx.replay = [] ∧ t.tx.timer = none ∧ (t.resync.buffers)[(1 : Fin 4)] = none ∧
      (t.resync.buffers)[(0 : Fin 4)] = some 0 ∧ t.entry 6 = Entry.zero ∧ (t.fences.map Fence.tag) = [10] ∧
      eventsOf t = [.commandDone .ok 0x77 7 0 0, .regionState .drained 6 .source .draining .free, .commandDone .ok 8 5 6 0,
        .fenceDone .durable .none 9 none 6] := by
  unfold Current Delivered
  decide +kernel

/-- O18: an ACK 2^31 from the one record held, which is then neither its number nor below it, and one at 2^31 - 1, which
is beyond the highest sent (R63, R65). -/
theorem test_ackHalfTheNumbersAway :
    let s := withReplay [⟨0x80000000, aWrite 0 1⟩] 0x80000000 up
    Current s (frameOf .ack (restOf 5 (.ack 0))) ∧ seqBelow s.tx.highest 0 = false ∧ seqBelow 0 0x80000000 = false ∧
      seqUpTo 0x80000000 0 = false ∧ after1 (.ack (restOf 5 (.ack 0))) s = s ∧
      (after1 (.ack (restOf 5 (.ack 0xFFFFFFFF))) s).tx.lossClaim = some .protocol ∧
      (after1 (.ack (restOf 5 (.ack 0x80000000))) s).tx.replay = [] := by
  unfold Current Delivered
  decide +kernel

/-- O18's frame of the Command Unit: only the pending CLOSE of the region that becomes FREE is taken. -/
theorem test_ackKeepsTheCommands :
    let s := laden.modCmd fun c =>
      { c with queue := [7], writeOut := some ⟨true, 1, 0, 3, 0⟩, pendingClose := setAt c.pendingClose 4 (some 2) }
    (after1 (.ack (restOf 5 (.ack 5))) s).cmd = { s.cmd with pendingClose := setAt s.cmd.pendingClose 6 none } := by
  decide +kernel

/-- O18 in CLOSING: with a record left in a queue the steps are the same, and with none the session ends (R51). -/
theorem test_ackInClosing :
    let s := { closing laden with fences := [], resync := up.resync }
    let d := withSync [] s
    let t := after1 (.ack (restOf 5 (.ack 5))) s
    let u := after1 (.ack (restOf 5 (.ack 5))) d
    Current s (frameOf .ack (restOf 5 (.ack 5))) ∧ s.session.state ≠ .up ∧ t.session.state = .closing ∧
      t.entry 6 = Entry.zero ∧ t.capture.sync = [aWrite 1 5] ∧
      u.session.state = .disabled ∧ u.tx.control = [⟨5, .part 5⟩] ∧
      eventsOf u = eventsOf t ++ [.sessionDown .disconnected 5 5 0 0] := by
  unfold Current Delivered
  decide +kernel

/-- O19: two beyond the highest sent with and without a suspension, an empty list, below the oldest, the highest plus
one, and a record held. -/
theorem test_meetsO19 :
    let s := withReplay [⟨3, aWrite 0 1⟩, ⟨4, aNote 2⟩] 4 up
    let stuck := s.modTx fun t => { t with suspended := true }
    Current stuck (frameOf .retry (restOf 5 (.retry 6))) ∧ seqBelow (seqSucc s.tx.highest) 6 = true ∧
      stuck.tx.suspended = true ∧ s.tx.suspended = false ∧
      Current up (frameOf .retry (restOf 5 (.retry 1))) ∧ seqBelow (seqSucc up.tx.highest) 1 = false ∧
      up.tx.replay = [] ∧
      (s.tx.replay.head?.map Replayed.seq) = some 3 ∧ seqBelow (seqSucc s.tx.highest) 2 = false ∧ seqBelow 2 3 = true ∧
      seqBelow (seqSucc s.tx.highest) 5 = false ∧ seqBelow 5 3 = false ∧ 5 = seqSucc s.tx.highest ∧
      seqBelow (seqSucc s.tx.highest) 4 = false ∧ seqBelow 4 3 = false ∧ 4 ≠ seqSucc s.tx.highest ∧
      (∃ r ∈ s.tx.replay, r.seq = 4) := by
  unfold Current Delivered
  decide +kernel

/-- O20: a number not held, a NOTE, a record of a DRAINING, of a MIRRORED and of a LAGGING region. -/
theorem test_meetsO20 :
    let s := withReplay [⟨1, aNote 1⟩, ⟨2, aWrite 6 2⟩, ⟨3, aWrite 0 3⟩, ⟨4, aWrite 1 4⟩] 4 up
    let found := fun n : BitVec 32 => (s.tx.replay.find? fun r => r.seq == n).map fun r => r.record.region
    Current s (frameOf .reject (restOf 5 (.reject 3 3 .noTarget))) ∧
      frameSeq (frameOf .reject (restOf 5 (.reject 3 3 .noTarget))) = 3 ∧
      found 5 = none ∧ found 1 = some none ∧ found 2 = some (some 6) ∧ (s.entry 6).state = .draining ∧
      found 3 = some (some 0) ∧ (s.entry 0).state = .mirrored ∧
      found 4 = some (some 1) ∧ (s.entry 1).state = .lagging ∧ ringRoom s 2 := by
  unfold Current Delivered ringRoom
  decide +kernel

/-- O20's clauses on the queues, the block under way, the fences and the hold: a REJECT of the BLOCK of the LAGGING
region, with a fence on that region, one that passes and one that stays (R9, R36, R92, R103, R104). -/
theorem test_rejectOfALadenRegion :
    let s := (holding .blockRead 0x300000#40 laden).modFences fun fs =>
      fs ++ [⟨10, 6, [⟨1, .none⟩]⟩, ⟨11, 6, [⟨7, .none⟩]⟩]
    let t := after1 (.reject (restOf 5 (.reject 5 4 .noTarget))) s
    Current s (frameOf .reject (restOf 5 (.reject 5 4 .noTarget))) ∧ (s.entry 1).state = .lagging ∧
      ringRoom s (2 + s.fences.length) ∧
      t.entry 1 = { s.entry 1 with state := .refused, dirty := List.range 16 } ∧ t.capture.sync = [] ∧
      (t.resync.buffers)[(0 : Fin 4)] = none ∧ (t.resync.buffers)[(1 : Fin 4)] = some 0 ∧ t.resync.toDiscard = 3 ∧
      t.mem.hold = .none ∧ (t.stats)[statIx .dirtyMarks] = 14 ∧ t.fences.map Fence.tag = [9] ∧
      eventsOf t = [.recordRejected 1 5 4 .block 4 1, .regionState .rejected 1 .source .lagging .refused,
        .fenceDone .notDurable .regionRefused 10 (some 1) 6, .fenceDone .durable .none 11 none 6] := by
  unfold Current Delivered ringRoom
  decide +kernel

/-- O21: no carrier; a control frame; a suspension; a cursor on the second record; nothing to send for each reason. -/
theorem test_meetsO21 :
    let s := (withReplay [⟨3, aWrite 0 1⟩, ⟨4, aNote 2⟩] 4 up).modTx fun t => { t with cursor := some 4 }
    let full := withReplay (List.replicate 512 ⟨3, aWrite 0 1⟩) 3 up
    dark.session.carrier = false ∧
      up.session.carrier = true ∧ (up.modTx fun t => { t with control := [⟨5, .ack 1⟩] }).tx.control ≠ [] ∧
      (up.modTx fun t => { t with suspended := true }).tx.suspended = true ∧ up.tx.control = [] ∧
      s.session.carrier = true ∧ s.tx.control = [] ∧ s.tx.suspended = false ∧ s.tx.cursor = some 4 ∧
      s.tx.replay = [⟨3, aWrite 0 1⟩] ++ ⟨4, aNote 2⟩ :: [] ∧
      inSession calling = false ∧ calling.tx.control = [] ∧ calling.tx.cursor = none ∧
      Config.replaySlots ≤ full.tx.replay.length ∧ full.tx.cursor = none ∧
      up.capture.sync = [] ∧ up.capture.async = [] ∧ up.tx.cursor = none := by decide +kernel

/-- O21: the SYNC queue, the ASYNC queue alone, and the ASYNC queue after eight of the other. -/
theorem test_meetsO21Records :
    let a := withSync [aWrite 0 1] up
    let b := up.modCapture fun c => { c with async := [aWrite 7 1] }
    let c := (a.modCapture fun c => { c with async := [aWrite 7 1] }).modTx fun t => { t with syncRun := 8 }
    (a.session.carrier = true ∧ a.tx.control = [] ∧ a.tx.suspended = false ∧ a.tx.cursor = none ∧ inSession a = true ∧
      a.tx.replay.length < Config.replaySlots ∧ ¬(a.capture.sync = [] ∨ (a.tx.syncRun = 8 ∧ a.capture.async ≠ [])) ∧
      a.capture.queueOf .sync = [aWrite 0 1]) ∧
      (b.session.carrier = true ∧ inSession b = true ∧ b.capture.sync = [] ∧
        b.capture.queueOf .async = [aWrite 7 1]) ∧
      (c.session.carrier = true ∧ inSession c = true ∧ c.tx.syncRun = 8 ∧ c.capture.async ≠ [] ∧
        c.capture.queueOf .async = [aWrite 7 1]) := by decide +kernel

/-- O22: each timer running, the timeout count at RETRY_LIMIT and below it, and each timer stopped. -/
theorem test_meetsO22 :
    let j := calling.modSession fun x => { x with joinTimer := some 100 }
    let at8 := up.modTx fun t => { t with timer := some 200, timeouts := 8 }
    let at7 := up.modTx fun t => { t with timer := some 200, timeouts := 7 }
    let k := up.modRx fun r => { r with ackTimer := some 8, unacked := 1 }
    j.session.joinTimer = some 100 ∧ j.session.state = .calling ∧ j.session.carrier = true ∧
      at8.tx.timer = some 200 ∧ at8.params.retryLimit.toNat < at8.tx.timeouts + 1 ∧
      at7.tx.timer = some 200 ∧ at7.tx.timeouts + 1 ≤ at7.params.retryLimit.toNat ∧
      k.rx.ackTimer = some 8 ∧ inSession k = true ∧
      up.session.joinTimer = none ∧ up.tx.timer = none ∧ up.rx.ackTimer = none := by decide +kernel

/-- O22. -/
theorem test_meetsO22Ports :
    let h := up.modMem fun m => { m with hold := .syncFull, holdTimer := some 50 }
    let q := up.modApply fun a => { a with reports := setAt a.reports 2 ⟨some 1000, 3⟩ }
    let d := up.modEv fun e => { e with attnTimer := some 10 }
    h.mem.holdTimer = some 50 ∧ h.mem.hold = .syncFull ∧ (q.apply.reports)[(2 : RegionIx)] = ⟨some 1000, 3⟩ ∧
      d.ev.attnTimer = some 10 ∧ up.mem.holdTimer = none ∧ ((up.apply.reports)[(2 : RegionIx)]).timer = none ∧
      up.ev.attnTimer = none := by decide +kernel

def aRead (addr : Addr) : SysRequest := .read 1 addr 64
def aStore (addr : Addr) : SysRequest := .write 1 addr 0xFF 0
def aLine (addr : Addr) : SysRequest := .write 1 addr fullMask 0

/-- O23, and R130's order: the request that finds a head waits behind it. -/
theorem test_meetsO23 :
    up.resetN = true ∧ up.mem.head = none ∧ (after1 .resetAssert up).resetN = false ∧
      (withHead (aRead 0) up).mem.head ≠ none ∧
      (after1 (.systemPortRequest (aStore 0)) (withHead (aRead 0) up)).mem.behind = [aStore 0] := by decide +kernel

/-- O24: the lines at both ends of each class, and ranges that touch and meet each thing that the overlap rule
compares. -/
theorem test_meetsO24 :
    let w := up.modCmd fun c => { c with writeOut := some ⟨true, 1, 0xB00000, 17, 0⟩ }
    let o := up.modEv fun e => { e with list := [⟨.restarted 1, true, 0, 0xC00000#40, false⟩] }
    ([0xFFFC0, 0x100000, 0x100FC0, 0x101000, 0x1017C0, 0x101800, 0x1FFFC0, 0x200000, 0x20FFC0, 0x210000].map
        (classify up)) =
      [.unwatched, .control, .control, .ring, .ring, .unwatched, .unwatched, .region 0, .region 0, .unwatched] ∧
      ([(0x210000, 0x220000), (0x1F0000, 0x200001), (0xF0000, 0x100000), (0xF0000, 0x100001), (0x101800, 0x102000),
        (0x1017FF, 0x102000)].map fun r => openOverlaps up r.1 r.2) = [false, true, false, true, false, true] ∧
      openOverlaps w (0xB00000 + 1087) 0xB10000 = true ∧ openOverlaps w (0xB00000 + 1088) 0xB10000 = false ∧
      ringOverlaps w 0xB00000 0xB00800 = true ∧ ringOverlaps up 0x101000 0x101800 = false ∧
      writeOutOverlaps w 0xB00000 0xB00080 = false ∧ writeOutOverlaps up 0x1017C0 0x101840 = true ∧
      openOverlaps o (0xC00000 + 31) 0xC10000 = true ∧ openOverlaps o (0xC00000 + 32) 0xC10000 = false := by decide +kernel

/-- O25: a request in BYPASS; a read of no target, of a target presented before, of a target with no apply; a write of
the ring, of an unwatched line, of a DRAINING region; a malformed READ of 65 bytes and one across a line's end. -/
theorem test_meetsO25 :
    let b := withHead (aStore 0) (after1 .loadTimerExpiry State.reset)
    let again := (withHead (aRead 0x400000#40) up).modMem fun m => { m with presented := true }
    (Granted b (aStore 0) ∧ malformed (aStore 0) = false ∧ b.loader.loadState = .bypass) ∧
      (Granted (withHead (aRead 0x200000#40) up) (aRead 0x200000#40) ∧ malformed (aRead 0x200000#40) = false ∧
        classify up (lineOf 0x200000#40) = .region 0 ∧ roleOf (up.entry 0).state ≠ .target) ∧
      (Granted again (aRead 0x400000#40) ∧ again.mem.presented = true) ∧
      (Granted (withHead (aRead 0x400000#40) up) (aRead 0x400000#40) ∧ up.apply.queue = []) ∧
      (Granted (withHead (aStore 0x101000#40) up) (aStore 0x101000#40) ∧ classify up (lineOf 0x101000#40) = .ring) ∧
      classify up (lineOf 0x101800#40) = .unwatched ∧
      (classify up (lineOf 0x800000#40) = .region 6 ∧ (up.entry 6).state = .draining) ∧
      (Granted (withHead (.read 1 0 65) up) (.read 1 0 65) ∧ malformed (.read 1 0 65) = true ∧
        malformed (.read 1 1 64) = true ∧ malformed (.read 1 0 0) = true ∧ up.mem.behind = [] ∧
        grantedSource up = none) := by
  unfold Granted
  decide +kernel

/-- A malformed READ is answered, and the arbiter grants the request behind it in the same command (R130, R138). -/
theorem test_arbiterChoosesAgain :
    let t := after1 .memoryPortArbiter
      ((withHead (.read 1 0 65) up).modMem fun m => { m with behind := [aRead 0, aStore 0] })
    t.out.toMasters = [⟨true, 1, .error, []⟩] ∧ t.mem.head = some (aStore 0) ∧
      t.mem.outstanding = [⟨.passThrough, 0, .read 0 64⟩] ∧ t.mem.run = 1 := by decide +kernel

/-- O26: a tail that the write merges into, and a queue with one free slot. -/
theorem test_meetsO26 :
    let m := withHead (aStore 0x201000#40) (withSync [aWrite 0 1] up)
    let f := withHead (aStore 0x200000#40) (withSync (List.replicate 63 (aNote 1)) up)
    (Granted m (aStore 0x201000#40) ∧ m.loader.loadState ≠ .bypass ∧ classify m (lineOf 0x201000#40) = .region 0 ∧
      (m.entry 0).state = .mirrored ∧ (m.entry 0).queue = .sync ∧ inBlockRead m 0 (lineOf 0x201000#40) = false ∧
      m.mem.limitExpired = false ∧ m.capture.queueOf .sync = [] ++ [aWrite 0 1] ∧
      (aWrite 0 1).body = .write 0 3 ((lineOf 0x201000#40 - (m.entry 0).base.toNat) / 64) 0xFF 0 1 ∧
      m.capture.boundary = 0) ∧
      (Granted f (aStore 0x200000#40) ∧ classify f (lineOf 0x200000#40) = .region 0 ∧
        ((f.capture.queueOf .sync).getLast?.map Record.region) = some none ∧ freeSlots f .sync = 1) := by
  unfold Granted
  decide +kernel

/-- O27: the first and the last line of a LAGGING and of a REFUSED region. -/
theorem test_meetsO27 :
    (Granted (withHead (aStore 0x300000#40) up) (aStore 0x300000#40) ∧ up.loader.loadState ≠ .bypass ∧
      classify up (lineOf 0x300000#40) = .region 1 ∧ (up.entry 1).state = .lagging) ∧
      (Granted (withHead (aStore 0x70FFC0#40) up) (aStore 0x70FFC0#40) ∧
        classify up (lineOf 0x70FFC0#40) = .region 5 ∧ (up.entry 5).state = .refused) := by
  unfold Granted
  decide +kernel

/-- O28, O29: the queues full, with HOLD_LIMIT 0 and above, in both classes; a block that is being read; an expired
limit. -/
theorem test_meetsO28O29 :
    let full := withSync (List.replicate 64 (aNote 1)) up
    let h := withHead (aStore 0x200000#40) full
    let z := h.modParams fun p => { p with holdLimit := 0 }
    let a := (withHead (aStore 0x900000#40) up).modCapture fun c => { c with async := List.replicate 256 (aNote 1) }
    let r := (withHead (aStore 0x200000#40) up).modResync fun r =>
      { r with segment := some ⟨0, 0, 0, true⟩, block := .reading, reserved := some (0, .sync) }
    let x := h.modMem fun m => { m with limitExpired := true }
    (Granted z (aStore 0x200000#40) ∧ classify z (lineOf 0x200000#40) = .region 0 ∧ (z.entry 0).state = .mirrored ∧
      inBlockRead z 0 (lineOf 0x200000#40) = false ∧ (captureWrite z 0 (lineOf 0x200000#40) 0xFF 0).isNone ∧
      (z.entry 0).queue = .sync ∧ z.params.holdLimit = 0 ∧ z.mem.limitExpired = false) ∧
      (Granted a (aStore 0x900000#40) ∧ classify a (lineOf 0x900000#40) = .region 7 ∧ (a.entry 7).state = .mirrored ∧
        inBlockRead a 7 (lineOf 0x900000#40) = false ∧ (captureWrite a 7 (lineOf 0x900000#40) 0xFF 0).isNone ∧
        (a.entry 7).queue = .async ∧ ringRoom a 1) ∧
      (Granted h (aStore 0x200000#40) ∧ (captureWrite h 0 (lineOf 0x200000#40) 0xFF 0).isNone ∧
        h.params.holdLimit ≠ 0 ∧ h.mem.limitExpired = false ∧ grantedSource h = none) ∧
      (Granted r (aStore 0x200000#40) ∧ classify r (lineOf 0x200000#40) = .region 0 ∧
        inBlockRead r 0 (lineOf 0x200000#40) = true) ∧
      (Granted x (aStore 0x200000#40) ∧ x.mem.limitExpired = true ∧
        inBlockRead x 0 (lineOf 0x200000#40) = false) := by
  unfold Granted ringRoom
  decide +kernel

/-- O30: a write to each target state, with the quiet time stopped and running; a read with an apply pending. -/
theorem test_meetsO30 :
    let s := withHead (aStore 0x400000#40) up
    let q := s.modApply fun a => { a with reports := setAt a.reports 2 ⟨some 1000, 65535⟩ }
    let r := withHead (aRead 0x400000#40) (withQueue [anEntry 1 true true, anEntry 2 true false] up)
    (Granted s (aStore 0x400000#40) ∧ s.loader.loadState ≠ .bypass ∧ roleOf (s.entry 2).state = .target ∧
      classify s (lineOf 0x400000#40) = .region 2 ∧ ((s.apply.reports)[(2 : RegionIx)]).timer = none ∧ ringRoom s 1) ∧
      (classify s (lineOf 0x500000#40) = .region 3 ∧ roleOf (s.entry 3).state = .target ∧
        classify s (lineOf 0x600000#40) = .region 4 ∧ roleOf (s.entry 4).state = .target) ∧
      (Granted q (aStore 0x400000#40) ∧ ((q.apply.reports)[(2 : RegionIx)]).timer ≠ none ∧ q.mem.behind = [] ∧
        grantedSource q = none) ∧
      (Granted r (aRead 0x400000#40) ∧ malformed (aRead 0x400000#40) = false ∧ r.mem.presented = false ∧
        r.apply.queue = [anEntry 1 true true] ++ anEntry 2 true false :: [] ∧ grantedSource r ≠ none ∧
        (0x400000#40).toNat = lineOf 0x400000#40) := by
  unfold Granted ringRoom
  decide +kernel

/-- O31: seven and eight lines in the command queue, and a partial write. -/
theorem test_meetsO31 :
    let seven := (withHead (aLine 0x100FC0#40) up).modCmd fun c => { c with queue := List.replicate 7 0 }
    let eight := (withHead (aLine 0x100FC0#40) up).modCmd fun c => { c with queue := List.replicate 8 0 }
    (Granted seven (aLine 0x100FC0#40) ∧ seven.loader.loadState ≠ .bypass ∧
      classify seven (lineOf 0x100FC0#40) = .control ∧ fullMask = BitVec.allOnes 64 ∧ seven.cmd.queue.length < 8) ∧
      (Granted eight (aLine 0x100FC0#40) ∧ 8 ≤ eight.cmd.queue.length) ∧
      (Granted (withHead (aStore 0x100000#40) up) (aStore 0x100000#40) ∧
        classify up (lineOf 0x100000#40) = .control ∧ (0xFF : ByteMask) ≠ BitVec.allOnes 64) := by
  unfold Granted
  decide +kernel

/-- O32: each source granted, the writer with an entry, with a write-out line and with both; and nobody waiting. -/
theorem test_meetsO32 :
    let it : EventItem := ⟨.restarted 1, true, 0, 0x101000#40, true⟩
    let a := withQueue [anEntry 1 true true, anEntry 2 true false] up
    let r := up.modResync fun r =>
      { r with segment := some ⟨1, 2, 2, false⟩, block := .reading, reserved := some (0, .async) }
    let e := up.modEv fun e => { e with list := [it] }
    let w := up.modEv fun e => { e with writeOutLines := [(0x200000#40, 0)] }
    let both := up.modEv fun e => { e with list := [it], writeOutLines := [(0x200000#40, 0)], entriesNext := false }
    GrantedInjected a .apply ∧ a.apply.queue = [anEntry 1 true true] ++ anEntry 2 true false :: [] ∧
      (anEntry 1 true true).issued = true ∧ (anEntry 2 true false).issued = false ∧
      GrantedInjected r .resync ∧ GrantedInjected e .writer ∧ e.ev.entriesNext = true ∧
      GrantedInjected w .writer ∧ w.ev.list = [] ∧ GrantedInjected both .writer ∧ both.ev.entriesNext = false ∧
      grantedSource up = none ∧ waitingHead up = none := by
  unfold GrantedInjected
  decide +kernel

/-- O32's limits: 16 responses and 8 requests of the writer keep their requesters from waiting, and with 16 injected
requests nothing injected is issued; a run of 3 lets the injected source before the head. -/
theorem test_arbiterLimits :
    let x : RespEntry := ⟨0, 1, false, none, false, .ok, []⟩
    let a := withHead (aRead 0) (withQueue [anEntry 1 true false] up)
    let n := fun (x : MemSource) (k : Nat) (s : State) =>
      s.modMem fun m => { m with outstanding := List.replicate k ⟨x, 0, .read 0 64⟩ }
    let w := up.modEv fun e => { e with list := [⟨.restarted 1, true, 0, 0x101000#40, true⟩] }
    waitingHead (a.modMem fun m => { m with responses := List.replicate 15 x }) = some (aRead 0) ∧
      waitingHead (a.modMem fun m => { m with responses := List.replicate 16 x }) = none ∧
      waitingHead (holdHead a .syncFull) = none ∧
      grantedSource (n .apply 15 a) = some .apply ∧
      (grantInjected (n .apply 15 a) .apply).mem.outstanding.length = 16 ∧
      grantInjected (n .apply 16 a) .apply = n .apply 16 a ∧ injectedOutstanding (n .apply 16 a) = 16 ∧
      hasRequest (n .apply 16 a) .apply = true ∧ waitingHead (n .apply 16 a) = some (aRead 0) ∧
      grantedSource (n (.writer .writeOut) 7 w) = some .writer ∧ grantedSource (n (.writer .writeOut) 8 w) = none ∧
      (after1 .memoryPortArbiter (a.modMem fun m => { m with run := 2 })).mem.run = 3 ∧
      (after1 .memoryPortArbiter (a.modMem fun m => { m with run := 3 })).mem.run = 0 ∧
      (after1 .memoryPortArbiter (withHead (aRead 0) up |>.modMem fun m => { m with run := 3 })).mem.run = 3 := by
  decide +kernel

/-- The worked example of chapter 8, with entry 5 a TARGET whose quiet time runs: Q1 is issued under tag 0; Q2 is
answered in its place, Q3 is held, and apply is granted in the same command. -/
theorem test_onePassThroughTheHead :
    let target := fun (seq : BitVec 32) (a : Addr) (i : Bool) =>
      (⟨seq, 5, some 5, .line a 1 0 .write, true, i, false⟩ : ApplyEntry)
    let q := [target 1 0x300000400#40 true, target 2 0x300000800#40 false, target 3 0x300000400#40 false]
    let s := (withQueue q (up.modRegions fun v =>
      setAt v 5 ⟨.accepting, 0x300000000#40, 16, none, 0, 0, [], []⟩)).modMem fun m =>
      { m with pointer := .resync, outstanding := [⟨.apply, 16, .read 0 64⟩, ⟨.apply, 16, .read 0 64⟩] }
    let s1 := s.modApply fun a => { a with reports := setAt a.reports 5 ⟨some 1000, 0⟩ }
    let s2 := [SysRequest.write 11 0x500000000#40 1 0, .write 12 0x300000040#40 1 0, .read 13 0x300000410#40 16,
      .read 14 0x500000040#40 64].foldl (fun u r => after1 (.systemPortRequest r) u) s1
    let t1 := after1 .memoryPortArbiter s2
    let t2 := after1 .memoryPortArbiter t1
    t1.mem.run = 1 ∧ (t1.mem.outstanding.getLast?.map MemRequest.tag) = some 0 ∧
      (t2.mem.responses.map fun r => (r.tag, r.ready)) = [(11, false), (12, true)] ∧
      (t2.stats)[statIx .targetWritesRefused] = 1 ∧ t2.mem.hold = .applyPending ∧ t2.mem.applyWait = 3 ∧
      t2.mem.head = some (.read 13 0x300000410#40 16) ∧ (t2.apply.queue.map ApplyEntry.issued) = [true, true, false] ∧
      t2.mem.run = 0 ∧ t2.mem.pointer = .resync := by decide +kernel

/-- O33: an answer behind a response that is ready; an error answer to a write kept with a MIRRORED and with a LAGGING
region; and answers that bring other bytes than their request's length. -/
theorem test_meetsO33 :
    let x : RespEntry := ⟨0, 1, false, some 0, false, .ok, []⟩
    let y : RespEntry := ⟨1, 2, false, some 1, false, .ok, []⟩
    let s := (awaiting .passThrough (.write 0x200000#40 0xFF 0) up).modMem fun m => { m with responses := [x, y] }
    let u := s.modMem fun m => { m with responses := [y] }
    Answers s ok ⟨.passThrough, 0, .write 0x200000#40 0xFF 0⟩ [] ∧ s.mem.responses = [] ++ x :: [y] ∧
      x.ready = false ∧ x.region = some 0 ∧ markable (s.entry 0).state = true ∧
      Answers u bad ⟨.passThrough, 0, .write 0x200000#40 0xFF 0⟩ [] ∧ bad.status = .error ∧
      u.mem.responses = [] ++ y :: [] ∧ y.region = some 1 ∧ markable (u.entry 1).state = true ∧
      (u.entry 6).state = .draining ∧
      answerFits (.read 0 64) (List.replicate 63 0) = false ∧ answerFits (.read 0 64) (List.replicate 64 0) = true ∧
      answerFits (.write 0 1 0) [0] = false ∧ answerFits (.write 0 1 0) [] = true := by
  unfold Answers
  decide +kernel

/-- O33 to O36: an answer to a request of before the reset, one with nothing outstanding and one while another source's
request is the oldest answer nothing (R174). -/
theorem test_answersOfNothing :
    let f : MemForm := .write 0x400000#40 0xFF 0x55
    let late : MemAnswer := ⟨0, .ok, true⟩
    let s := awaiting .apply f (withQueue [anEntry 1 true true] up)
    let p := awaiting .passThrough f up
    NoAnswer s late (· = .apply) ∧ NoAnswer up ok (· = .apply) ∧ NoAnswer p ok (· = .resync) ∧
      after1 (.applyWriteResponse late) s = s ∧ after1 (.applyWriteResponse ok) up = up ∧
      after1 (.resyncReadResponse ok 0) p = p ∧ after1 (.writerResponse bad) s = s ∧
      after1 (.passThroughResponse late []) p = p := by
  refine ⟨.inl rfl, .inr (.inl rfl), .inr (.inr ⟨_, _, rfl, by decide⟩), ?_⟩
  decide +kernel

/-- O33: a write error of a MIRRORED region ends a hold on that region, and no other (R19). -/
theorem test_writeErrorEndsTheHold :
    let s := (awaiting .passThrough (.write 0x200000#40 0xFF 0) up).modMem fun m =>
      { m with responses := [⟨0, 1, false, some 0, false, .ok, []⟩] }
    let t := after1 (.passThroughResponse bad []) (holding .syncFull 0x200040#40 s)
    let u := after1 (.passThroughResponse bad []) (holding .blockRead 0x900000#40 s)
    HeldOn (holding .syncFull 0x200040#40 s) 0 ∧ (s.entry 0).state = .mirrored ∧ (t.entry 0).state = .lagging ∧
      t.mem.hold = .none ∧ u.mem.hold = .blockRead ∧ u.mem.holdTimer = some 9 := by
  refine ⟨⟨.inl rfl, by decide +kernel⟩, ?_⟩
  decide +kernel

/-- O34: a line within a record, the last of a good record, an error within a record. -/
theorem test_meetsO34 :
    let f : MemForm := .write 0x400000#40 0xFF 0x55
    let s := awaiting .apply f (withQueue [anEntry 1 false true] up)
    let l := awaiting .apply f (withQueue [anEntry 1 true true] up)
    Answers s ok ⟨.apply, 0, f⟩ [] ∧ s.apply.queue = anEntry 1 false true :: [] ∧
      (anEntry 1 false true).target = some 2 ∧ (anEntry 1 false true).last = false ∧
      (anEntry 1 false true).cutShort = false ∧ s.cmd.waiting = none ∧ s.mem.hold ≠ .applyPending ∧
      Answers l ok ⟨.apply, 0, f⟩ [] ∧ l.apply.queue = anEntry 1 true true :: [] ∧ (anEntry 1 true true).last = true ∧
      l.session.state = .up ∧ l.rx.carried = 0 ∧ l.rx.unacked = 0 ∧ l.rx.deferred = none ∧ l.apply.headError = false ∧
      (l.entry 2).state ≠ .releasing ∧
      Answers s bad ⟨.apply, 0, f⟩ [] ∧ s.apply.headError = false ∧ (s.entry 2).state = .accepting ∧ ringRoom s 2 := by
  unfold Answers ringRoom
  decide +kernel

/-- O34's completions: the 16th, one of a record carried over, one with the head record error set, one outside a session,
one that makes room for a deferred record, the last line of a RELEASING target, and a NOTE that stands next. -/
theorem test_completionsOfARecord :
    let f : MemForm := .write 0x400000#40 0xFF 0x55
    let s := awaiting .apply f (withQueue [anEntry 1 true true] up)
    let of := fun u : State => after1 (.applyWriteResponse ok) u
    let sixteenth := of (s.modRx fun r => { r with unacked := 15, ackTimer := some 8 })
    let carried := of (s.modRx fun r => { r with carried := 1, unacked := 1 })
    let failed := of (s.modApply fun a => { a with headError := true })
    let outside := of (s.modSession fun x => { x with state := .calling })
    let deferred := of (s.modRx fun r => { r with deferred := some 64, expected := 7 })
    let four : ApplyEntry := ⟨1, 5, some 4, .line 0x600000#40 0xFF 0 .write, true, true, false⟩
    let released := of ((withQueue [four] s).modCmd fun c => { c with pendingClose := setAt c.pendingClose 4 (some 6) })
    let noted := of (withQueue [anEntry 1 true true, ⟨2, 5, none, .note 0x77 0xAB, true, false, false⟩] s)
    sixteenth.tx.control = [⟨5, .ack 1⟩] ∧ sixteenth.rx.unacked = 0 ∧ sixteenth.rx.ackTimer = none ∧
      carried.rx.carried = 0 ∧ carried.rx.ackPoint = 0 ∧ carried.rx.unacked = 1 ∧
      (failed.stats)[statIx .recordsApplied] = 0 ∧ failed.apply.headError = false ∧ failed.rx.ackPoint = 1 ∧
      outside.rx.ackPoint = 1 ∧ outside.rx.unacked = 0 ∧
      deferred.tx.control = [⟨5, .retry 7⟩] ∧ deferred.rx.retrySent = true ∧ deferred.rx.compareDue = false ∧
      released.entry 4 = Entry.zero ∧
      eventsOf released = [.regionState .released 4 .target .releasing .free, .commandDone .ok 6 5 4 0] ∧
      noted.apply.queue = [] ∧ noted.rx.unacked = 2 ∧ noted.rx.ackPoint = 2 ∧
      eventsOf noted = [.noteReceived 0x77 0xAB] ∧ (noted.stats)[statIx .recordsApplied] = 2 := by decide +kernel

/-- O34's passive entries that stand next: a rejected record to a RELEASING target, which becomes FREE while the CLOSE
of another entry stays, a line with an empty mask before the last one of its record, and a NOTE (R14, R115, R116). -/
theorem test_passiveEntriesCompleteInOrder :
    let f : MemForm := .write 0x400000#40 0xFF 0x55
    let s := (awaiting .apply f (withQueue [anEntry 1 true true, ⟨2, 5, some 4, .rejected .noTarget, true, false, false⟩,
      ⟨3, 5, some 2, .line 0x400040#40 0 0 .block, false, false, false⟩,
      ⟨3, 5, some 2, .line 0x400080#40 0 0 .block, true, false, false⟩, ⟨4, 5, none, .note 0x77 0xAB, true, false, false⟩,
      anEntry 5 true false] up)).modCmd fun c =>
        { c with queue := [7], pendingClose := setAt (setAt c.pendingClose 4 (some 6)) 6 (some 8) }
    let t := after1 (.applyWriteResponse ok) s
    Answers s ok ⟨.apply, 0, f⟩ [] ∧ s.cmd.waiting = none ∧ (s.entry 2).state = .accepting ∧
      t.apply.queue = [anEntry 5 true false] ∧ t.rx.ackPoint = 4 ∧ t.rx.unacked = 4 ∧ t.entry 4 = Entry.zero ∧
      t.cmd = { s.cmd with pendingClose := setAt s.cmd.pendingClose 4 none } ∧
      (t.stats)[statIx .recordsApplied] = 3 ∧
      eventsOf t = [.regionState .released 4 .target .releasing .free, .commandDone .ok 6 5 4 0,
        .noteReceived 0x77 0xAB] := by
  unfold Answers
  decide +kernel

/-- O34 after a RESTART: of two entries of a record the issued one stays and is cut short, and its write is the answer
awaited, so that an error is reported without a REJECT and RESTARTED stands behind it (R119, R121, R155, R168). -/
theorem test_answerOfACutShortEntry :
    let f : MemForm := .write 0x400000#40 0xFF 0x55
    let s := after1 .restart (withLine (line 13 4 [])
      (awaiting .apply f (withQueue [anEntry 1 false true, anEntry 1 true false] up)))
    let t := after1 (.applyWriteResponse bad) s
    Answers s bad ⟨.apply, 0, f⟩ [] ∧ s.cmd.waiting = some ⟨4, 1⟩ ∧
      s.apply.queue = [{ anEntry 1 false true with cutShort := true }] ∧ (s.entry 2).state = .accepting ∧
      t.apply.queue = [] ∧ t.apply.headError = false ∧ (t.entry 2).state = .failed ∧ t.tx.control = [] ∧
      t.cmd.waiting = none ∧ eventsOf t = eventsOf s ++
        [.regionState .applyError 2 .target .accepting .failed, .applyError 2 1 .write 0x400000, .restarted 4] := by
  unfold Answers
  decide +kernel

/-- O34's errors on a FAILED and on a RELEASING target, its entries that a RESTART cut short, and its end of an
APPLY_PENDING hold (R13, R118, R121, R124). -/
theorem test_errorsAndCutShortEntries :
    let f : MemForm := .write 0x400000#40 0xFF 0x55
    let of := fun (e : RegionIx) (last cut : Bool) => awaiting .apply f
      (withQueue [⟨1, 5, some e, .line 0x400000#40 0xFF 0x55 .write, last, true, cut⟩] up)
    let failed := after1 (.applyWriteResponse bad) (of 3 true false)
    let released := after1 (.applyWriteResponse bad) (of 4 true false)
    let cut := after1 (.applyWriteResponse bad) (of 4 false true)
    let more := after1 (.applyWriteResponse ok) ((of 2 false true).modApply fun a => { a with headError := true })
    let wait := fun n => (after1 (.applyWriteResponse ok)
      ((holding .applyPending 0x400000#40 (of 2 true false)).modMem fun m => { m with applyWait := n })).mem
    (up.entry 3).state = .failed ∧ (up.entry 4).state = .releasing ∧
      eventsOf failed = [.applyError 3 1 .write 0x400000] ∧ failed.tx.control = [⟨5, .reject 1 3 .targetFailed⟩] ∧
      eventsOf released = [.applyError 4 1 .write 0x400000] ∧ released.entry 4 = Entry.zero ∧
      eventsOf cut = [.applyError 4 1 .write 0x400000] ∧ cut.entry 4 = Entry.zero ∧ cut.rx.ackPoint = 0 ∧
      more.apply.queue = [] ∧ more.apply.headError = false ∧ more.rx.ackPoint = 0 ∧
      (wait 1).hold = .none ∧ (wait 2).hold = .applyPending ∧ (wait 2).applyWait = 1 := by decide +kernel

/-- R76's comparison is made by a record's completion only: a line that leaves room within its record draws no RETRY,
then or at a later DEFERRED_RETRY, and the record's last line does. -/
theorem test_deferredRetryNeedsACompletion :
    let f : MemForm := .write 0x400000#40 0xFF 0x55
    let s := ((withQueue (anEntry 1 false true :: anEntry 1 true true :: List.replicate 63 (anEntry 2 true false)) up).modMem
      fun m => { m with outstanding := [⟨.apply, 16, f⟩, ⟨.apply, 16, f⟩] }).modRx fun r => { r with deferred := some 64 }
    let t := after1 (.applyWriteResponse ok) s
    let u := after1 .deferredRetry t
    freeEntries t = 64 ∧ t.tx.control = [] ∧ t.rx.compareDue = false ∧ u.tx.control = [] ∧ u.rx.deferred = some 64 ∧
      (after1 (.applyWriteResponse ok) u).tx.control = [⟨5, .retry 1⟩] := by decide +kernel

/-- A block of entry 1 in READING with `n` responses taken. -/
def reading (n : Nat) : State :=
  (awaiting .resync (.read 0x302000#40 64) up).modResync fun r =>
    { r with segment := some ⟨1, 2, 2, false⟩, block := .reading, issued := n + 1, taken := n,
             reserved := some (0, .async), buffers := setAt r.buffers 0 (some 0) }

/-- O35: a response to discard; the first, the 64th and an error response, in UP and outside it. -/
theorem test_meetsO35 :
    let d := (awaiting .resync (.read 0x302000#40 64) up).modResync fun r => { r with toDiscard := 1 }
    let s := reading 0
    let l := reading 63
    let c := closing (reading 0)
    (Answers d ok ⟨.resync, 0, .read 0x302000#40 64⟩ [] ∧ d.cmd.waiting = none ∧ 0 < d.resync.toDiscard) ∧
      (Answers s ok ⟨.resync, 0, .read 0x302000#40 64⟩ [] ∧ s.resync.toDiscard = 0 ∧ s.resync.block = .reading ∧
        s.resync.segment = some ⟨1, 2, 2, false⟩ ∧ s.resync.reserved = some (0, .async) ∧
        (s.resync.buffers)[(0 : Fin 4)] = some 0 ∧ s.resync.taken + 1 ≠ 64) ∧
      (Answers l ok ⟨.resync, 0, .read 0x302000#40 64⟩ [] ∧ l.resync.taken + 1 = 64) ∧
      (Answers s bad ⟨.resync, 0, .read 0x302000#40 64⟩ [] ∧ markable (s.entry 1).state = true ∧
        2 ∉ (s.entry 1).errorReported ∧ ringRoom s 1) ∧
      (Answers c bad ⟨.resync, 0, .read 0x302000#40 64⟩ [] ∧ c.session.state ≠ .up ∧ c.resync.block = .reading) := by
  unfold Answers ringRoom
  decide +kernel

/-- O35's last block of a segment, without and with a switch wait of a fence, in UP with nothing held, and an error of a
switch segment that has a fence in scope: the next turn follows. -/
theorem test_segmentEnds :
    let l := (reading 63).modRegions fun v => setAt v 1 { (up.entry 1) with errorReported := [2, 5] }
    let w := (l.modFences fun _ => [⟨3, 1, [⟨1, .waiting⟩]⟩]).modResync fun r =>
      { r with segment := some ⟨1, 2, 2, true⟩ }
    let e := { (w.modResync fun r => { r with taken := 0 }) with params := w.params }
    let of := fun (a : MemAnswer) (u : State) => after1 (.resyncReadResponse a 0) u
    (2 + 1) * segBlocks (l.entry 1).sizeExp ≤ 2 + 1 ∧ l.resync.taken + 1 = 64 ∧
      ((of ok l).entry 1).errorReported = [5] ∧ ((of ok l).capture.async.map Record.body) = [.block 1 4 2 0] ∧
      ((of ok l).resync.segment.map Segment.index) = some 5 ∧
      ((of ok w).fences.map fun f => f.scope.map ScopeEntry.wait) = [[.upTo 1]] ∧
      (of bad e).fences = [] ∧ 2 ∈ ((of bad e).entry 1).errorReported ∧ 2 ∈ ((of bad e).entry 1).dirty ∧
      eventsOf (of bad e) = [.fenceDone .notDurable .resyncAbandoned 3 (some 1) 1] ∧
      ringRoom e (1 + e.fences.length) := by
  unfold ringRoom
  decide +kernel

/-- A larger region whose segments have two blocks, in the middle of a segment (O35's clause on the next block). -/
theorem test_meetsO35More :
    let s := (reading 63).modRegions fun v => setAt v 1 ⟨.lagging, 0x2000000#40, 23, some .async, 4, 3, [2, 5], []⟩
    let t := s.modResync fun r => { r with segment := some ⟨1, 2, 4, false⟩ }
    t.resync.taken + 1 = 64 ∧ 4 + 1 < (2 + 1) * segBlocks (t.entry 1).sizeExp := by decide +kernel

/-- O35 in DISCARDING, an error and the last response, which starts the next turn; and the end of a BLOCK_READ hold by
either end of a block (R89, R96). -/
theorem test_discardingBlock :
    let d := (awaiting .resync (.read 0x302000#40 64) up).modResync fun r =>
      { r with block := .discarding, issued := 3, taken := 1, reserved := some (0, .async),
               buffers := setAt r.buffers 0 (some 0) }
    let l := d.modResync fun r => { r with taken := 2 }
    let h := holding .blockRead 0x302000#40
    let of := fun (a : MemAnswer) (s : State) => after1 (.resyncReadResponse a 0) (h s)
    Answers d bad ⟨.resync, 0, .read 0x302000#40 64⟩ [] ∧ d.cmd.waiting = none ∧ d.resync.toDiscard = 0 ∧
      ReleaseEndsHold (h l) ∧
      (of bad d).resync = { d.resync with taken := 2 } ∧ (of bad d).mem.hold = .blockRead ∧
      (of bad l).resync.segment = some ⟨1, 5, 5, false⟩ ∧ (of bad l).resync.reserved = some (0, .async) ∧
      (of bad l).resync.issued = 0 ∧ (of bad l).mem.hold = .none ∧
      (of ok (reading 63)).mem.hold = .none ∧ (of bad (reading 0)).mem.hold = .none := by
  refine ⟨⟨rfl, rfl⟩, rfl, rfl, ⟨0, .async, rfl, .inl rfl⟩, ?_⟩
  decide +kernel

/-- O36: an entry of the current ring at and below the threshold, of a replaced ring, and the last and an earlier line
of a write-out. -/
theorem test_meetsO36 :
    let f : MemForm := .write 0x101000#40 0xFFFFFFFF 0
    let s := (awaiting (.writer (.entry true)) f up).modEv fun e => { e with produce := 1, unwritten := 1 }
    let y := s.modParams fun p => { p with attnThreshold := 2, attnDelay := 7 }
    let t := after1 (.writerResponse ok) y
    let z := awaiting (.writer (.entry true)) f up
    let o := awaiting (.writer (.entry false)) f up
    let w := fun n => (awaiting (.writer .writeOut) f up).modCmd fun c => { c with writeOut := some ⟨false, 1, 0, n, 0⟩ }
    Answers s ok ⟨.writer (.entry true), 0, f⟩ [] ∧ s.cmd.waiting = none ∧ unreleased s.ev ≠ 0 ∧
      s.params.attnThreshold.toNat ≤ visible (after1 (.writerResponse ok) s).ev ∧
      unreleased y.ev ≠ 0 ∧ visible t.ev < y.params.attnThreshold.toNat ∧ attnPin y = false ∧ visible y.ev = 0 ∧
      0 < visible t.ev ∧ y.params.attnDelay ≠ 0 ∧ y.ev.attnTimer = none ∧ t.ev.attnTimer = some 7 ∧
      Answers z ok ⟨.writer (.entry true), 0, f⟩ [] ∧ unreleased z.ev = 0 ∧
      Answers o ok ⟨.writer (.entry false), 0, f⟩ [] ∧
      Answers (w 2) bad ⟨.writer .writeOut, 0, f⟩ [] ∧ (w 2).cmd.writeOut = some ⟨false, 1, 0, 2, 0⟩ ∧
      Answers (w 1) ok ⟨.writer .writeOut, 0, f⟩ [] ∧ (w 1).cmd.writeOut = some ⟨false, 1, 0, 1, 0⟩ := by
  unfold Answers
  decide +kernel

/-- O35's and O36's answers while the part waits for RESTARTED: a read of an abandoned block, an entry of the ring and a
line of a write-out that the RESTART dropped (R95, R156, R160, R168). -/
theorem test_answersAfterARestart :
    let f : MemForm := .write 0x101000#40 0xFFFFFFFF 0
    let waits := fun (x : MemSource) (g : MemForm) (n : Nat) => (awaiting x g up).modCmd fun c => { c with waiting := some ⟨4, n⟩ }
    let read := after1 (.resyncReadResponse bad 0)
      ((waits .resync (.read 0x302000#40 64) 2).modResync fun r => { r with toDiscard := 3 })
    let entry := after1 (.writerResponse ok)
      ((waits (.writer (.entry true)) f 1).modEv fun e => { e with produce := 1, unwritten := 1 })
    let dropped := after1 (.writerResponse bad) (waits (.writer .writeOut) f 1)
    Answers (waits (.writer .writeOut) f 1) bad ⟨.writer .writeOut, 0, f⟩ [] ∧ up.cmd.writeOut = none ∧
      read.resync.toDiscard = 2 ∧ read.cmd.waiting = some ⟨4, 1⟩ ∧ eventsOf read = [] ∧
      entry.ev.write = 1 ∧ entry.cmd.waiting = none ∧ eventsOf entry = [.restarted 4] ∧
      dropped.cmd.waiting = none ∧ eventsOf dropped = [.restarted 4] := by
  unfold Answers
  decide +kernel

/-- O37: a turn that finds entry 1 second, with a dirty segment above the cursor; one with none dirty; and a block in
WAITING with and without a free slot. -/
theorem test_meetsO37 :
    let c := up.modRegions fun v => setAt v 1 { (up.entry 1) with dirty := [] }
    let w := up.modResync fun r => { r with segment := some ⟨1, 2, 2, false⟩, block := .waiting }
    let n := w.modCapture fun c => { c with async := List.replicate 256 (aNote 1) }
    (up.session.state = .up ∧ up.resync.segment = none ∧ up.resync.block = .idle ∧ (up.entry 1).state = .lagging ∧
      (1 : RegionIx) = up.resync.turn + Fin.ofNat 32 1 ∧ (up.entry (up.resync.turn + Fin.ofNat 32 0)).state ≠ .lagging ∧
      (5 : Nat) = (((up.entry 1).dirty.find? fun j => (up.entry 1).cursor ≤ j).getD ((up.entry 1).dirty.headD 0))) ∧
      ((c.entry 1).state = .lagging ∧ (c.entry 1).dirty = [] ∧ (c.entry 1).cursor = 3 ∧ ringRoom c 1) ∧
      (w.resync.block = .waiting ∧ w.resync.segment = some ⟨1, 2, 2, false⟩ ∧ (w.resync.buffers)[(0 : Fin 4)] = none ∧
        0 < freeSlots w (w.entry 1).queue) ∧
      (n.resync.block = .waiting ∧ freeSlots n (n.entry 1).queue = 0) := by
  unfold ringRoom
  decide +kernel

/-- O37's turns and block starts that do not come, and O38's tests that do not pass: each condition alone (R7, R12, R14,
R51, R83, R85, R154, R168). -/
theorem test_stepsThatDoNotCome :
    let still := fun (c : Instr) (s : State) => decide (after1 c s = s)
    let w := up.modResync fun r => { r with segment := some ⟨1, 2, 2, false⟩, block := .waiting }
    let full := w.modResync fun r => { r with buffers := Vector.replicate 4 (some 0) }
    let none' := up.modRegions fun v => setAt v 1 { (up.entry 1) with state := .refused }
    let held := withSync [aWrite 6 5] up
    let lined := withQueue [⟨1, 5, some 4, .line 0x600000#40 0xFF 0 .write, true, true, false⟩] up
    let due := up.modCmd fun c => { c with waiting := some ⟨1, 1⟩, writeOut := some ⟨true, 1, 0, 1, 0⟩ }
    (∀ b : Fin 4, (full.resync.buffers)[b] ≠ none) ∧ (∀ e, (none'.entry e).state ≠ .lagging) ∧
      (held.entry 6).state = .draining ∧ (lined.entry 4).state = .releasing ∧
      still .resyncTurn (closing up) ∧ still .resyncTurn w ∧ still .resyncTurn none' ∧ !still .resyncTurn up ∧
      still .blockStart full ∧ still .blockStart up ∧ !still .blockStart w ∧
      still (.drained 6) held ∧ still (.drained 1) up ∧ !still (.drained 6) up ∧
      still (.released 4) lined ∧ still (.released 1) up ∧ !still (.released 4) up ∧
      still .restarted due ∧ still .restarted up ∧ still .writeOutDone due ∧ still .writeOutDone up ∧
      still .drainTestPassed (closing held) ∧ still .drainTestPassed up ∧
      still .drainTestPassed (withReplay [⟨3, aWrite 0 1⟩] 3 (closing up)) := by decide +kernel

/-- O38: the comparison for a deferred RETRY due with room, due without, and not due; a DRAINING and a RELEASING entry
with a pending CLOSE; RESTARTED due; a write-out with no line left; a session that has drained. -/
theorem test_meetsO38 :
    let d := (withQueue (List.replicate 64 (anEntry 1 true false)) up).modRx fun r =>
      { r with deferred := some 64, compareDue := true }
    let n := withQueue (List.replicate 65 (anEntry 1 true false)) d
    let c := up.modCmd fun c => { c with pendingClose := setAt (setAt c.pendingClose 6 (some 1)) 4 (some 2) }
    let r := up.modCmd fun c => { c with waiting := some ⟨1, 0⟩ }
    let w := up.modCmd fun c => { c with writeOut := some ⟨true, 1, 0, 0, 0⟩ }
    let s := (closing up).modSession fun x => { x with pendingDisconnect := some 3 }
    (d.rx.compareDue = true ∧ d.rx.deferred = some 64 ∧ inSession d = true ∧
      64 ≤ Config.applySlots - d.apply.queue.length ∧ n.rx.compareDue = true ∧
      Config.applySlots - n.apply.queue.length < 64 ∧ up.rx.compareDue = false) ∧
      ((c.entry 6).state = .draining ∧ heldRecords c = [] ∧ (c.cmd.pendingClose)[(6 : RegionIx)] = some 1 ∧
        ringRoom c 2) ∧
      ((c.entry 4).state = .releasing ∧ c.apply.queue = [] ∧ (c.cmd.pendingClose)[(4 : RegionIx)] = some 2 ∧
        (up.cmd.pendingClose)[(4 : RegionIx)] = none) ∧
      r.cmd.waiting = some ⟨1, 0⟩ ∧ w.cmd.writeOut = some ⟨true, 1, 0, 0, 0⟩ ∧
      (s.session.state = .closing ∧ s.capture.sync = [] ∧ s.capture.async = [] ∧ s.tx.replay = [] ∧ s.fences = [] ∧
        s.session.pendingDisconnect = some 3 ∧ ringRoom s 2) := by
  unfold ringRoom
  decide +kernel

/-- O37's turn tries the segment's first block in the same action: it reads with a buffer and a slot free, and waits
without (R84, R85). -/
theorem test_turnTriesTheFirstBlock :
    let full := up.modResync fun r => { r with buffers := Vector.replicate 4 (some 0), toDiscard := 3 }
    (after1 .resyncTurn up).resync.block = .reading ∧ (after1 .resyncTurn up).resync.reserved = some (0, .async) ∧
      (after1 .resyncTurn full).resync = { full.resync with
        turn := 2, block := .waiting, segment := some ⟨1, 5, 5, false⟩ } := by decide +kernel

/-- O38's DRAINED row: the entry leaves the scope of the fences, and those that nothing keeps waiting complete behind
COMMAND_DONE (R102, R106). -/
theorem test_drainedLetsFencesPass :
    let s := (withSync [aWrite 1 5] up).modCmd fun c => { c with pendingClose := setAt c.pendingClose 6 (some 8) }
    let t := after1 (.drained 6) (s.modFences fun _ => [⟨9, 6, [⟨6, .none⟩]⟩, ⟨10, 6, [⟨6, .none⟩, ⟨1, .none⟩]⟩])
    (s.entry 6).state = .draining ∧ t.fences = [⟨10, 6, [⟨1, .none⟩]⟩] ∧
      eventsOf t = [.regionState .drained 6 .source .draining .free, .commandDone .ok 8 5 6 0,
        .fenceDone .durable .none 9 none 6] := by decide +kernel

/-- O38's count after a RESTART: each injected answer counts one off, and the last one produces RESTARTED (R168). -/
theorem test_answersBringRestarted :
    let f : MemForm := .write 0x101000#40 0xFFFFFFFF 0
    let s := ((awaiting (.writer (.entry false)) f up).modMem fun m =>
      { m with outstanding := m.outstanding ++ [⟨.writer (.entry false), 18, f⟩] }).modCmd fun c =>
        { c with waiting := some ⟨4, 2⟩ }
    let t := after1 (.writerResponse bad) s
    let u := after1 (.writerResponse ok) t
    Answers s bad ⟨.writer (.entry false), 0, f⟩ [⟨.writer (.entry false), 18, f⟩] ∧
      t.cmd.waiting = some ⟨4, 1⟩ ∧ eventsOf t = [] ∧ u.cmd.waiting = none ∧ eventsOf u = [.restarted 4] := by
  unfold Answers
  decide +kernel

/-- O39: outside UP, and in UP with nothing held, where the fences kept are those with a switch wait. -/
theorem test_meetsO39 :
    calling.session.state ≠ .up ∧ up.session.state = .up ∧ heldRecords up = [] ∧
      ∀ f : Fence, ((f.scope.any fun x => x.wait == .waiting) = true ↔
        ∃ x ∈ f.scope, x.wait = .waiting ∨ ∃ r ∈ heldRecords up, r.region = some x.entry ∧
          (capBelow r.cap f.boundary = true ∨ ∃ c, x.wait = .upTo c ∧ (r.cap = c ∨ capBelow r.cap c = true))) := by
  have h : heldRecords up = [] := by decide +kernel
  refine ⟨by decide +kernel, by decide +kernel, h, fun f => ?_⟩
  simp [h]

/-- O40 to O42: the lines of NONE, of the first code that names no command, of CONNECT and of DISCONNECT. -/
theorem test_meetsO40ToO42 :
    Takes (withLine (line 0 1 []) run) (line 0 1 []) 0 ∧ Takes (withLine (line 14 1 []) run) (line 14 1 []) 14 ∧
      run.cmd.queue = [] ∧ (run.modCmd fun c => { c with waiting := some ⟨1, 1⟩ }).cmd.waiting ≠ none ∧
      Takes (withLine (line 1 1 []) up) (line 1 1 []) 1 ∧ up.session.state ≠ .disabled ∧
      Takes (withLine (line 1 1 []) dark) (line 1 1 []) 1 ∧ dark.session.state = .disabled ∧
      dark.session.carrier = false ∧ run.session.state = .disabled ∧ run.session.carrier = true ∧
      Takes (withLine (line 2 1 []) run) (line 2 1 []) 2 ∧ (closing up).session.state = .closing ∧
      calling.session.state = .calling ∧
      Takes (withLine (line 2 1 []) (withSync [aNote 1] up)) (line 2 1 []) 2 ∧
      isDry (withSync [aNote 1] up) = false ∧ isDry up = true := by
  unfold Takes
  decide +kernel

/-- O42 in UP, of a laden session and of one with nothing to drain: the marks, the block under way, the hold, the fences
and the events (R10, R50, R51, R92, R105). -/
theorem test_disconnectOfALadenSession :
    let l := line 2 1 []
    let s := withLine l (holding .blockRead 0x300000#40 laden)
    let d := withLine l (holding .syncFull 0x200000#40 up)
    let t := after1 .disconnect s
    let u := after1 .disconnect d
    Takes s l 2 ∧ s.session.state = .up ∧ ringRoom s (34 + s.fences.length) ∧ isDry s = false ∧ isDry d = true ∧
      t.session.state = .closing ∧ t.session.pendingDisconnect = some 1 ∧ (t.entry 1).dirty = [2, 5, 9] ∧
      t.fences = [] ∧ t.resync.toDiscard = 3 ∧ buffersHeld t.resync = 1 ∧ t.mem.hold = .none ∧
      (t.stats)[statIx .dirtyMarks] = 1 ∧
      u.session.state = .disabled ∧ u.mem.hold = .none ∧ u.tx.control = [⟨5, .part 0⟩] ∧
      eventsOf u = [.regionState .sessionDown 0 .source .mirrored .lagging,
        .regionState .sessionDown 7 .source .mirrored .lagging, .sessionDown .disconnected 5 0 0 0,
        .commandDone .ok 1 2 0 0] := by
  unfold Takes ringRoom
  decide +kernel

/-- Command lines of OPEN: entry, size exponent, class, peer, base. -/
def openLine (code : Nat) (entry size cls peer : Byte) (base : Nat) : Line :=
  line code 1 ([entry, size, cls, peer] ++ leBytes 8 base)

/-- O43: the smallest and the largest size, an entry above 31, a size below 16, an entry in use, an overlap. -/
theorem test_meetsO43 :
    let src := withLine (openLine 3 31 16 2 31 0xFFFFFF0000) up
    let tgt := withLine (openLine 4 8 36 0 0 0x1000000000) up
    let hit := withLine (openLine 3 8 16 1 0 0x200000) up
    (Takes src (openLine 3 31 16 2 31 0xFFFFFF0000) 3 ∧ (src.entry 31).state = .free ∧
      openOverlaps (popLine src) 0xFFFFFF0000 0x10000000000 = false ∧
      0xFFFFFF0000 % 2 ^ 16 = 0 ∧ 0xFFFFFF0000 < 2 ^ 40 ∧ ringRoom src 2) ∧
      (Takes tgt (openLine 4 8 36 0 0 0x1000000000) 4 ∧ (tgt.entry 8).state = .free ∧
        openOverlaps (popLine tgt) 0x1000000000 (0x1000000000 + 2 ^ 36) = false ∧ ringRoom tgt 2) ∧
      (lineByte (openLine 3 32 16 1 0 0) 4 = 32 ∧ lineByte (openLine 3 8 15 1 0 0) 5 = 15 ∧
        lineByte (openLine 3 8 16 3 0 0) 6 = 3 ∧ lineByte (openLine 3 8 16 1 32 0) 7 = 32) ∧
      (Takes (withLine (openLine 3 0 16 1 0 0) up) (openLine 3 0 16 1 0 0) 3 ∧ (up.entry 0).state ≠ .free) ∧
      (Takes hit (openLine 3 8 16 1 0 0x200000) 3 ∧ (hit.entry 8).state = .free ∧
        openOverlaps (popLine hit) 0x200000 (0x200000 + 2 ^ 16) = true) := by
  unfold Takes ringRoom
  decide +kernel

def closeLine (e : Byte) : Line := line 5 1 [e]

/-- O44: an entry above 31, a FREE one, a source with and without a record, a target with and without a line. -/
theorem test_meetsO44 :
    let held := withLine (closeLine 0) (withSync [aWrite 0 1] up)
    let busy := withLine (closeLine 2) (withQueue [anEntry 1 true true] up)
    Takes (withLine (closeLine 32) up) (closeLine 32) 5 ∧ (lineByte (closeLine 32) 4).toNat = 32 ∧
      Takes (withLine (closeLine 31) up) (closeLine 31) 5 ∧ (up.entry 31).state = .free ∧
      Takes held (closeLine 0) 5 ∧ markable (held.entry 0).state = true ∧
      (∃ r ∈ heldRecords held, r.region = some 0) ∧
      Takes (withLine (closeLine 0) up) (closeLine 0) 5 ∧ heldRecords up = [] ∧
      Takes busy (closeLine 2) 5 ∧ (busy.entry 2).state = .accepting ∧
      (∃ en ∈ busy.apply.queue, en.isLine = true ∧ en.target = some 2) ∧
      Takes (withLine (closeLine 3) up) (closeLine 3) 5 ∧ (up.entry 3).state = .failed ∧ up.apply.queue = [] ∧
      ringRoom up 3 := by
  unfold Takes ringRoom
  decide +kernel

/-- O44 with a segment of the region in progress: its block in READING with responses due and with none due, and in
WAITING; and a switch segment with a fence, of a region with no record (R92, R96, R104). -/
theorem test_closeAbandonsTheSegment :
    let close := fun s : State => after1 .close (withLine (closeLine 1) (holding .blockRead 0x300000#40 s))
    let d := close laden
    let r := close (laden.modResync fun r => { r with taken := 5 })
    let w := close (laden.modResync fun r => { r with block := .waiting, issued := 0, taken := 0, reserved := none })
    let x := ((reading 0).modResync fun r => { r with segment := some ⟨1, 2, 2, true⟩ }).modFences fun _ =>
      [⟨3, 1, [⟨1, .waiting⟩]⟩]
    SegmentOf laden 1 ∧ ReleaseEndsHold (holding .blockRead 0x300000#40 laden) ∧
      Takes (withLine (closeLine 1) x) (closeLine 1) 5 ∧ ringRoom x (3 + x.fences.length) ∧
      (d.entry 1).state = .draining ∧ d.resync = { laden.resync with segment := none, block := .discarding } ∧
      d.mem.hold = .none ∧ (d.fences.map Fence.tag) = [9] ∧
      r.resync.block = .idle ∧ r.resync.reserved = none ∧ (r.resync.buffers)[(0 : Fin 4)] = none ∧ r.mem.hold = .none ∧
      w.resync.block = .idle ∧ w.resync.segment = none ∧
      (close x).entry 1 = Entry.zero ∧ (close x).fences = [] ∧
      eventsOf (close x) = [.regionState .closed 1 .source .lagging .draining,
        .fenceDone .notDurable .resyncAbandoned 3 (some 1) 1, .regionState .drained 1 .source .draining .free,
        .commandDone .ok 1 5 1 0] := by
  refine ⟨⟨_, rfl, rfl⟩, ⟨0, .async, rfl, .inl rfl⟩, ?_⟩
  unfold Takes ringRoom
  decide +kernel

def fenceLine (mask : Nat) : Line := line 6 1 (leBytes 4 mask)

/-- The scope of a FENCE of the tests. -/
def scopeOf (s : State) (mask : BitVec 32) : List RegionIx :=
  (List.finRange 32).filter fun e => mask.getLsbD e.val && decide (roleOf (s.entry e).state = .source)

/-- O45: a full list, no session, and in UP each condition and none of them. -/
theorem test_meetsO45 :
    let full := (withLine (fenceLine 1) up).modFences fun _ => List.replicate 16 ⟨1, 1, [⟨0, .none⟩]⟩
    let marked := (withLine (fenceLine 1) up).modRegions fun v => setAt v 0 { (up.entry 0) with dirty := [1] }
    Takes full (fenceLine 1) 6 ∧ 16 ≤ full.fences.length ∧
      Takes (withLine (fenceLine 1) calling) (fenceLine 1) 6 ∧ calling.fences.length < 16 ∧
      calling.session.state ≠ .up ∧
      Takes (withLine (fenceLine 0x23) up) (fenceLine 0x23) 6 ∧
      ((scopeOf up (lineU32 (fenceLine 0x23) 4)).find? fun e => (up.entry e).state == .lagging) = some 1 ∧
      ((scopeOf up 0x21).find? fun e => (up.entry e).state == .lagging) = none ∧
      ((scopeOf up 0x21).find? fun e => (up.entry e).state == .refused) = some 5 ∧
      ((scopeOf marked 1).find? fun e => (marked.entry e).state == .mirrored && !(marked.entry e).dirty.isEmpty) =
        some 0 ∧
      scopeOf up 0xC = [] ∧ scopeOf up 0x81 = [0, 7] ∧
      ((scopeOf up 0x81).find? fun e => (up.entry e).state == .lagging || (up.entry e).state == .refused ||
        !(up.entry e).dirty.isEmpty) = none := by
  unfold Takes
  decide +kernel

/-- O46: SEND_NOTE outside UP, with the SYNC queue full, and with one free slot; each parameter at the ends of its
range and outside it; an id that names none. -/
theorem test_meetsO46 :
    let l := line 7 1 (leBytes 4 0)
    let p := fun id v => line 8 1 (leBytes 2 id ++ leBytes 2 0 ++ leBytes 4 v)
    Takes (withLine l calling) l 7 ∧ calling.session.state ≠ .up ∧ Takes (withLine l up) l 7 ∧
      freeSlots (withSync (List.replicate 64 (aNote 1)) up) .sync = 0 ∧
      freeSlots (withSync (List.replicate 63 (aNote 1)) up) .sync = 1 ∧
      Takes (withLine (p 7 10000) up) (p 7 10000) 8 ∧ (lineU16 (p 7 10000) 4).toNat = 7 ∧ lineU32 (p 7 10000) 8 = 10000 ∧
      ([(1, 1), (1, 255), (2, 10), (2, 10000), (3, 1), (3, 15), (4, 0), (4, 1000), (5, 10), (5, 10000), (6, 1), (6, 255),
        (7, 0), (7, 10000)].all fun x => paramValid x.1 x.2) = true ∧
      ([(0, 1), (1, 0), (1, 256), (2, 9), (2, 10001), (3, 0), (3, 16), (4, 1001), (5, 9), (5, 10001), (6, 0), (6, 256),
        (7, 10001), (8, 1)].any fun x => paramValid x.1 x.2) = false := by
  unfold Takes
  decide +kernel

/-- O47: a ring refused for its count, for entries not released, for an overlap; the smallest and the largest ring;
a release outside the span and each kind within it. -/
theorem test_meetsO47 :
    let g := fun base n => line 9 1 (leBytes 4 n ++ leBytes 8 base)
    let r := fun n => line 10 1 (leBytes 4 n)
    let s := up.modEv fun e => { e with produce := 3, release := 1, write := 3 }
    let lost := s.modEv fun e => { e with lost := 2 }
    let full := (withLine (r 1) up).modEv fun e => { e with produce := 65, release := 1, write := 65 }
    let low := full.modParams fun p => { p with attnThreshold := 1 }
    Takes (withLine (g 0xA00000 64) up) (g 0xA00000 64) 9 ∧ (lineU32 (g 0xA00000 64) 4).toNat = 64 ∧
      unreleased up.ev = 0 ∧ ringOverlaps (popLine (withLine (g 0xA00000 64) up)) 0xA00000 0xA00800 = false ∧
      ringOverlaps up 0xA00000 (0xA00000 + 32 * 4096) = false ∧ 0xA00000 % 4096 = 0 ∧
      (lineU32 (g 0xA00000 100) 4).toNat = 100 ∧ 100 ∉ [64, 128, 256, 512, 1024, 2048, 4096] ∧
      0 < unreleased s.ev ∧ ringOverlaps up 0x200000 0x200800 = true ∧ up.params.attnThreshold ≠ 0 ∧
      Takes (withLine (r 4) s) (r 4) 10 ∧ RingInRange s.ev ∧ releaseValid s.ev 4 = false ∧ releaseValid s.ev 1 = true ∧
      releaseValid s.ev 2 = true ∧ releaseValid s.ev 3 = true ∧ s.ev.produce = 3 ∧ s.ev.lost = 0 ∧ lost.ev.lost ≠ 0 ∧
      Takes full (r 1) 10 ∧ RingInRange full.ev ∧ unreleased full.ev = full.ev.count ∧ 1 = full.ev.release ∧
      attnPin (after1 .releaseEvents low) = false ∧ (after1 .releaseEvents low).ev.lost = 1 := by
  unfold Takes RingInRange
  decide +kernel

/-- O47's releases that leave entries unreleased: with nothing lost, with two slots freed and with one freed while the lost
count stands; the ATTN line by count, and with a release to the produce index (R145, R161, R163). -/
theorem test_releasesInTheSpan :
    let rel := fun (n : Nat) (s : State) => after1 .releaseEvents (withLine (line 10 1 (leBytes 4 n)) s)
    let done : Event := .commandDone .ok 1 10 0 0
    let s := up.modEv fun e => { e with produce := 3, release := 1, write := 3 }
    let high := s.modParams fun p => { p with attnThreshold := 8 }
    let full := up.modEv fun e => { e with produce := 65, release := 1, write := 65, lost := 2, attn := true }
    RingInRange full.ev ∧ unreleased full.ev = full.ev.count ∧ attnPin s = false ∧ high.params.attnThreshold.toNat = 8 ∧
      (rel 2 s).ev.release = 2 ∧ (rel 2 s).ev.produce = 4 ∧ (rel 2 s).ev.lost = 0 ∧ eventsOf (rel 2 s) = [done] ∧
      attnPin (rel 2 s) = true ∧ attnPin (rel 2 high) = false ∧ attnPin (rel 3 s) = false ∧
      (rel 3 full).ev.lost = 0 ∧ eventsOf (rel 3 full) = [.eventsLost 2, done] ∧ attnPin (rel 3 full) = true ∧
      (rel 2 full).ev.lost = 1 ∧ eventsOf (rel 2 full) = [.eventsLost 2] ∧
      ((rel 2 full).stats)[statIx .eventsLost] = 1 ∧
      (rel 65 full).ev.release = 65 ∧ (rel 65 full).ev.produce = 67 ∧ attnPin (rel 65 full) = false := by
  unfold RingInRange
  decide +kernel

def dumpLine (dest flag : Nat) : Line := line 11 1 (leBytes 4 flag ++ leBytes 8 dest)
def snapLine (dest : Nat) : Line := line 12 1 (leBytes 4 0 ++ leBytes 8 dest)

/-- O48: a destination off a line, one in use, one that overlaps, and good ones, the last one ending the space. -/
theorem test_meetsO48 :
    let b := up.modCmd fun c => { c with writeOut := some ⟨false, 1, 0, 1, 0⟩ }
    Takes (withLine (dumpLine 0xFFFFFFFF80 1) up) (dumpLine 0xFFFFFFFF80 1) 11 ∧
      lineAddress (dumpLine 0xFFFFFFFF80 1) = 0xFFFFFFFF80 ∧ 0xFFFFFFFF80 + 64 * 1 < 2 ^ 40 ∧
      lineByte (dumpLine 0xFFFFFFFF80 1) 4 ≠ 0 ∧ 0xFFFFFFFF80 % 64 = 0 ∧
      writeOutOverlaps (popLine (withLine (dumpLine 0xFFFFFFFF80 1) up)) 0xFFFFFFFF80 0x10000000000 = false ∧
      Takes (withLine (snapLine 0xA00000) up) (snapLine 0xA00000) 12 ∧
      writeOutOverlaps up 0xA00000 (0xA00000 + 1088) = false ∧ 0x20 % 64 ≠ 0 ∧ b.cmd.writeOut ≠ none ∧
      writeOutOverlaps up 0x200000 (0x200000 + 128) = true ∧ up.cmd.writeOut = none := by
  unfold Takes
  decide +kernel

/-- O49: a RESTART of a laden session, which reports nothing, keeps the ring and counts the marks that it makes from 0
(R15, R38, R73, R95, R155). -/
theorem test_restartOfALadenSession :
    let s := count ((withLine (line 13 6 []) laden).modMem fun m =>
      { m with hold := .applyPending, applyWait := 2, outstanding := [⟨.apply, 16, .read 0 64⟩] }) .holds
    let t := after1 .restart (withQueue [anEntry 1 false true, anEntry 1 true true, anEntry 2 true false] s)
    let u := after1 .restart (withQueue [anEntry 1 false true, anEntry 1 true false] s)
    (t.entry 1).dirty = [1, 2, 5, 7, 9] ∧ (t.entry 0).state = .lagging ∧ t.entry 6 = Entry.zero ∧ t.entry 4 = Entry.zero ∧
      buffersHeld t.resync = 0 ∧ t.resync.toDiscard = 3 ∧ t.apply.queue.length = 2 ∧ t.mem.hold = .applyPending ∧
      t.mem.applyWait = 2 ∧ u.mem.hold = .none ∧ t.cmd.waiting = some ⟨6, 1⟩ ∧ eventsOf t = [] ∧
      t.ev = s.ev ∧ (t.stats)[statIx .dirtyMarks] = 3 ∧ (t.stats)[statIx .holds] = 0 := by decide +kernel

/-- O49: with an injected request outstanding and with none. -/
theorem test_meetsO49 :
    let l := line 13 1 []
    let s := awaiting .apply (.write 0x400000#40 0xFF 0) (withLine l (withQueue [anEntry 1 true true] up))
    Takes s l 13 ∧ injectedOutstanding s = 1 ∧ Takes (withLine l up) l 13 ∧ injectedOutstanding (withLine l up) = 0 ∧
      ringRoom (withLine l up) 1 := by
  unfold Takes ringRoom
  decide +kernel

/-- O50: one slot free, and none. -/
theorem test_meetsO50 :
    let one := run.modEv fun e => { e with produce := 63 }
    let none := run.modEv fun e => { e with produce := 64 }
    RingInRange one.ev ∧ unreleased one.ev < one.ev.count ∧ RingInRange none.ev ∧
      unreleased none.ev = none.ev.count := by
  unfold RingInRange
  decide +kernel

/-- O53 to O60: a state with every invariant, in a session, and a step from it. -/
theorem test_meetsO53ToO60 :
    (NoMirrorDown up ∧ WithinCapacity up ∧ ReplayInOrder up ∧ EntriesInShape up) ∧
      (QuietUntilRunning up ∧ RangesApart up ∧ BuffersAccounted up ∧ EntriesAccounted up) ∧
      step up = .next (tick up) := by
  refine ⟨⟨fun h => absurd rfl h, ?_, ?_, ?_⟩, ⟨fun h => absurd rfl h, ?_, ?_, ?_⟩, rfl⟩
  · refine ⟨fun q => ?_, ?_⟩
    · cases q <;> decide +kernel
    · unfold RingInRange
      decide +kernel
  · exact ⟨by decide +kernel, trivial, by simp [up, run, State.reset]⟩
  · unfold EntriesInShape
    decide +kernel
  · intro e h
    refine ⟨?_, ?_, ?_, fun w g => ?_⟩
    · revert e
      decide +kernel
    · revert e
      decide +kernel
    · revert e
      decide +kernel
    · simp [up, run, State.reset] at g
  · unfold BuffersAccounted
    decide +kernel
  · unfold EntriesAccounted
    decide +kernel

/-- O59, O60: a laden state has the accounts too, with a record and a block under way that hold buffers and with an
entry outstanding at memory and one in the event list. -/
theorem test_accountsOfALadenSession :
    let s := (awaiting (.writer (.entry true)) (.write 0x101000#40 0xFFFFFFFF 0) laden).modEv fun e =>
      { e with produce := 5, write := 3, unwritten := 2, list := [⟨.restarted 1, true, 0, 0x101080#40, true⟩] }
    BuffersAccounted laden ∧ buffersHeld laden.resync = 2 ∧ EntriesAccounted s ∧ visible s.ev = 3 ∧
      visible { s.ev with release := 4 } = 0 := by
  unfold BuffersAccounted EntriesAccounted
  decide +kernel

end Sys2Proof.Tests
end

section
/-! PROOFS. Sessions: a JOIN taken in CALLING (R47) and the command CONNECT (R45, R46). -/

namespace Sys2Proof.Machine

/-! ## A JOIN taken in CALLING (R47) -/

/-- A delivered JOIN in CALLING goes to the Session Controller's CALLING case. -/
theorem exec_join_of_calling (rest : List Byte) (s : State) (h : Delivered s (frameOf .join rest))
    (hs : s.session.state = .calling) :
    exec (.join rest) s = .next (joinInCalling s (joinFields (frameOf .join rest))) := by
  simp only [exec, execJoin, deliver_of_delivered _ _ _ h, hs]

/-- The own unit id is found before a foreign version. -/
theorem joinRefusal_of_refused (s : State) (j : JoinFields)
    (h : j.sender = s.loader.prom.unitId ∨ j.version ≠ Config.protocolVersion) :
    joinRefusal s j = some (if j.sender = s.loader.prom.unitId then .sameUnit else .version) := by
  unfold joinRefusal
  by_cases own : j.sender = s.loader.prom.unitId
  · rw [if_pos own, if_pos own]
  · rw [if_neg own, if_neg own, if_pos (h.resolve_left own)]

theorem joinRefusal_of_not_refused (s : State) (j : JoinFields)
    (h : ¬(j.sender = s.loader.prom.unitId ∨ j.version ≠ Config.protocolVersion)) : joinRefusal s j = none := by
  obtain ⟨own, foreign⟩ := not_or.mp h
  rw [joinRefusal, if_neg own, if_neg foreign]

theorem refuseJoin_of_reported (s : State) (j : JoinFields) (c : RefusalCause) (h : s.session.refusalReported = true) :
    refuseJoin s j c = s := if_pos h

theorem refuseJoin_of_unreported (s : State) (j : JoinFields) (c : RefusalCause)
    (h : s.session.refusalReported = false) :
    refuseJoin s j c =
      emit { s with session := { s.session with refusalReported := true } } (.joinRefused c j.sender j.version) := by
  rw [refuseJoin, if_neg (by simp [h])]
  rfl

theorem joinInCalling_of_refused (s : State) (j : JoinFields)
    (h : j.sender = s.loader.prom.unitId ∨ j.version ≠ Config.protocolVersion) :
    joinInCalling s j = refuseJoin s j (if j.sender = s.loader.prom.unitId then .sameUnit else .version) := by
  rw [joinInCalling, joinRefusal_of_refused s j h]

theorem joinInCalling_of_not_refused (s : State) (j : JoinFields)
    (h : ¬(j.sender = s.loader.prom.unitId ∨ j.version ≠ Config.protocolVersion)) :
    joinInCalling s j = answerJoin s j := by
  rw [joinInCalling, joinRefusal_of_not_refused s j h]

/-- The answer to a JOIN, in one piece: the peer, the ACCEPT and the JOIN timer. -/
theorem answerJoin_eq (s : State) (j : JoinFields) :
    answerJoin s j = { s with
      session := { s.session with
        peerUnit := j.sender, peerCall := j.call
        answer := some ⟨nextEpoch s.session.lastEpoch j.last, j.call, s.session.lastEpoch⟩
        joinTimer := some (s.ev.timeBase + s.params.joinInterval) }
      tx := { s.tx with
        control := s.tx.control ++
          [⟨0, .accept (nextEpoch s.session.lastEpoch j.last) s.session.call j.call s.session.lastEpoch⟩] } } := rfl

/-! ## CONNECT (R45, R46) -/

/-- A taken CONNECT goes to the Session Controller and completes with OK, whatever the session state. -/
theorem exec_connect_of_takes (l : Line) (s : State) (h : Takes s l 1) :
    exec .connect s = .next (emit (connect (popLine s)) (.commandDone .ok (lineTag l) 1 0 0)) :=
  take_of_takes s l 1 (· == codeConnect) (fun l t => done (connect t) .ok (lineTag l) codeConnect) h rfl

theorem connect_of_not_disabled (s : State) (h : s.session.state ≠ .disabled) : connect s = s := if_neg h

/-- CONNECT in DISABLED: the entry into CALLING, whose JOIN waits for the carrier. -/
theorem connect_of_no_carrier (s : State) (h : s.session.state = .disabled) (hc : s.session.carrier = false) :
    connect s = { s with
      session := { s.session with
        state := .calling, enable := true, call := wrapSucc s.session.call, epoch := 0, answer := none
        refusalReported := false } } := by
  rw [connect, if_pos h, beginCalling, if_neg (by simp [enterCalling, hc])]
  rfl

/-- CONNECT in DISABLED with the carrier present: the JOIN carries the new call number. -/
theorem connect_of_carrier (s : State) (h : s.session.state = .disabled) (hc : s.session.carrier = true) :
    connect s = { s with
      session := { s.session with
        state := .calling, enable := true, call := wrapSucc s.session.call, epoch := 0, answer := none
        refusalReported := false, joinTimer := some (s.ev.timeBase + s.params.joinInterval) }
      tx := { s.tx with
        control := s.tx.control ++ [⟨0, .join (wrapSucc s.session.call) s.session.lastEpoch⟩] } } := by
  rw [connect, if_pos h, beginCalling, if_pos (by exact hc)]
  rfl

end Sys2Proof.Machine

namespace Sys2Proof.Proofs

open Sys2Proof.Machine

/-- Settles O10: the refusal by its cause and the report flag, else the answer. -/
theorem joinInCalling : Obligations.JoinInCalling := by
  intro rest s hd hs
  have hx := exec_join_of_calling rest s hd hs
  refine ⟨fun refused reported => ?_, fun refused unreported => ?_, fun accepted => ?_⟩
  · rw [hx, joinInCalling_of_refused s _ refused, refuseJoin_of_reported s _ _ reported]
  · rw [hx, joinInCalling_of_refused s _ refused, refuseJoin_of_unreported s _ _ unreported]
  · rw [hx, joinInCalling_of_not_refused s _ accepted, answerJoin_eq]
    rfl

/-- Settles O41: by the session state, and in DISABLED by the carrier; the take of the line leaves all that CONNECT
reads as it is. -/
theorem connect : Obligations.Connect := by
  intro l s ht
  have frame := popLine_frame s
  have session : (popLine s).session = s.session := frame.session (by decide)
  have tx : (popLine s).tx = s.tx := frame.tx (by decide)
  have ev : (popLine s).ev = s.ev := frame.ev (by decide)
  have params : (popLine s).params = s.params := frame.params (by decide)
  rw [exec_connect_of_takes l s ht, ← session, ← tx, ← ev, ← params]
  refine ⟨fun other => ?_, fun disabled absent => ?_, fun disabled present => ?_⟩
  · rw [connect_of_not_disabled _ other]
  · rw [connect_of_no_carrier _ disabled absent]
  · rw [connect_of_carrier _ disabled present]

end Sys2Proof.Proofs
end

section
/-! PROOFS. Sequencing and replay: a RETRY taken by the Link Transmitter (R67). -/

namespace Sys2Proof.Machine

/-! ## A PROTOCOL claim (R71) -/

theorem protocolClaim_of_suspended (s : State) (h : s.tx.suspended = true) : protocolClaim s = s := if_pos h

theorem protocolClaim_of_not_suspended (s : State) (h : s.tx.suspended = false) :
    protocolClaim s = { s with
      tx := { s.tx with timer := none, suspended := true, lossClaim := some .protocol } } := by
  rw [protocolClaim, if_neg (by simp [h])]
  rfl

/-! ## A RETRY, by where its number lies (R67) -/

/-- A RETRY of the session goes to the Link Transmitter with its number. -/
theorem exec_retry_of_current (rest : List Byte) (s : State) (h : Current s (frameOf .retry rest)) :
    exec (.retry rest) s = .next (takeRetry s (frameSeq (frameOf .retry rest))) := by
  simp only [exec, execRetry, deliver_of_current _ _ _ h]

theorem takeRetry_of_beyond (s : State) (n : BitVec 32) (h : seqBelow (seqSucc s.tx.highest) n = true) :
    takeRetry s n = protocolClaim s := if_pos h

theorem takeRetry_of_empty (s : State) (n : BitVec 32) (h : seqBelow (seqSucc s.tx.highest) n = false)
    (empty : s.tx.replay = []) : takeRetry s n = s := by
  simp [takeRetry, h, empty, oldestSeq]

section
variable {s : State} {n : BitVec 32} {oldest : Replayed} (h : seqBelow (seqSucc s.tx.highest) n = false)
  (head : s.tx.replay.head? = some oldest)
include h head

/-- With a record in the replay list the number is compared with the oldest, with the highest sent plus one and with the
records held, in this order. -/
theorem takeRetry_of_oldest : takeRetry s n =
    if seqBelow n oldest.seq then s
    else if n = seqSucc s.tx.highest then s.modTx fun t => { t with cursor := none }
    else if s.tx.replay.any fun r => r.seq == n then s.modTx fun t => { t with cursor := some n }
    else s := by
  simp only [takeRetry, h, oldestSeq, head, Option.map_some, Bool.false_eq_true, if_false]

theorem takeRetry_of_below (below : seqBelow n oldest.seq = true) : takeRetry s n = s := by
  rw [takeRetry_of_oldest h head, if_pos below]

theorem takeRetry_of_next (below : seqBelow n oldest.seq = false) (next : n = seqSucc s.tx.highest) :
    takeRetry s n = { s with tx := { s.tx with cursor := none } } := by
  rw [takeRetry_of_oldest h head, if_neg (by simp [below]), if_pos next]
  rfl

theorem takeRetry_of_held (below : seqBelow n oldest.seq = false) (next : n ≠ seqSucc s.tx.highest)
    (held : ∃ r ∈ s.tx.replay, r.seq = n) :
    takeRetry s n = { s with tx := { s.tx with cursor := some n } } := by
  have found : (s.tx.replay.any fun r => r.seq == n) = true := by simpa using held
  rw [takeRetry_of_oldest h head, if_neg (by simp [below]), if_neg next, if_pos found]
  rfl

end

end Sys2Proof.Machine

namespace Sys2Proof.Proofs

open Sys2Proof.Machine

/-- Settles O19: by where the number lies, beyond the highest sent plus one, or within it with the replay list empty or
its oldest record known. -/
theorem retrySetsTheCursor : Obligations.RetrySetsTheCursor := by
  intro rest s current
  have hx := exec_retry_of_current rest s current
  refine ⟨fun beyond suspended => ?_, fun beyond unsuspended => ?_, fun within empty => ?_,
    fun oldest within head => ⟨fun below => ?_, fun below next => ?_, fun below next held => ?_⟩⟩
  · rw [hx, takeRetry_of_beyond s _ beyond, protocolClaim_of_suspended s suspended]
  · rw [hx, takeRetry_of_beyond s _ beyond, protocolClaim_of_not_suspended s unsuspended]
  · rw [hx, takeRetry_of_empty s _ within empty]
  · rw [hx, takeRetry_of_below within head below]
  · rw [hx, takeRetry_of_next within head below next]
  · rw [hx, takeRetry_of_held within head below next held]

end Sys2Proof.Proofs
end

section
/-! PROOFS. Fences: the durability test (R102, R103) and the command FENCE (R99, R100). -/

namespace Sys2Proof.Machine

/-! ## The durability test (R102) -/

/-- What keeps a scope entry waiting by a record, with the switch wait's capture number named. -/
theorem keepsWaiting_iff (boundary : BitVec 48) (x : ScopeEntry) (r : Record) :
    keepsWaiting boundary x r = true ↔ r.region = some x.entry ∧
      (capBelow r.cap boundary = true ∨ ∃ c, x.wait = .upTo c ∧ (r.cap = c ∨ capBelow r.cap c = true)) := by
  unfold keepsWaiting
  cases x.wait <;> simp

/-- A fence fails its test exactly when a switch wait or a held record keeps it waiting. -/
theorem fencePasses_eq_false_iff (s : State) (f : Fence) :
    fencePasses s f = false ↔ FenceWaits (heldRecords s) f := by
  simp only [fencePasses, FenceWaits, List.all_eq_false, Bool.and_eq_true, not_and_or, List.all_eq_true, bne_iff_ne,
    Bool.not_eq_true', ← keepsWaiting_iff, not_forall, ne_eq, Decidable.not_not, Bool.not_eq_false, exists_prop]

/-- Of the state the test reads the held records only. -/
theorem fencePasses_congr {s t : State} (capture : heldRecords t = heldRecords s) : fencePasses t = fencePasses s := by
  funext f
  rw [fencePasses, fencePasses, capture]

/-- Fences that complete produce one event each, in list order (R103). -/
theorem eventsOf_completeFences (s : State) (p : Fence → Bool) (o : FenceOutcome) (c : FenceCause)
    (r : Option RegionIx) (room : ringRoom s s.fences.length) :
    eventsOf (completeFences s p o c r) =
      eventsOf s ++ (s.fences.filter p).map fun f => .fenceDone o c f.tag r f.boundary :=
  eventsOf_foldl _ _ (s.modFences fun fs => fs.filter fun f => !p f)
    (ringRoom_mono (s := s) room (List.length_filter_le ..))

theorem fenceTest_of_not_up (s : State) (h : s.session.state ≠ .up) : fenceTest s = s := if_neg h

theorem fenceTest_of_up (s : State) (h : s.session.state = .up) :
    fenceTest s = completeFences s (fencePasses s) .durable .none none := if_pos h

/-- In UP the fences that do not pass stay. -/
theorem fences_fenceTest (s : State) (h : s.session.state = .up) :
    (fenceTest s).fences = s.fences.filter fun f => !fencePasses s f := by
  rw [fenceTest_of_up s h, fences_completeFences]

/-- In UP the fences that pass complete DURABLE. -/
theorem eventsOf_fenceTest (s : State) (h : s.session.state = .up) (room : ringRoom s s.fences.length) :
    eventsOf (fenceTest s) = eventsOf s ++
      (s.fences.filter (fencePasses s)).map fun f => .fenceDone .durable .none f.tag none f.boundary := by
  rw [fenceTest_of_up s h, eventsOf_completeFences s _ _ _ _ room]

theorem exec_fenceDurable (s : State) : exec .fenceDurable s = .next (fenceTest s) := rfl

/-! ## What decides a FENCE (R100) -/

theorem decideFence_of_full (s : State) (scope : List RegionIx) (h : 16 ≤ s.fences.length) :
    decideFence s scope = .complete .notTaken .listFull none := if_pos h

section
variable {s : State} {scope : List RegionIx} (room : s.fences.length < 16)
include room

theorem decideFence_of_not_up (h : s.session.state ≠ .up) :
    decideFence s scope = .complete .notDurable .notUp none := by
  rw [decideFence, if_neg (Nat.not_le.mpr room), if_pos h]

variable (up : s.session.state = .up)
include up

theorem decideFence_of_lagging {e : RegionIx}
    (lagging : (scope.find? fun e => (s.entry e).state == .lagging) = some e) :
    decideFence s scope = .complete .notDurable .regionLagging (some e) := by
  simp only [decideFence, if_neg (Nat.not_le.mpr room), up, ne_eq, not_true_eq_false, if_false, lagging]

variable (lagging : (scope.find? fun e => (s.entry e).state == .lagging) = none)
include lagging

theorem decideFence_of_refused {e : RegionIx}
    (refused : (scope.find? fun e => (s.entry e).state == .refused) = some e) :
    decideFence s scope = .complete .notDurable .regionRefused (some e) := by
  simp only [decideFence, if_neg (Nat.not_le.mpr room), up, ne_eq, not_true_eq_false, if_false, lagging, refused]

variable (refused : (scope.find? fun e => (s.entry e).state == .refused) = none)
include refused

theorem decideFence_of_unclean {e : RegionIx}
    (unclean : (scope.find? fun e => (s.entry e).state == .mirrored && !(s.entry e).dirty.isEmpty) = some e) :
    decideFence s scope = .complete .notDurable .resyncError (some e) := by
  simp only [decideFence, if_neg (Nat.not_le.mpr room), up, ne_eq, not_true_eq_false, if_false, lagging, refused,
    unclean]

variable (clean : (scope.find? fun e => (s.entry e).state == .mirrored && !(s.entry e).dirty.isEmpty) = none)
include clean

/-- Where no region decides the FENCE, its scope does. -/
theorem decideFence_of_clean :
    decideFence s scope = if scope = [] then .complete .durable .none none else .append := by
  simp only [decideFence, if_neg (Nat.not_le.mpr room), up, ne_eq, not_true_eq_false, if_false, lagging, refused,
    clean, List.isEmpty_iff]

end

/-! ## The take of a FENCE (R99) -/

/-- The decision reads the Region Table, the session and the fence list, which the take of the line leaves alone. -/
theorem decideFence_popLine (s : State) (scope : List RegionIx) :
    decideFence (popLine s) scope = decideFence s scope := by
  have frame := popLine_frame s
  simp only [decideFence, State.entry, frame.fences (by decide), frame.session (by decide), frame.regions (by decide)]

theorem fenceScope_popLine (s : State) (mask : BitVec 32) : fenceScope (popLine s) mask = fenceScope s mask := by
  simp only [fenceScope, State.entry, (popLine_frame s).regions (by decide)]

theorem newFence_popLine (s : State) (tag : BitVec 16) (scope : List RegionIx) :
    newFence (popLine s) tag scope = newFence s tag scope := by
  have frame := popLine_frame s
  simp only [newFence, switchWaitOf, frame.capture (by decide), frame.resync (by decide)]

/-- The state in which a taken FENCE line has fixed its boundary, for the Capture Unit too. -/
def boundaryFixed (s : State) : State :=
  { popLine s with capture := { s.capture with boundary := s.capture.counter } }

/-- The state in which a taken FENCE stands at the end of the fence list. -/
def fenceAppended (s : State) (l : Line) : State :=
  (boundaryFixed s).modFences fun fs => fs ++ [newFence s (lineTag l) (fenceScope s (lineU32 l 4))]

theorem boundaryFixed_eq (s : State) :
    boundaryFixed s = (popLine s).modCapture fun c => { c with boundary := c.counter } := by
  rw [boundaryFixed, ← (popLine_frame s).capture (by decide)]
  rfl

theorem boundaryFixed_frame (s : State) : SameBut [.capture] (popLine s) (boundaryFixed s) := by
  rw [boundaryFixed_eq]
  exact modCapture_frame _ _

theorem fenceAppended_frame (s : State) (l : Line) : SameBut [.capture, .fences] (popLine s) (fenceAppended s l) :=
  ((boundaryFixed_frame s).mono rfl).then (modFences_frame _ _) rfl

theorem fences_fenceAppended (s : State) (l : Line) : (fenceAppended s l).fences =
    s.fences ++ [newFence s (lineTag l) (fenceScope s (lineU32 l 4))] := by
  rw [fenceAppended, State.modFences_fences, (boundaryFixed_frame s).fences (by decide),
    (popLine_frame s).fences (by decide)]

/-- A taken FENCE line goes to the Fence Tracker with its tag and its region mask. -/
theorem exec_fence_of_takes {l : Line} {s : State} (h : Takes s l 6) :
    exec .fence s = .next (takeFence (popLine s) (lineTag l) (lineU32 l 4)) :=
  take_of_takes s l 6 (· == codeFence) (fun l t => takeFence t (lineTag l) (lineU32 l 4)) h rfl

theorem exec_fence_of_complete {l : Line} {s : State} {outcome : FenceOutcome} {cause : FenceCause}
    {region : Option RegionIx} (h : Takes s l 6)
    (decided : decideFence s (fenceScope s (lineU32 l 4)) = .complete outcome cause region) :
    exec .fence s =
      .next (emit (boundaryFixed s) (.fenceDone outcome cause (lineTag l) region s.capture.counter)) := by
  rw [exec_fence_of_takes h, takeFence, fenceScope_popLine, newFence_popLine, decideFence_popLine, decided,
    boundaryFixed_eq]
  rfl

theorem exec_fence_of_append {l : Line} {s : State} (h : Takes s l 6)
    (decided : decideFence s (fenceScope s (lineU32 l 4)) = .append) :
    exec .fence s = .next (fenceTest (fenceAppended s l)) := by
  rw [exec_fence_of_takes h, takeFence, fenceScope_popLine, newFence_popLine, decideFence_popLine, decided,
    fenceAppended, boundaryFixed_eq]

/-! ## The durability test of an appended FENCE (R100) -/

section
variable (s : State) (l : Line)

theorem capture_fenceTest_fenceAppended :
    (fenceTest (fenceAppended s l)).capture = { s.capture with boundary := s.capture.counter } :=
  (fenceTest_frame _).capture (by decide)

theorem session_fenceAppended : (fenceAppended s l).session = s.session :=
  ((fenceAppended_frame s l).session (by decide)).trans ((popLine_frame s).session (by decide))

theorem ev_fenceAppended : (fenceAppended s l).ev = s.ev :=
  ((fenceAppended_frame s l).ev (by decide)).trans ((popLine_frame s).ev (by decide))

/-- The test reads neither the Capture Unit's boundary nor the fence list. -/
theorem fencePasses_fenceAppended : fencePasses (fenceAppended s l) = fencePasses s := by
  have tx : (fenceAppended s l).tx = s.tx :=
    ((fenceAppended_frame s l).tx (by decide)).trans ((popLine_frame s).tx (by decide))
  refine fencePasses_congr ?_
  rw [heldRecords, tx]
  rfl

theorem fences_of_appended_fence (up : s.session.state = .up) : (fenceTest (fenceAppended s l)).fences =
    (s.fences ++ [newFence s (lineTag l) (fenceScope s (lineU32 l 4))]).filter fun f => !fencePasses s f := by
  rw [fences_fenceTest _ (by rwa [session_fenceAppended]), fences_fenceAppended, fencePasses_fenceAppended]

theorem eventsOf_appended_fence (up : s.session.state = .up) (room : ringRoom s (s.fences.length + 1)) :
    eventsOf (fenceTest (fenceAppended s l)) = eventsOf s ++
      ((s.fences ++ [newFence s (lineTag l) (fenceScope s (lineU32 l 4))]).filter (fencePasses s)).map fun f =>
        .fenceDone .durable .none f.tag none f.boundary := by
  have before : eventsOf (fenceAppended s l) = eventsOf s := by rw [eventsOf, ev_fenceAppended, eventsOf]
  have fits : ringRoom (fenceAppended s l) (fenceAppended s l).fences.length := by
    rw [ringRoom, ev_fenceAppended, fences_fenceAppended, List.length_append]
    exact room
  rw [eventsOf_fenceTest _ (by rwa [session_fenceAppended]) fits, before, fences_fenceAppended,
    fencePasses_fenceAppended]

/-- The take, the fixed boundary and the test count no mark. -/
theorem marks_appended_fence : MarksCounted s (fenceTest (fenceAppended s l)) 0 :=
  (((popLine_frame s).marks (by decide)).same ((fenceAppended_frame s l).marks (by decide))).same (marks_fenceTest _)

theorem appended_fence_frame :
    SameBut [.capture, .fences, .ev, .stats] (popLine s) (fenceTest (fenceAppended s l)) :=
  ((fenceAppended_frame s l).mono rfl).then (fenceTest_frame _) rfl

end

end Sys2Proof.Machine

namespace Sys2Proof.Proofs

open Sys2Proof.Machine

/-- Settles O39: outside UP the test does nothing, and in UP the fences that it keeps are those that fail it. -/
theorem durableFencesComplete : Obligations.DurableFencesComplete := by
  intro s
  rw [exec_fenceDurable]
  refine ⟨fun down => by rw [fenceTest_of_not_up s down], fun kept up keptIff => ?_⟩
  have kept_eq : kept = fun f => !fencePasses s f := funext fun f => by
    rw [Bool.eq_iff_iff, keptIff, Bool.not_eq_true', fencePasses_eq_false_iff]
  subst kept_eq
  refine ⟨_, rfl, fences_fenceTest s up, fun room => ?_, marks_fenceTest s, fenceTest_frame s⟩
  simpa only [Bool.not_not] using eventsOf_fenceTest s up room

/-- Settles O45: by the conditions of R100 in their order, each with its decision; an appended fence is tested at
once. -/
theorem fenceIsDecidedInOrder : Obligations.FenceIsDecidedInOrder := by
  intro l s takes
  refine ⟨fun full => ?_, fun room down => ?_, fun room up =>
    ⟨fun e lagging => ?_, fun e lagging refused => ?_, fun e lagging refused unclean => ?_,
      fun lagging refused clean empty => ?_, fun lagging refused clean nonempty => ?_⟩⟩
  · exact exec_fence_of_complete takes (decideFence_of_full s _ full)
  · exact exec_fence_of_complete takes (decideFence_of_not_up room down)
  · exact exec_fence_of_complete takes (decideFence_of_lagging room up lagging)
  · exact exec_fence_of_complete takes (decideFence_of_refused room up lagging refused)
  · exact exec_fence_of_complete takes (decideFence_of_unclean room up lagging refused unclean)
  · exact exec_fence_of_complete takes ((decideFence_of_clean room up lagging refused clean).trans (if_pos empty))
  · have appended := (decideFence_of_clean room up lagging refused clean).trans (if_neg nonempty)
    exact ⟨_, exec_fence_of_append takes appended, capture_fenceTest_fenceAppended s l,
      fences_of_appended_fence s l up, eventsOf_appended_fence s l up, marks_appended_fence s l, appended_fence_frame s l⟩

end Sys2Proof.Proofs
end

section
/-! PROOFS. Receiving records: validation against the Region Table and the apply entries (R113, R114). -/

namespace Sys2Proof.Machine

/-! ## The entry that a peer index byte names -/

theorem regionIx?_of_above {b : BitVec 8} (above : 32 ≤ b.toNat) : regionIx? b = none := dif_neg above.not_gt

theorem regionIx?_of_val {b : BitVec 8} {e : RegionIx} (names : e.val = b.toNat) : regionIx? b = some e := by
  have inTable : b.toNat < 32 := names ▸ e.isLt
  rw [regionIx?, dif_pos inTable]
  exact congrArg some (Fin.ext names.symm)

/-! ## The tests of R113 in their order -/

section
variable {s : State} {peer : BitVec 8} {beyond : Nat → Bool}

theorem validate_of_above (above : 32 ≤ peer.toNat) : validate s peer beyond = .reject none .noTarget := by
  rw [validate, regionIx?_of_above above]

variable {e : RegionIx} (names : e.val = peer.toNat)
include names

/-- An entry that is no target, or a RELEASING one: only ACCEPTING and FAILED escape NO_TARGET. -/
theorem validate_of_not_target
    (noTarget : roleOf (s.entry e).state ≠ .target ∨ (s.entry e).state = .releasing) :
    validate s peer beyond = .reject (some e) .noTarget := by
  simp only [validate, regionIx?_of_val names]
  cases state : (s.entry e).state with
  | accepting | failed => simp [state, roleOf] at noTarget
  | free | lagging | mirrored | refused | draining | releasing => rfl

theorem validate_of_failed (failed : (s.entry e).state = .failed) :
    validate s peer beyond = .reject (some e) .targetFailed := by
  simp only [validate, regionIx?_of_val names, failed]

theorem validate_of_beyond (accepting : (s.entry e).state = .accepting)
    (out : beyond (s.entry e).sizeExp = true) : validate s peer beyond = .reject (some e) .outOfRange := by
  simp only [validate, regionIx?_of_val names, accepting, out, if_true]

theorem validate_of_within (accepting : (s.entry e).state = .accepting)
    (within : beyond (s.entry e).sizeExp = false) : validate s peer beyond = .apply e := by
  simp only [validate, regionIx?_of_val names, accepting, within, Bool.false_eq_true, if_false]

end

/-! ## What a record needs, by its verdict -/

section
variable {s : State} {peer : BitVec 8} {position : Nat} {target : Option RegionIx} {reason : RejectReason}
  {e : RegionIx} (seq : BitVec 32) (mask : ByteMask) (line : Line) (data : BlockData)

theorem recordEntries_write_of_reject
    (verdict : validate s peer (fun n => 2 ^ (n - 6) ≤ position) = .reject target reason) :
    recordEntries s seq (.write peer position mask line) =
      ([⟨seq, s.session.epoch, target, .rejected reason, true, false, false⟩], some (.reject seq peer reason)) := by
  rw [recordEntries, verdict]

theorem recordEntries_write_of_apply (verdict : validate s peer (fun n => 2 ^ (n - 6) ≤ position) = .apply e) :
    recordEntries s seq (.write peer position mask line) =
      ([⟨seq, s.session.epoch, some e, .line (targetLine s e position) mask line .write, true, false, false⟩],
        none) := by
  rw [recordEntries, verdict]

theorem recordEntries_block_of_reject
    (verdict : validate s peer (fun n => 2 ^ (n - 12) ≤ position) = .reject target reason) :
    recordEntries s seq (.block peer position data) =
      ([⟨seq, s.session.epoch, target, .rejected reason, true, false, false⟩], some (.reject seq peer reason)) := by
  rw [recordEntries, verdict]

theorem recordEntries_block_of_apply (verdict : validate s peer (fun n => 2 ^ (n - 12) ≤ position) = .apply e) :
    recordEntries s seq (.block peer position data) = (blockEntries s seq e position data, none) := by
  rw [recordEntries, verdict]

end

/-! ## The 64 lines of a valid BLOCK (R114) -/

section
variable (s : State) (seq : BitVec 32) (e : RegionIx) (block : Nat) (data : BlockData)

theorem length_blockEntries : (blockEntries s seq e block data).length = 64 := by
  rw [blockEntries, List.length_map, List.length_range]

/-- A block of 4 KiB has 64 lines of 64 bytes. -/
theorem targetLine_of_block (k : Nat) :
    targetLine s e (64 * block + k) = BitVec.ofNat 40 ((s.entry e).base.toNat + 4096 * block + 64 * k) := by
  rw [targetLine]
  congr 1
  omega

theorem getElem?_blockEntries {k : Nat} (inBlock : k < 64) : (blockEntries s seq e block data)[k]? =
    some ⟨seq, s.session.epoch, some e,
      .line (BitVec.ofNat 40 ((s.entry e).base.toNat + 4096 * block + 64 * k)) (BitVec.allOnes 64)
        (blockLine data k) .block, decide (k = 63), false, false⟩ := by
  rw [blockEntries, List.getElem?_map, List.getElem?_range inBlock, Option.map_some, targetLine_of_block, fullMask]

end

end Sys2Proof.Machine

namespace Sys2Proof.Proofs

open Sys2Proof.Machine

/-- Settles O16: a WRITE and a BLOCK by the verdict of R113 on their peer index, target and position; a NOTE has
none. -/
theorem recordValidation : Obligations.RecordValidation := by
  intro s seq peer
  refine ⟨fun line mask data => ⟨fun above => ?_, fun e names => ⟨fun noTarget => ?_, fun failed => ?_,
      fun accepting beyond => ?_, fun accepting within => ?_⟩⟩,
    fun block data => ⟨fun above => ?_, fun e names => ⟨fun noTarget => ?_, fun failed => ?_,
      fun accepting beyond => ?_, fun accepting within => ?_⟩⟩,
    fun tag payload => rfl⟩
  · exact recordEntries_write_of_reject seq mask data (validate_of_above above)
  · exact recordEntries_write_of_reject seq mask data (validate_of_not_target names noTarget)
  · exact recordEntries_write_of_reject seq mask data (validate_of_failed names failed)
  · exact recordEntries_write_of_reject seq mask data
      (validate_of_beyond names accepting (decide_eq_true beyond))
  · exact recordEntries_write_of_apply seq mask data
      (validate_of_within names accepting (decide_eq_false within.not_ge))
  · exact recordEntries_block_of_reject seq data (validate_of_above above)
  · exact recordEntries_block_of_reject seq data (validate_of_not_target names noTarget)
  · exact recordEntries_block_of_reject seq data (validate_of_failed names failed)
  · exact recordEntries_block_of_reject seq data
      (validate_of_beyond names accepting (decide_eq_true beyond))
  · rw [recordEntries_block_of_apply seq data
      (validate_of_within names accepting (decide_eq_false within.not_ge))]
    exact ⟨rfl, length_blockEntries s seq e block data, fun k => getElem?_blockEntries s seq e block data⟩

end Sys2Proof.Proofs
end

section
/-! PROOFS. Events: an event that is requested with room in the ring, and on a full one (R159). -/

namespace Sys2Proof.Machine

/-! ## The indices, which count modulo 2N (R158) -/

/-- With fewer than N entries unreleased, moving P by one makes one more: the count does not wrap at 2N. -/
theorem unreleased_next (e : EventWriter) (range : e.release ≤ 2 * e.count) (room : unreleased e < e.count) :
    unreleased { e with produce := nextIndex e e.produce } = unreleased e + 1 := by
  unfold unreleased at room ⊢
  have one : 1 % (2 * e.count) = 1 := Nat.mod_eq_of_lt (by omega)
  calc (nextIndex e e.produce + 2 * e.count - e.release) % (2 * e.count)
      = ((e.produce + 1) % (2 * e.count) + (2 * e.count - e.release)) % (2 * e.count) := by
        rw [nextIndex, Nat.add_sub_assoc range]
    _ = (e.produce + 1 + (2 * e.count - e.release)) % (2 * e.count) := Nat.mod_add_mod ..
    _ = (e.produce + 2 * e.count - e.release + 1) % (2 * e.count) := by congr 1; omega
    _ = (e.produce + 2 * e.count - e.release) % (2 * e.count) + 1 := by
        rw [Nat.add_mod_of_add_mod_lt (by omega), one]

/-! ## The fields of the Event Writer that an entry produced at P changes, and those it leaves alone (R159) -/

section
variable (p : Params) (ev : Event) (e : EventWriter)

@[simp] theorem produceEntry_list : (produceEntry p ev e).list = e.list ++ [newItem e ev] := attnTest_list ..
@[simp] theorem produceEntry_produce : (produceEntry p ev e).produce = nextIndex e e.produce := attnTest_produce ..
@[simp] theorem produceEntry_release : (produceEntry p ev e).release = e.release := attnTest_release ..
@[simp] theorem produceEntry_write : (produceEntry p ev e).write = e.write := attnTest_write ..
@[simp] theorem produceEntry_lost : (produceEntry p ev e).lost = e.lost := attnTest_lost ..

/-- The entry counts as unreleased; the ATTN test reads the count only. -/
theorem unreleased_produceEntry (range : RingInRange e) (room : unreleased e < e.count) :
    unreleased (produceEntry p ev e) = unreleased e + 1 := by
  obtain ⟨_, _, release, _, _⟩ := range
  exact (unreleased_attnTest ..).trans (unreleased_next e release.le room)

end

/-! ## A full ring -/

/-- On a full ring the event is counted in the Event Writer and in the statistics, and in nothing else. -/
theorem emit_eq_of_full (s : State) (ev : Event) (full : unreleased s.ev = s.ev.count) :
    emit s ev = { count s .eventsLost with ev := loseEvent s.ev } := by
  rw [emit_of_full s ev full.not_lt]
  rfl

end Sys2Proof.Machine

namespace Sys2Proof.Proofs

open Sys2Proof.Machine

/-- Settles O50: with room by what the production of an entry does to each field of the Event Writer, on a full ring by
the count of the lost events. -/
theorem eventsTakeTheNextSlot : Obligations.EventsTakeTheNextSlot := by
  intro ev s range
  refine ⟨fun room => ?_, fun full => emit_eq_of_full s ev full⟩
  rw [emit_of_room s ev room, State.modEv_ev]
  exact ⟨produceEntry_list .., produceEntry_produce .., produceEntry_release .., produceEntry_write ..,
    produceEntry_lost .., unreleased_produceEntry _ ev s.ev range room, modEv_frame s _⟩

end Sys2Proof.Proofs
end

section
/-! PROOFS. What every command does, said once: a chain of small acts, each of which keeps the invariants. An act that
changes no session state and nothing that an invariant reads, but in the ways named here, is mild. -/

namespace Sys2Proof.Machine

/-! ## Mild changes -/

/-- How an entry of the Region Table may change, but for an OPEN: it becomes FREE with its fields 0, or it keeps its range
and its role, becomes MIRRORED only in UP, and gains marks only where marks are made (R1, R7, R80). -/
structure Reshaped (up : Prop) (a b : Entry) : Prop where
  base : b.base = a.base
  size : b.sizeExp = a.sizeExp
  cls : b.cls = a.cls
  peer : b.peer = a.peer
  role : roleOf b.state = roleOf a.state
  cursor : roleOf a.state = .source ∨ b.cursor = a.cursor
  dirty : markable b.state = true ∨ b.dirty = [] ∨ (markable a.state = false ∧ b.dirty = a.dirty)
  mirrored : b.state = .mirrored → a.state = .mirrored ∨ up

def EntryMoves (up : Prop) (a b : Entry) : Prop := b = Entry.zero ∨ Reshaped up a b

/-- How the Resync Engine may change with no block started or ended: the buffers held, the reservation and whether a
block is in READING or DISCARDING stay, and no segment begins in DISCARDING (R81, R82). -/
structure ResyncMoves (a b : Resync) : Prop where
  buffers : ∀ i : Fin 4, (b.buffers)[i] = none ↔ (a.buffers)[i] = none
  reserved : b.reserved = a.reserved
  block : b.block = .reading ∨ b.block = .discarding ↔ a.block = .reading ∨ a.block = .discarding
  discarding : b.block = .discarding → a.block = .discarding ∧ (a.segment = none → b.segment = none)

/-- The ring, its indices and the event list are the same. -/
structure SameRing (a b : EventWriter) : Prop where
  base : b.ringBase = a.ringBase
  count : b.count = a.count
  produce : b.produce = a.produce
  release : b.release = a.release
  write : b.write = a.write
  unwritten : b.unwritten = a.unwritten
  list : b.list = a.list

/-- A change that no invariant sees, but for entries that move and lists that shrink or stay within their capacity. -/
structure Mild (s t : State) : Prop where
  pending : t.pending = s.pending
  running : s.loader.loadState = .running → t.loader.loadState = .running
  entries : ∀ e, EntryMoves (s.session.state = .up) (s.entry e) (t.entry e)
  control : t.loader.prom.controlBase = s.loader.prom.controlBase
  session : t.session.state = s.session.state
  sync : t.capture.sync = s.capture.sync
  async : t.capture.async = s.capture.async
  replay : t.tx.replay = s.tx.replay
  next : t.tx.next = s.tx.next
  highest : t.tx.highest = s.tx.highest
  apply : t.apply.queue.length ≤ s.apply.queue.length ∨ t.apply.queue.length ≤ Config.applySlots
  resync : ResyncMoves s.resync t.resync
  fences : t.fences.length ≤ s.fences.length ∨ (s.session.state = .up ∧ t.fences.length ≤ Config.fenceSlots)
  lines : t.cmd.queue.length ≤ s.cmd.queue.length ∨ t.cmd.queue.length ≤ Config.commandSlots
  responses : t.mem.responses.length ≤ s.mem.responses.length ∨ t.mem.responses.length ≤ Config.portSlots
  injected : t.mem.outstanding.filter MemRequest.injected = s.mem.outstanding.filter MemRequest.injected
  writeOut : ∀ w, t.cmd.writeOut = some w →
    ∃ v, s.cmd.writeOut = some v ∧ w.dest = v.dest ∧ w.isSnapshot = v.isSnapshot
  ring : SameRing s.ev t.ev

theorem Reshaped.refl (up : Prop) (a : Entry) : Reshaped up a a where
  base := rfl
  size := rfl
  cls := rfl
  peer := rfl
  role := rfl
  cursor := .inr rfl
  dirty := by cases h : markable a.state <;> simp
  mirrored := .inl

theorem EntryMoves.refl (up : Prop) (a : Entry) : EntryMoves up a a := .inr (.refl up a)

theorem ResyncMoves.refl (a : Resync) : ResyncMoves a a := ⟨fun _ => .rfl, rfl, .rfl, fun h => ⟨h, id⟩⟩

theorem SameRing.refl (a : EventWriter) : SameRing a a := ⟨rfl, rfl, rfl, rfl, rfl, rfl, rfl⟩

/-- A change is mild when each part that it touches changes mildly; the statistics, the parameters, the outputs, the
Link Receiver and the model's own counts are read by no invariant. -/
theorem Mild.of_frame {ps : List Part} {s t : State} (f : SameBut ps s t)
    (pending : Part.pending ∉ ps := by exact by decide)
    (entries : Part.regions ∈ ps → ∀ e, EntryMoves (s.session.state = .up) (s.entry e) (t.entry e) := by
      exact fun h => absurd h (by decide))
    (loader : Part.loader ∈ ps → t.loader.prom.controlBase = s.loader.prom.controlBase ∧
      (s.loader.loadState = .running → t.loader.loadState = .running) := by exact fun h => absurd h (by decide))
    (session : Part.session ∈ ps → t.session.state = s.session.state := by exact fun h => absurd h (by decide))
    (capture : Part.capture ∈ ps → t.capture.sync = s.capture.sync ∧ t.capture.async = s.capture.async := by
      exact fun h => absurd h (by decide))
    (tx : Part.tx ∈ ps → t.tx.replay = s.tx.replay ∧ t.tx.next = s.tx.next ∧ t.tx.highest = s.tx.highest := by
      exact fun h => absurd h (by decide))
    (apply : Part.apply ∈ ps →
      t.apply.queue.length ≤ s.apply.queue.length ∨ t.apply.queue.length ≤ Config.applySlots := by
      exact fun h => absurd h (by decide))
    (resync : Part.resync ∈ ps → ResyncMoves s.resync t.resync := by exact fun h => absurd h (by decide))
    (fences : Part.fences ∈ ps →
      t.fences.length ≤ s.fences.length ∨ (s.session.state = .up ∧ t.fences.length ≤ Config.fenceSlots) := by
      exact fun h => absurd h (by decide))
    (lines : Part.cmd ∈ ps → (t.cmd.queue.length ≤ s.cmd.queue.length ∨ t.cmd.queue.length ≤ Config.commandSlots) ∧
      ∀ w, t.cmd.writeOut = some w →
        ∃ v, s.cmd.writeOut = some v ∧ w.dest = v.dest ∧ w.isSnapshot = v.isSnapshot := by
      exact fun h => absurd h (by decide))
    (mem : Part.mem ∈ ps →
      (t.mem.responses.length ≤ s.mem.responses.length ∨ t.mem.responses.length ≤ Config.portSlots) ∧
      t.mem.outstanding.filter MemRequest.injected = s.mem.outstanding.filter MemRequest.injected := by
      exact fun h => absurd h (by decide))
    (ring : Part.ev ∈ ps → SameRing s.ev t.ev := by exact fun h => absurd h (by decide)) : Mild s t where
  pending := f.pending pending
  running := by by_cases h : Part.loader ∈ ps; exacts [(loader h).2, by rw [f.loader h]; exact id]
  entries := by
    by_cases h : Part.regions ∈ ps
    · exact entries h
    · exact fun e => f.entry h e ▸ .refl ..
  control := by by_cases h : Part.loader ∈ ps; exacts [(loader h).1, by rw [f.loader h]]
  session := by by_cases h : Part.session ∈ ps; exacts [session h, by rw [f.session h]]
  sync := by by_cases h : Part.capture ∈ ps; exacts [(capture h).1, by rw [f.capture h]]
  async := by by_cases h : Part.capture ∈ ps; exacts [(capture h).2, by rw [f.capture h]]
  replay := by by_cases h : Part.tx ∈ ps; exacts [(tx h).1, by rw [f.tx h]]
  next := by by_cases h : Part.tx ∈ ps; exacts [(tx h).2.1, by rw [f.tx h]]
  highest := by by_cases h : Part.tx ∈ ps; exacts [(tx h).2.2, by rw [f.tx h]]
  apply := by by_cases h : Part.apply ∈ ps; exacts [apply h, .inl (by rw [f.apply h])]
  resync := by by_cases h : Part.resync ∈ ps; exacts [resync h, by rw [f.resync h]; exact .refl _]
  fences := by by_cases h : Part.fences ∈ ps; exacts [fences h, .inl (by rw [f.fences h])]
  lines := by by_cases h : Part.cmd ∈ ps; exacts [(lines h).1, .inl (by rw [f.cmd h])]
  responses := by by_cases h : Part.mem ∈ ps; exacts [(mem h).1, .inl (by rw [f.mem h])]
  injected := by by_cases h : Part.mem ∈ ps; exacts [(mem h).2, by rw [f.mem h]]
  writeOut := by
    by_cases h : Part.cmd ∈ ps
    · exact (lines h).2
    · exact fun w g => ⟨w, by rw [← f.cmd h, g], rfl, rfl⟩
  ring := by by_cases h : Part.ev ∈ ps; exacts [ring h, by rw [f.ev h]; exact .refl _]

/-! ## The acts -/

/-- Entry `e` is FREE, and opens as a LAGGING source or an ACCEPTING target whose range meets nothing (R4, R5, R6). -/
structure Opens (s : State) (e : RegionIx) (en : Entry) : Prop where
  free : (s.entry e).state = .free
  shape : en.state = .lagging ∨ (en.state = .accepting ∧ en.cls = none ∧ en.peer = 0 ∧ en.cursor = 0)
  clean : en.dirty = []
  apart : openOverlaps s en.base.toNat (entryEnd en) = false

/-- The records `gone` leave the send queues and the front of the replay list, and their block buffers are freed (R21,
R36, R37, R66, R72). -/
structure Drops (s t : State) (gone : List Record) : Prop where
  held : (heldRecords s).Perm (gone ++ heldRecords t)
  sync : t.capture.sync.Sublist s.capture.sync
  async : t.capture.async.Sublist s.capture.async
  replay : t.tx.replay <:+ s.tx.replay
  next : t.tx.next = s.tx.next
  highest : t.tx.highest = s.tx.highest
  resync : t.resync = { s.resync with buffers := t.resync.buffers }
  freed : ∀ b : Fin 4, (t.resync.buffers)[b] = none ↔
    (s.resync.buffers)[b] = none ∨ ∃ r ∈ gone, r.buffer = some b
  frame : SameBut [.capture, .tx, .resync] s t

/-- The kind of a record's body holds no block buffer. -/
def RecordBody.bufferFree : RecordBody → Prop
  | .block .. => False
  | .write .. | .note .. => True

/-- One act of the part, which changes no session state. -/
inductive Act : State → State → Prop
  /-- A change that no invariant sees. -/
  | mild {s t : State} (h : Mild s t) : Act s t
  /-- An event is requested (R159). -/
  | emit (s : State) (ev : Event) : Act s (emit s ev)
  /-- An entry opens (R4, R5). -/
  | opens {s : State} {e : RegionIx} {en : Entry} (h : Opens s e en) : Act s (setEntry s e en)
  /-- A WRITE or NOTE record takes a free slot (R25, R34). -/
  | append {s : State} {q : QueueClass} {body : RecordBody} (room : 0 < freeSlots s q) (h : body.bufferFree) :
      Act s (appendRecord s q body)
  /-- A write merges into the tail of a queue (R26). -/
  | merge {s : State} {q : QueueClass} {before : List Record} {r r' : Record}
      (h : s.capture.queueOf q = before ++ [r]) (g : r.body.bufferFree) (g' : r'.body.bufferFree) :
      Act s (s.modCapture fun c => c.setQueue q (before ++ [r']))
  /-- A block in WAITING starts (R85). -/
  | start {s : State} {b : Fin 4} {q : QueueClass} (h : s.resync.block = .waiting)
      (free : (s.resync.buffers)[b] = none) (room : 0 < freeSlots s q) :
      Act s (s.modResync fun r =>
        { r with block := .reading, issued := 0, taken := 0, reserved := some (b, q),
                 buffers := setAt r.buffers b (some 0) })
  /-- The block under way is released (R91, R92). -/
  | release (s : State) : Act s (releaseBlock s)
  /-- A CLOSE takes the segment in progress from its block (R96). -/
  | abandon {s : State} {sg : Segment} (h : s.resync.segment = some sg) :
      Act s (s.modResync fun r =>
        { r with block := if r.block = .reading then .discarding else .idle, segment := none })
  /-- The block under way becomes a BLOCK record in its reserved slot (R86, R87). -/
  | finish {s : State} {sg sg' : Segment} {b : Fin 4} {q : QueueClass} {e peer : RegionIx} {n : Nat} (more : Bool)
      (h : s.resync.segment = some sg) (g : s.resync.reserved = some (b, q)) :
      Act s ((appendRecord s q (.block e peer n b)).modResync fun r =>
        { r with block := if more then .waiting else .idle, issued := 0, taken := 0, reserved := none,
                 segment := some sg' })
  /-- Records leave the part (R36, R37, R66, R72). -/
  | drop {s t : State} {gone : List Record} (h : Drops s t gone) : Act s t
  /-- The head of a queue moves to the replay list under the next sequence number (R62, R63). -/
  | transmit {s : State} {q : QueueClass} {r : Replayed} {rest : List Record} (timer : Transmitter → Option (BitVec 32))
      (run : Transmitter → Nat) (h : s.capture.queueOf q = r.record :: rest) (number : r.seq = s.tx.next)
      (session : inSession s = true) (room : s.tx.replay.length < Config.replaySlots) :
      Act s ((s.modCapture fun c => c.setQueue q (c.queueOf q).tail).modTx fun t =>
        { t with next := seqSucc t.next, highest := t.next, replay := t.replay ++ [r], timer := timer t,
                 syncRun := run t })
  /-- A write of the Apply Engine or a read of the Resync Engine is issued (R115, R86). -/
  | inject {s : State} (i : Injected) {source : MemSource} (form : MemForm) (room : injectedRoom s = true)
      (h : source = .apply ∨ source = .resync) : Act s (issueInjected s i source form)
  /-- The oldest entry of the event list is issued (R160, R166). -/
  | writeEntry {s : State} {it : EventItem} {rest : List EventItem} (form : MemForm) (room : injectedRoom s = true)
      (slot : writerOutstanding s < Config.writerSlots) (h : s.ev.list = it :: rest) :
      Act s (issueInjected (s.modEv fun e => { e with list := rest, entriesNext := false }) .writer
        (.writer (.entry it.current)) form)
  /-- A line of a write-out is issued (R166). -/
  | writeLine {s : State} (form : MemForm) (room : injectedRoom s = true)
      (slot : writerOutstanding s < Config.writerSlots) : Act s (issueInjected s .writer (.writer .writeOut) form)
  /-- Memory answers a request that is no entry of the current ring (R136). -/
  | answer {s : State} {r : MemRequest} {rest : List MemRequest} (h : s.mem.outstanding = r :: rest)
      (g : r.source ≠ .writer (.entry true)) : Act s (s.modMem fun m => { m with outstanding := rest })
  /-- Memory answers an entry of the current ring (R160). -/
  | advance {s : State} {r : MemRequest} {rest : List MemRequest} (h : s.mem.outstanding = r :: rest)
      (g : r.source = .writer (.entry true)) : Act s (advanceWrite (s.modMem fun m => { m with outstanding := rest }))
  /-- A new ring is installed (R162). -/
  | install {s : State} {base count : Nat} (h : addressValid base = true) (g : entryCountValid count = true)
      (apart : ringOverlaps s base (base + 32 * count) = false) : Act s (installRing s base count)
  /-- The release index moves (R152). -/
  | releaseTo {s : State} {new : Nat} (h : releaseValid s.ev new = true) : Act s (setRelease s new)
  /-- With nothing unreleased an event is released as it is produced (R152). -/
  | produceReleased {s : State} (p : Params) (ev : Event) (h : s.ev.release = s.ev.produce) :
      Act s (s.modEv (produceReleased p ev))
  /-- A write-out starts (R153). -/
  | writeOut {s : State} {w : WriteOut}
      (h : writeOutOverlaps s w.dest (w.dest + writeOutBytes w.isSnapshot) = false) :
      Act s (s.modCmd fun c => { c with writeOut := some w })
  /-- With nothing to replay the sequence numbers start afresh (R58). -/
  | renumber {s : State} (h : s.tx.replay = []) : Act s (s.modTx fun t => { t with next := 1, highest := 0 })

/-- A chain of acts. -/
abbrev Acts : State → State → Prop := Relation.ReflTransGen Act

/-- What every act keeps, a chain of acts keeps. -/
theorem Acts.keeps {P : State → Prop} (step : ∀ {s t : State}, Act s t → P s → P t) {s t : State} (h : Acts s t)
    (p : P s) : P t := by
  induction h with
  | refl => exact p
  | tail _ a ih => exact step a ih

theorem Acts.refl (s : State) : Acts s s := Relation.ReflTransGen.refl

theorem Acts.then {s t u : State} (h : Acts s t) (a : Act t u) : Acts s u := Relation.ReflTransGen.tail h a

theorem Acts.of_eq {s t u : State} (h : Acts s t) (g : u = t) : Acts s u := g ▸ h

theorem Acts.ite {s t u : State} {p : Prop} [Decidable p] (h : p → Acts s t) (g : ¬p → Acts s u) :
    Acts s (if p then t else u) := by
  split
  · exact h ‹_›
  · exact g ‹_›

/-- A chain of acts repeated over a list. -/
theorem Acts.foldl {α : Type} {f : State → α → State} {s : State} (step : ∀ {t : State} (a : α), Acts s t → Acts s (f t a)) :
    ∀ (l : List α) {t : State}, Acts s t → Acts s (l.foldl f t)
  | [], _, h => h
  | a :: l, _, h => Acts.foldl step l (step a h)

end Sys2Proof.Machine
end

section
/-! PROOFS. The operations that the meanings share, the Apply Engine and the Resync Engine, as chains of acts. -/

namespace Sys2Proof.Machine

/-! ## Mild changes of one block -/

theorem HoldEnds.responses {m m' : MemPath} {p : Prop} (h : HoldEnds m m' p) : m'.responses = m.responses := by
  by_cases g : p
  · rw [h.1 g]
  · rw [h.2 g]

theorem HoldEnds.outstanding {m m' : MemPath} {p : Prop} (h : HoldEnds m m' p) : m'.outstanding = m.outstanding := by
  by_cases g : p
  · rw [h.1 g]
  · rw [h.2 g]

section
variable {s t u : State} (h : Acts s t)
include h

theorem acts_mild (m : Mild t u) : Acts s u := h.then (.mild m)

theorem acts_still (f : SameBut [.resetN, .params, .rx, .stats, .out, .freeCount] t u) : Acts s u :=
  acts_mild h (.of_frame f)

theorem acts_mem (f : SameBut [.mem, .stats, .out] t u) (responses : u.mem.responses.length ≤ t.mem.responses.length)
    (outstanding : u.mem.outstanding = t.mem.outstanding) : Acts s u :=
  acts_mild h (.of_frame f (mem := fun _ => ⟨.inl responses, by rw [outstanding]⟩))

theorem acts_holdEnds {p : Prop} (f : SameBut [.mem] t u) (g : HoldEnds t.mem u.mem p) : Acts s u :=
  acts_mem h (f.mono rfl) (le_of_eq (by rw [g.responses])) g.outstanding

theorem acts_tx (f : SameBut [.tx, .rx, .session] t u) (state : u.session.state = t.session.state)
    (replay : u.tx.replay = t.tx.replay) (next : u.tx.next = t.tx.next) (highest : u.tx.highest = t.tx.highest) :
    Acts s u :=
  acts_mild h (.of_frame f (session := fun _ => state) (tx := fun _ => ⟨replay, next, highest⟩))

theorem acts_modSession {f : Session → Session} (state : (f t.session).state = t.session.state) :
    Acts s (t.modSession f) :=
  acts_mild h (.of_frame (modSession_frame t f) (session := fun _ => state))

theorem acts_modCapture {f : Capture → Capture} (sync : (f t.capture).sync = t.capture.sync)
    (async : (f t.capture).async = t.capture.async) : Acts s (t.modCapture f) :=
  acts_mild h (.of_frame (modCapture_frame t f) (capture := fun _ => ⟨sync, async⟩))

theorem acts_modTx {f : Transmitter → Transmitter} (replay : (f t.tx).replay = t.tx.replay)
    (next : (f t.tx).next = t.tx.next) (highest : (f t.tx).highest = t.tx.highest) : Acts s (t.modTx f) :=
  acts_tx h ((modTx_frame t f).mono rfl) rfl replay next highest

theorem acts_modRx {f : Receiver → Receiver} : Acts s (t.modRx f) := acts_still h ((modRx_frame t f).mono rfl)

theorem acts_modApply {f : ApplyEngine → ApplyEngine}
    (length : (f t.apply).queue.length ≤ t.apply.queue.length ∨ (f t.apply).queue.length ≤ Config.applySlots) :
    Acts s (t.modApply f) :=
  acts_mild h (.of_frame (modApply_frame t f) (apply := fun _ => length))

theorem acts_modResync {f : Resync → Resync} (m : ResyncMoves t.resync (f t.resync)) : Acts s (t.modResync f) :=
  acts_mild h (.of_frame (modResync_frame t f) (resync := fun _ => m))

theorem acts_modFences {f : List Fence → List Fence}
    (length : (f t.fences).length ≤ t.fences.length ∨
      (t.session.state = .up ∧ (f t.fences).length ≤ Config.fenceSlots)) : Acts s (t.modFences f) :=
  acts_mild h (.of_frame (modFences_frame t f) (fences := fun _ => length))

theorem acts_modMem {f : MemPath → MemPath}
    (responses : (f t.mem).responses.length ≤ t.mem.responses.length ∨
      (f t.mem).responses.length ≤ Config.portSlots)
    (injected : (f t.mem).outstanding.filter MemRequest.injected = t.mem.outstanding.filter MemRequest.injected) :
    Acts s (t.modMem f) :=
  acts_mild h (.of_frame (modMem_frame t f) (mem := fun _ => ⟨responses, injected⟩))

theorem acts_modCmd {f : CommandUnit → CommandUnit}
    (lines : (f t.cmd).queue.length ≤ t.cmd.queue.length ∨ (f t.cmd).queue.length ≤ Config.commandSlots)
    (writeOut : (f t.cmd).writeOut = none ∨ (f t.cmd).writeOut = t.cmd.writeOut) : Acts s (t.modCmd f) :=
  acts_mild h (.of_frame (modCmd_frame t f) (lines := fun _ => ⟨lines, fun w g => by
    obtain none | same := writeOut
    · exact absurd ((none.symm.trans g : _ = some w)) (by simp)
    · exact ⟨w, same.symm.trans g, rfl, rfl⟩⟩))

theorem acts_modEv {f : EventWriter → EventWriter} (ring : SameRing t.ev (f t.ev)) : Acts s (t.modEv f) :=
  acts_mild h (.of_frame (modEv_frame t f) (ring := fun _ => ring))

/-! ## Statistics, events, entries, holds -/

theorem acts_countBy {c n} : Acts s (countBy t c n) := acts_still h ((countBy_frame t c n).mono rfl)

theorem acts_count {c} : Acts s (count t c) := acts_countBy h

theorem acts_emit {ev} : Acts s (emit t ev) := h.then (.emit t ev)

theorem acts_done {r tag code e} : Acts s (done t r tag code e) := acts_emit h

theorem acts_foldl_emit {α : Type} {f : α → Event} {l : List α} : Acts s (l.foldl (fun t x => emit t (f x)) t) :=
  Acts.foldl (fun _ g => acts_emit g) l h

theorem acts_setEntry {e : RegionIx} {en : Entry} (m : EntryMoves (t.session.state = .up) (t.entry e) en) :
    Acts s (setEntry t e en) := by
  refine acts_mild h (.of_frame (setEntry_frame t e en) (entries := fun _ i => ?_))
  rw [entry_setEntry]
  split
  · subst_vars
    exact m
  · exact .refl ..

/-- New marks on an entry that may have marks. -/
theorem acts_setDirty {e : RegionIx} {l : List Nat} (m : markable (t.entry e).state = true) :
    Acts s (setEntry t e { t.entry e with dirty := l }) :=
  acts_setEntry h (.inr { Reshaped.refl _ (t.entry e) with dirty := .inl m })

theorem acts_mark {e k} : Acts s (mark t e k) := by
  unfold mark
  split
  case isTrue m => exact acts_count (acts_setDirty h (by simp_all))
  case isFalse => exact h

theorem acts_markAddr {e a} : Acts s (markAddr t e a) := acts_mark h

theorem acts_markAll {e} (m : markable (t.entry e).state = true) : Acts s (markAll t e) :=
  acts_countBy (acts_setDirty h m)

theorem acts_reach {x} : Acts s (reach t x) := by
  unfold reach
  split
  · exact acts_modEv h ⟨rfl, rfl, rfl, rfl, rfl, rfl, rfl⟩
  · exact h

theorem acts_endHold : Acts s (endHold t) := acts_mem h ((endHold_frame t).mono rfl) le_rfl rfl

theorem acts_endHoldOf {r} : Acts s (endHoldOf t r) := acts_holdEnds h (endHoldOf_frame t r) (holdEnds_endHoldOf t r)

theorem acts_leftMirrored {e} : Acts s (leftMirrored t e) :=
  acts_holdEnds h (leftMirrored_frame t e) (holdEnds_leftMirrored t e)

theorem acts_slotFreed {q} : Acts s (slotFreed t q) := acts_holdEnds h (slotFreed_frame t q) (holdEnds_slotFreed t q)

/-! ## Fences and claims -/

theorem acts_completeFences {p o c r} : Acts s (completeFences t p o c r) :=
  acts_foldl_emit (acts_modFences h (.inl (List.length_filter_le _ _)))

theorem acts_failFences {e c} : Acts s (failFences t e c) := acts_completeFences h

theorem acts_failAllFences : Acts s (failAllFences t) := acts_completeFences h

theorem acts_fenceTest : Acts s (fenceTest t) := Acts.ite (fun _ => acts_completeFences h) fun _ => h

theorem acts_leaveScopes {e} : Acts s (leaveScopes t e) := acts_modFences h (.inl (le_of_eq (List.length_map ..)))

theorem acts_switchEnded {e cap} : Acts s (switchEnded t e cap) :=
  acts_fenceTest (acts_modFences h (.inl (le_of_eq (List.length_map ..))))

theorem acts_switchAbandoned {e} : Acts s (switchAbandoned t e) := acts_failFences h

theorem acts_claimLagging {e c f} : Acts s (claimLagging t e c f) := by
  unfold claimLagging
  split
  case isTrue m =>
    refine acts_leftMirrored (acts_failFences (acts_emit (acts_setEntry h (.inr ?_))))
    exact { Reshaped.refl (t.session.state = .up) (t.entry e) with
      role := by simp [m, roleOf], dirty := .inl rfl, mirrored := fun g => by cases g }
  case isFalse => exact h

theorem acts_sweep : Acts s (sweep t) := Acts.foldl (fun _ g => acts_claimLagging g) _ h

/-! ## Control frames -/

theorem acts_generate {b} : Acts s (generate t b) := acts_tx h ((generate_frame t b).mono rfl) rfl rfl rfl rfl

theorem acts_generateAck : Acts s (generateAck t) := acts_modRx (acts_generate h)

theorem acts_sendJoin : Acts s (sendJoin t) := acts_tx h ((sendJoin_frame t).mono rfl) rfl rfl rfl rfl

theorem acts_sendAnswer : Acts s (sendAnswer t) := by
  unfold sendAnswer
  split
  · exact acts_generate h
  · exact h

theorem acts_claimLoss {c} : Acts s (claimLoss t c) := acts_tx h ((claimLoss_frame t c).mono rfl) rfl rfl rfl rfl

/-! ## Freeing entries -/

theorem acts_completeClose {e} : Acts s (completeClose t e) := by
  unfold completeClose
  split
  · exact acts_done (acts_modCmd h (.inl le_rfl) (.inr rfl))
  · exact h

theorem acts_freeEntry {e} : Acts s (setEntry t e Entry.zero) := acts_setEntry h (.inl rfl)

theorem acts_freeSource {e} : Acts s (freeSource t e) := acts_leaveScopes (acts_emit (acts_freeEntry h))

theorem acts_drainEntry {e} : Acts s (drainEntry t e) :=
  Acts.ite (fun _ => acts_completeClose (acts_freeSource h)) fun _ => h

theorem acts_resetReport {e} : Acts s (resetReport t e) := acts_modApply h (.inl le_rfl)

theorem acts_releaseEntry {e} : Acts s (releaseEntry t e) := by
  have freed : Acts s (resetReport (setEntry t e Entry.zero) e) := acts_resetReport (acts_freeEntry h)
  exact Acts.ite (fun _ => Acts.ite (fun _ => acts_completeClose (acts_emit freed)) fun _ => freed) fun _ => h

theorem acts_finishRestart : Acts s (finishRestart t) := by
  unfold finishRestart
  split
  · exact Acts.ite (fun _ => acts_emit (acts_modCmd h (.inl le_rfl) (.inr rfl))) fun _ => h
  · exact h

theorem acts_injectedAnswered : Acts s (injectedAnswered t) :=
  acts_finishRestart (acts_modCmd h (.inl le_rfl) (.inr rfl))

/-! ## The Apply Engine -/

theorem acts_setApplyWait {n} : Acts s (setApplyWait t n) :=
  Acts.ite (fun _ => Acts.ite (fun _ => acts_modMem (acts_endHold h) (.inl le_rfl) rfl) fun _ =>
    acts_modMem h (.inl le_rfl) rfl) fun _ => h

theorem acts_ackCompletion {seq} : Acts s (ackCompletion t seq) := by
  unfold ackCompletion
  split
  · exact acts_modRx h
  · exact Acts.ite (fun _ => Acts.ite (fun _ => acts_generateAck (acts_modRx (acts_modRx h))) fun _ =>
      acts_modRx (acts_modRx h)) fun _ => acts_modRx h

theorem acts_deferredCheck : Acts s (deferredCheck t) := by
  unfold deferredCheck
  split
  · dsimp only
    split
    · exact Acts.ite (fun _ => acts_modRx (acts_generate (acts_modRx h))) fun _ => acts_modRx h
    · exact acts_modRx h
  · exact h

theorem acts_receiverStep {seq} : Acts s (receiverStep t seq) :=
  acts_deferredCheck (acts_modRx (acts_ackCompletion h))

theorem acts_releaseTarget {en} : Acts s (releaseTarget t en) := by
  unfold releaseTarget
  split
  · exact acts_releaseEntry h
  · exact h

theorem acts_noteStep {en} : Acts s (noteStep t en) := by
  unfold noteStep
  split
  · exact acts_emit h
  · exact h
  · exact h

theorem acts_appliedStep {en} : Acts s (appliedStep t en) := by
  unfold appliedStep
  refine acts_modApply ?_ (.inl le_rfl)
  split
  · exact h
  · exact Acts.ite (fun _ => h) fun _ => acts_count h
  · exact Acts.ite (fun _ => h) fun _ => acts_count h

theorem acts_completeRecord {en} : Acts s (completeRecord t en) :=
  acts_releaseTarget (acts_receiverStep (acts_appliedStep (acts_noteStep h)))

theorem acts_completeOldest : Acts s (completeOldest t) := by
  unfold completeOldest
  split
  · exact h
  next en rest queue =>
    have left : Acts s (setApplyWait (t.modApply fun a => { a with queue := rest }) (t.mem.applyWait - 1)) :=
      acts_setApplyWait (acts_modApply h (.inl (by simp [queue])))
    exact Acts.ite (fun _ => acts_completeRecord left) fun _ =>
      Acts.ite (fun _ => acts_releaseTarget (acts_modApply left (.inl le_rfl))) fun _ => left

end

theorem acts_completePassive {s : State} : ∀ (n : Nat) {t : State}, Acts s t → Acts s (completePassive n t)
  | 0, _, h => h
  | n + 1, t, h => by
    unfold completePassive
    split
    · exact h
    · exact Acts.ite (fun _ => acts_completePassive n (acts_completeOldest h)) fun _ => h

section
variable {s t u : State} (h : Acts s t)
include h

theorem acts_settle : Acts s (settle t) := acts_completePassive _ h

theorem acts_claimFailed {e} : Acts s (claimFailed t e) := by
  unfold claimFailed
  split
  case isTrue m =>
    refine acts_emit (acts_setEntry h (.inr ?_))
    exact { Reshaped.refl (t.session.state = .up) (t.entry e) with
      role := by simp [m, roleOf], dirty := .inr (.inr ⟨by simp [m, markable], rfl⟩), mirrored := fun g => by cases g }
  case isFalse => exact h

theorem acts_applyErrorOf {en} : Acts s (applyErrorOf t en) := by
  unfold applyErrorOf
  split
  next e addr _ _ kind _ _ =>
    have failed : Acts s (claimFailed t e) := acts_claimFailed h
    have reported := acts_emit (ev := .applyError e en.seq kind addr) (acts_modApply (f := fun a => { a with headError := true })
      failed (.inl le_rfl))
    exact Acts.ite (fun _ => failed) fun _ => Acts.ite (fun _ => acts_generate reported) fun _ => reported
  · exact h

theorem acts_applyResponse {st} : Acts s (applyResponse t st) := by
  unfold applyResponse
  split
  · exact h
  · dsimp only
    split
    · exact acts_settle (acts_completeOldest h)
    · exact acts_settle (acts_completeOldest (acts_applyErrorOf h))

theorem acts_acceptRecord {es rj} (room : es.length ≤ freeEntries t) (some : 0 < es.length) :
    Acts s (acceptRecord t es rj) := by
  have joined : Acts s (t.modApply fun a => { a with queue := a.queue ++ es }) :=
    acts_modApply h (.inr (by simp only [freeEntries] at room; simp only [List.length_append]; omega))
  unfold acceptRecord
  dsimp only
  refine acts_settle (acts_modRx ?_)
  split
  · exact acts_generate joined
  · exact joined

end

theorem length_recordEntries_pos (s : State) (seq : BitVec 32) (rec : Inbound) :
    0 < (recordEntries s seq rec).1.length := by
  unfold recordEntries
  split
  · split <;> exact Nat.one_pos
  · split
    · simp [length_blockEntries]
    · exact Nat.one_pos
  · exact Nat.one_pos

section
variable {s t u : State} (h : Acts s t)
include h

theorem acts_receiveRecord {seq rec} : Acts s (receiveRecord t seq rec) := by
  refine Acts.ite (fun _ => ?inOrder) fun _ => Acts.ite (fun _ => acts_generateAck (acts_count h)) fun _ =>
    Acts.ite (fun _ => ?gap) fun _ => h
  case inOrder =>
    exact Acts.ite (fun room => acts_acceptRecord h room (length_recordEntries_pos ..)) fun _ => acts_modRx h
  case gap => exact Acts.ite (fun _ => acts_count (acts_modRx (acts_generate h))) fun _ => h

theorem acts_restartApply : Acts s (restartApply t) := by
  refine acts_setApplyWait (acts_modApply h (.inl ?_))
  show (keepIssued t.apply.queue).length ≤ _
  induction t.apply.queue with
  | nil => exact le_rfl
  | cons en rest ih =>
    unfold keepIssued
    split <;> simp only [List.length_cons] <;> omega

/-! ## The Resync Engine -/

theorem acts_tryStart : Acts s (tryStart t) := by
  unfold tryStart
  split
  next sg b segment free =>
    have none : (t.resync.buffers)[b] = none := by
      simpa using List.find?_some free
    exact Acts.ite (fun ⟨waiting, room⟩ => h.then (.start waiting none room)) fun _ => h
  · exact h

theorem acts_convergenceMark {e} : Acts s (convergenceMark t e) := Acts.ite (fun _ => acts_mark h) fun _ => h

theorem acts_clearTaken {e k} (up : t.session.state = .up) (lagging : (t.entry e).state = .lagging) :
    Acts s (clearTaken t e k) := by
  refine Acts.ite (fun _ => acts_emit (acts_setEntry h (.inr ?_))) fun _ => acts_setEntry h (.inr ?_)
  · exact ⟨rfl, rfl, rfl, rfl, by simp [lagging, roleOf], .inl (by simp [lagging, roleOf]), .inl rfl, fun _ => .inr up⟩
  · exact ⟨rfl, rfl, rfl, rfl, rfl, .inl (by simp [lagging, roleOf]), .inl (by simp [lagging, markable]),
      fun _ => .inr up⟩

theorem acts_beginSegment {e k} (idle : t.resync.block = .idle) : Acts s (beginSegment t e k) :=
  acts_modResync h ⟨fun _ => .rfl, rfl, by simp [idle], fun g => by cases g⟩

end

/-- A turn finds a LAGGING region (R83). -/
theorem state_of_eligible {s : State} {e : RegionIx} (h : eligible? s = some e) : (s.entry e).state = .lagging := by
  simpa using List.find?_some h

section
variable {s t u : State} (h : Acts s t)
include h

theorem acts_resyncTurnOf : Acts s (resyncTurnOf t) := by
  refine Acts.ite (fun ⟨up, _, idle⟩ => ?_) fun _ => h
  split
  next e found =>
    have frame := convergenceMark_frame t e
    have marked : Acts s (convergenceMark t e) := acts_convergenceMark h
    have lagging : ((convergenceMark t e).entry e).state = .lagging := by
      unfold convergenceMark
      split
      · rw [(entry_mark _ _ _ _).1]
        exact state_of_eligible found
      · exact state_of_eligible found
    dsimp only
    split
    · refine acts_tryStart (acts_beginSegment (acts_clearTaken marked ?_ lagging) ?_)
      · rw [frame.session (by decide), up]
      · rw [(clearTaken_frame _ _ _).resync (by decide), frame.resync (by decide), idle]
    · exact marked
  · exact h

theorem acts_releaseBlock : Acts s (releaseBlock t) := h.then (.release t)

/-- The segment in progress becomes absent. -/
theorem acts_noSegment : Acts s (t.modResync fun r => { r with segment := none }) :=
  acts_modResync h ⟨fun _ => .rfl, rfl, .rfl, fun g => ⟨g, fun _ => rfl⟩⟩

theorem acts_dropSegment {sg} : Acts s (dropSegment t sg) :=
  Acts.ite (fun _ => acts_switchAbandoned (acts_noSegment h)) fun _ => acts_noSegment h

theorem acts_abandonSegment {m} : Acts s (abandonSegment t m) := by
  unfold abandonSegment
  split
  · exact acts_dropSegment (Acts.ite (fun _ => acts_mark (acts_releaseBlock h)) fun _ => acts_releaseBlock h)
  · exact h

theorem acts_releaseDiscarding : Acts s (releaseDiscarding t) := Acts.ite (fun _ => acts_releaseBlock h) fun _ => h

theorem acts_resyncLeavesUp : Acts s (resyncLeavesUp t) := acts_releaseDiscarding (acts_abandonSegment h)

theorem acts_endDiscarding : Acts s (endDiscarding t) := Acts.ite (fun _ => acts_releaseBlock h) fun _ => h

end

/-- The end of a hold and a change of the Resync Engine come in either order. -/
theorem endHoldOf_modResync (s : State) (f : Resync → Resync) (r : HoldReason) :
    endHoldOf (s.modResync f) r = (endHoldOf s r).modResync f := by
  unfold endHoldOf
  split <;> (split <;> first | rfl | (rename_i h g; exact absurd h g) | (rename_i h g; exact absurd g h))

section
variable {s t u : State} (h : Acts s t)
include h

theorem acts_closeSegment {e} : Acts s (closeSegment t e) := by
  unfold closeSegment
  split
  next sg segment =>
    have ended := acts_endHoldOf (r := .blockRead) h
    have abandoned := ended.then
      (.abandon (s := endHoldOf t .blockRead) (by rw [(endHoldOf_frame t .blockRead).resync (by decide), segment]))
    refine Acts.ite (fun _ => acts_endDiscarding ?_) fun _ => h
    rw [endHoldOf_modResync]
    exact Acts.ite (fun _ => acts_switchAbandoned abandoned) fun _ => abandoned
  · exact h

/-- The error-reported flags of an entry change (R91). -/
theorem acts_setReported {e : RegionIx} {l : List Nat} :
    Acts s (setEntry t e { t.entry e with errorReported := l }) :=
  have same := Reshaped.refl (t.session.state = .up) (t.entry e)
  acts_setEntry h (.inr ⟨rfl, rfl, rfl, rfl, rfl, .inr rfl, same.dirty, .inl⟩)

theorem acts_endSegment {sg cap} : Acts s (endSegment t sg cap) := by
  have ended : Acts s ((setEntry t sg.region { t.entry sg.region with
      errorReported := (t.entry sg.region).errorReported.filter (· ≠ sg.index) }).modResync fun r =>
        { r with segment := none }) :=
    acts_noSegment (acts_setReported h)
  exact acts_resyncTurnOf (Acts.ite (fun _ => acts_switchEnded ended) fun _ => ended)

theorem acts_finishBlock {sg b q} (segment : t.resync.segment = some sg) (reserved : t.resync.reserved = some (b, q)) :
    Acts s (finishBlock t sg b q) := by
  have finished (more : Bool) := acts_endHoldOf (r := .blockRead)
    (h.then (.finish (sg' := { sg with nextBlock := sg.nextBlock + 1 }) (e := sg.region)
      (peer := (t.entry sg.region).peer) (n := sg.nextBlock) more segment reserved))
  exact Acts.ite (fun _ => acts_tryStart (finished _)) fun _ => acts_endSegment (finished _)

theorem acts_goodRead {d} : Acts s (goodRead t d) := by
  unfold goodRead
  split
  next sg b q segment reserved =>
    have filled : Acts s (t.modResync fun r =>
        { r with buffers := setAt r.buffers b ((r.buffers[b]).map fun d' => setBlockLine d' r.taken d)
                 taken := r.taken + 1 }) := by
      refine acts_modResync h ⟨fun i => ?_, rfl, .rfl, fun g => ⟨g, id⟩⟩
      rw [getElem_setAt]
      split
      · subst_vars
        exact Option.map_eq_none_iff
      · exact .rfl
    exact Acts.ite (fun _ => acts_finishBlock filled segment reserved) fun _ => filled
  · exact h

theorem acts_reportReadError {sg l} : Acts s (reportReadError t sg l) :=
  Acts.ite (fun _ => h) fun _ =>
    acts_emit (acts_setReported h)

/-- A response to a read has been taken. -/
theorem acts_taken : Acts s (t.modResync fun r => { r with taken := r.taken + 1 }) :=
  acts_modResync h ⟨fun _ => .rfl, rfl, .rfl, fun g => ⟨g, id⟩⟩

theorem acts_badRead : Acts s (badRead t) := by
  unfold badRead
  split
  · exact acts_resyncTurnOf (acts_dropSegment (acts_reportReadError (acts_mark (acts_releaseBlock (acts_taken h)))))
  · exact h

theorem acts_resyncResponse {st d} : Acts s (resyncResponse t st d) := by
  refine Acts.ite (fun _ => acts_modResync h ⟨fun _ => .rfl, rfl, .rfl, fun g => ⟨g, id⟩⟩) fun _ => ?_
  split
  · split
    · exact acts_goodRead h
    · exact acts_badRead h
  · exact Acts.ite (fun _ => acts_resyncTurnOf (acts_endDiscarding (acts_taken h))) fun _ => acts_taken h
  · exact h
  · exact h

end

end Sys2Proof.Machine
end

section
/-! PROOFS. Records that leave the part, the Memory Path, the link and the commands, as chains of acts. -/

namespace Sys2Proof.Machine

/-! ## The block buffers of records that go -/

/-- The Resync Engine with the buffer of a record freed. -/
def Resync.without (r : Record) (x : Resync) : Resync :=
  match r.buffer with
  | some b => { x with buffers := setAt x.buffers b none }
  | none => x

theorem freeRecordBuffer_eq (s : State) (r : Record) : freeRecordBuffer s r = s.modResync (Resync.without r) := by
  unfold freeRecordBuffer Resync.without State.modResync
  cases r.buffer <;> rfl

theorem buffers_freeRecordBuffer (s : State) (r : Record) (b : Fin 4) :
    ((freeRecordBuffer s r).resync.buffers)[b] = if r.buffer = some b then none else (s.resync.buffers)[b] := by
  rw [freeRecordBuffer_eq, State.modResync_resync]
  unfold Resync.without
  split
  next c held =>
    rw [held, getElem_setAt]
    by_cases same : b = c
    · rw [if_pos same, if_pos (congrArg some same.symm)]
    · rw [if_neg same, if_neg fun g => same (Option.some.inj g).symm]
  next held => rw [if_neg (by simp [held])]

theorem buffers_foldl_freeRecordBuffer (b : Fin 4) : ∀ (l : List Record) (s : State),
    ((l.foldl freeRecordBuffer s).resync.buffers)[b] =
      if ∃ r ∈ l, r.buffer = some b then none else (s.resync.buffers)[b]
  | [], s => by simp
  | r :: l, s => by
    rw [List.foldl_cons, buffers_foldl_freeRecordBuffer b l, buffers_freeRecordBuffer]
    by_cases here : r.buffer = some b <;> by_cases later : ∃ r ∈ l, r.buffer = some b <;> simp [here, later]

theorem foldl_freeRecordBuffer_frame (l : List Record) (s : State) :
    SameBut [.resync] s (l.foldl freeRecordBuffer s) := .foldl freeRecordBuffer_frame l s

/-! Changes of other blocks come before or after the freeing of a buffer. -/

theorem slotFreed_freeRecordBuffer (s : State) (q : QueueClass) (r : Record) :
    freeRecordBuffer (slotFreed s q) r = slotFreed (freeRecordBuffer s r) q := by
  rw [freeRecordBuffer_eq, freeRecordBuffer_eq]
  cases q
  · exact (endHoldOf_modResync s _ .syncFull).symm
  · rfl

theorem mark_modResync (s : State) (f : Resync → Resync) (e : RegionIx) (k : Nat) :
    mark (s.modResync f) e k = (mark s e k).modResync f := by
  have same : (s.modResync f).entry e = s.entry e := rfl
  unfold mark
  rw [same]
  split <;> rfl

theorem markRecord_freeRecordBuffer (s : State) (r r' : Record) :
    freeRecordBuffer (markRecord s r') r = markRecord (freeRecordBuffer s r) r' := by
  rw [freeRecordBuffer_eq, freeRecordBuffer_eq]
  have same e : (s.modResync (Resync.without r)).entry e = s.entry e := rfl
  unfold markRecord
  split
  · rw [same]
    split
    · exact (mark_modResync ..).symm
    · rfl
  · rw [same]
    split
    · exact (mark_modResync ..).symm
    · rfl
  · rfl

theorem emit_modResync (s : State) (f : Resync → Resync) (ev : Event) :
    emit (s.modResync f) ev = (emit s ev).modResync f := by
  have same : (s.modResync f).ev = s.ev := rfl
  unfold emit
  rw [same]
  split <;> rfl

theorem foldl_freeRecordBuffer_emit (ev : Event) : ∀ (l : List Record) (s : State),
    l.foldl freeRecordBuffer (emit s ev) = emit (l.foldl freeRecordBuffer s) ev
  | [], _ => rfl
  | r :: l, s => by
    rw [List.foldl_cons, List.foldl_cons, freeRecordBuffer_eq, freeRecordBuffer_eq, ← emit_modResync,
      foldl_freeRecordBuffer_emit ev l]

/-! ## Records that go -/

def otherQueue : QueueClass → QueueClass
  | .sync => .async
  | .async => .sync

/-- The held records with one queue taken out of the order in which they are listed. -/
theorem heldRecords_perm (s : State) (q : QueueClass) : (heldRecords s).Perm (s.capture.queueOf q ++
    (s.capture.queueOf (otherQueue q) ++ s.tx.replay.map Replayed.record)) := by
  cases q
  · exact .of_eq (List.append_assoc ..)
  · exact (List.perm_append_comm.append_right _).trans (.of_eq (List.append_assoc ..))

theorem queueOf_setQueue (c : Capture) (q q' : QueueClass) (rs : List Record) :
    (c.setQueue q rs).queueOf q' = if q' = q then rs else c.queueOf q' := by
  cases q <;> cases q' <;> rfl

theorem queueOf_other_setQueue (c : Capture) (q : QueueClass) (rs : List Record) :
    (c.setQueue q rs).queueOf (otherQueue q) = c.queueOf (otherQueue q) := by
  cases q <;> rfl

/-- A list of records leaves, whose buffers are freed one after another. -/
theorem Drops.of_foldl {s t : State} {gone : List Record} (held : (heldRecords s).Perm (gone ++ heldRecords t))
    (sync : t.capture.sync.Sublist s.capture.sync) (async : t.capture.async.Sublist s.capture.async)
    (replay : t.tx.replay <:+ s.tx.replay) (next : t.tx.next = s.tx.next) (highest : t.tx.highest = s.tx.highest)
    (frame : SameBut [.capture, .tx] s t) : Drops s (gone.foldl freeRecordBuffer t) gone := by
  have freed := foldl_freeRecordBuffer_frame gone t
  have same : t.resync = s.resync := frame.resync (by decide)
  have records : heldRecords (gone.foldl freeRecordBuffer t) = heldRecords t := by
    rw [heldRecords, heldRecords, freed.capture (by decide), freed.tx (by decide)]
  refine ⟨records ▸ held, ?_, ?_, ?_, ?_, ?_, ?_, fun b => ?_, (frame.mono rfl).then freed rfl⟩
  · rwa [freed.capture (by decide)]
  · rwa [freed.capture (by decide)]
  · rwa [freed.tx (by decide)]
  · rwa [freed.tx (by decide)]
  · rwa [freed.tx (by decide)]
  · rw [resync_foldl_freeRecordBuffer, same]
  · rw [buffers_foldl_freeRecordBuffer, same]
    split
    · exact iff_of_true rfl (.inr ‹_›)
    · simp_all

theorem drops_head {s : State} {q : QueueClass} {r : Record} {rest : List Record} (h : s.capture.queueOf q = r :: rest) :
    Drops s (freeRecordBuffer (s.modCapture fun c => c.setQueue q (c.queueOf q).tail) r) [r] := by
  refine Drops.of_foldl (gone := [r]) ?_ ?_ ?_ List.suffix_rfl rfl rfl ((modCapture_frame s _).mono rfl)
  · cases q
    · have h : s.capture.sync = r :: rest := h
      simp [heldRecords, Capture.setQueue, Capture.queueOf, h]
    · have h : s.capture.async = r :: rest := h
      simp only [heldRecords, State.modCapture_capture, State.modCapture_tx, Capture.setQueue, Capture.queueOf, h,
        List.tail_cons, List.append_assoc, List.cons_append, List.nil_append]
      exact List.perm_middle
  · cases q
    · exact List.tail_sublist _
    · exact .refl _
  · cases q
    · exact .refl _
    · exact List.tail_sublist _

theorem drops_replayed {s : State} {r : Replayed} {rest : List Replayed} (h : s.tx.replay = r :: rest) :
    Drops s (freeRecordBuffer (s.modTx fun t => { t with replay := rest }) r.record) [r.record] := by
  refine Drops.of_foldl (gone := [r.record]) ?_ (.refl _) (.refl _) ?_ rfl rfl ((modTx_frame s _).mono rfl)
  · simp only [heldRecords, State.modTx_capture, State.modTx_tx, h, List.map_cons]
    exact List.perm_middle
  · exact h ▸ List.suffix_cons r rest

/-- The queued records of a region, oldest first. -/
abbrev queuedOf (s : State) (e : RegionIx) : List Record :=
  (s.capture.sync ++ s.capture.async).filter fun r => r.region == some e

theorem drops_region (s : State) (e : RegionIx) :
    Drops s ((queuedOf s e).foldl freeRecordBuffer (s.modCapture fun c => { c with
      sync := c.sync.filter fun r => !(r.region == some e)
      async := c.async.filter fun r => !(r.region == some e) })) (queuedOf s e) := by
  refine Drops.of_foldl ?_ List.filter_sublist List.filter_sublist List.suffix_rfl rfl rfl
    ((modCapture_frame s _).mono rfl)
  simp only [heldRecords, State.modCapture_capture, State.modCapture_tx, ← List.append_assoc, ← List.filter_append]
  rw [List.append_assoc (List.filter _ _), ← List.append_assoc]
  exact (List.filter_append_perm (fun r : Record => r.region == some e) _).symm.append_right _

/-- The records of one class in a list of queued records. -/
def queued (q : QueueClass) (rs : List (QueueClass × Record)) : List Record :=
  (rs.filter fun x => x.1 = q).map Prod.snd

/-- The order of conversion keeps the order within each queue. -/
theorem queued_mergeByCap : ∀ (n : Nat) (as bs : List Record), as.length + bs.length < n →
    queued .sync (mergeByCap n as bs) = as ∧ queued .async (mergeByCap n as bs) = bs
  | 0, _, _, h => absurd h (Nat.not_lt_zero _)
  | n + 1, [], bs, _ => by simp [mergeByCap, queued, List.filter_map, Function.comp_def]
  | n + 1, a :: as, [], _ => by simp [mergeByCap, queued, List.filter_map, Function.comp_def]
  | n + 1, a :: as, b :: bs, h => by
    simp only [List.length_cons] at h
    unfold mergeByCap
    split
    · have ih := queued_mergeByCap n (a :: as) bs (by simp only [List.length_cons]; omega)
      simp_all [queued]
    · have ih := queued_mergeByCap n as (b :: bs) (by simp only [List.length_cons]; omega)
      simp_all [queued]

section
variable {s t : State} (h : Acts s t)
include h

theorem acts_markRecord {r} : Acts s (markRecord t r) := by
  unfold markRecord
  split
  · exact Acts.ite (fun _ => acts_mark h) fun _ => h
  · exact Acts.ite (fun _ => acts_mark h) fun _ => h
  · exact h

theorem acts_loseNote {r} : Acts s (loseNote t r) := by
  unfold loseNote
  split
  · exact acts_done h
  · exact h
  · exact h

theorem acts_drainRegionOf {r} : Acts s (drainRegionOf t r) := by
  unfold drainRegionOf
  split
  · exact acts_drainEntry h
  · exact h

end

/-- The rest of a conversion, once the record's buffer is freed. -/
theorem acts_convertRecord {s t : State} {l : Bool} {r : Record} (h : Acts s (freeRecordBuffer t r)) :
    Acts s (convertRecord l t r) := by
  have marked : Acts s (freeRecordBuffer (markRecord t r) r) := by
    rw [markRecord_freeRecordBuffer]
    exact acts_markRecord h
  exact Acts.ite (fun _ => acts_drainRegionOf (acts_loseNote marked)) fun _ => marked

theorem acts_convertReplay {s : State} (l : Bool) : ∀ (rs : List Replayed) {t : State}, t.tx.replay = rs → Acts s t →
    Acts s (convertReplay l rs t)
  | [], _, _, h => h
  | r :: rs, t, g, h => by
    refine acts_convertReplay l rs ?_ (acts_convertRecord (h.then (.drop (drops_replayed g))))
    rw [(convertRecord_frame l _ r.record).tx (by decide)]
    rfl

theorem acts_convertQueued {s : State} (l : Bool) : ∀ (rs : List (QueueClass × Record)) {t : State},
    (∀ q, t.capture.queueOf q = queued q rs) → Acts s t → Acts s (convertQueued l rs t)
  | [], _, _, h => h
  | (q, r) :: rs, t, g, h => by
    have head : t.capture.queueOf q = r :: queued q rs := by simpa [queued] using g q
    refine acts_convertQueued l rs (fun q' => ?_) (acts_convertRecord ?_)
    · rw [(convertRecord_frame l _ r).capture (by decide), capture_popQueue, queueOf_setQueue, head, g q']
      by_cases same : q' = q
      · simp [same]
      · simp [queued, same, Ne.symm same]
    · rw [popQueue, slotFreed_freeRecordBuffer]
      exact acts_slotFreed (h.then (.drop (drops_head head)))

section
variable {s t : State} (h : Acts s t)
include h

theorem acts_convertQueues {l} : Acts s (convertQueues l t) := by
  obtain ⟨sync, async⟩ := queued_mergeByCap (t.capture.sync.length + t.capture.async.length + 1) t.capture.sync
    t.capture.async (Nat.lt_succ_self _)
  refine acts_convertQueued l _ (fun q => ?_) h
  cases q
  · exact sync.symm
  · exact async.symm

theorem acts_removeQueued {e} : Acts s (removeQueued t e) :=
  have removed := h.then (.drop (drops_region t e))
  Acts.ite (fun _ => acts_slotFreed removed) fun _ => removed

theorem acts_abandonOf {e} : Acts s (abandonOf t e) := by
  unfold abandonOf
  split
  · exact Acts.ite (fun _ => acts_abandonSegment h) fun _ => h
  · exact h

end

end Sys2Proof.Machine
end

section
/-! PROOFS. Sessions, the Memory Path, the link and the commands as chains of acts, and what a step can do. -/

namespace Sys2Proof.Machine

/-! ## Sessions -/

section
variable {s t : State} (h : Acts s t)
include h

theorem acts_claimRefused {e} : Acts s (claimRefused t e) := by
  refine Acts.ite (fun state => ?_) fun _ => h
  have failed : Acts s (failFences (emit (setEntry t e { t.entry e with state := .refused })
      (.regionState .rejected e .source (t.entry e).state .refused)) e .regionRefused) := by
    refine acts_failFences (acts_emit (acts_setEntry h (.inr ?_)))
    have source : roleOf (t.entry e).state = .source := by obtain m | m := state <;> simp [m, roleOf]
    exact ⟨rfl, rfl, rfl, rfl, source.symm, .inl source, .inl rfl, fun g => by cases g⟩
  refine acts_fenceTest (acts_leftMirrored (acts_abandonOf (acts_removeQueued (acts_markAll failed ?_))))
  rw [(failFences_frame _ e .regionRefused).entry (by decide), entry_emit, entry_setEntry, if_pos rfl]
  rfl

theorem acts_completeDisconnect : Acts s (completeDisconnect t) := by
  unfold completeDisconnect
  split
  · exact acts_done (acts_modSession h rfl)
  · exact h

theorem acts_beginCalling : Acts s (beginCalling t) := Acts.ite (fun _ => acts_sendJoin h) fun _ => h

theorem acts_clearControl : Acts s (clearControl t) := acts_tx h ((clearControl_frame t).mono rfl) rfl rfl rfl rfl

theorem acts_lossTransmitter {c} : Acts s (lossTransmitter t c) := by
  unfold lossTransmitter
  dsimp only
  refine acts_convertReplay true _ rfl (acts_modTx ?_ rfl rfl rfl)
  exact Acts.ite (fun _ => h) fun _ => acts_clearControl h

theorem acts_refuseJoin {j c} : Acts s (refuseJoin t j c) :=
  Acts.ite (fun _ => h) fun _ => acts_emit (acts_modSession h rfl)

theorem acts_joinInCalling {j} : Acts s (joinInCalling t j) := by
  unfold joinInCalling
  split
  · exact acts_refuseJoin h
  · refine acts_tx (acts_sendAnswer (acts_modSession h ?_)) ((startJoinTimer_frame _).mono rfl) rfl rfl rfl rfl
    rfl

end

/-- The session as a loss first leaves it: calling again from UP, DISABLED from CLOSING (R44, R46). -/
def sessionLeft (s : State) : State := if s.session.state = .up then enterCalling s else enterDisabled s

/-- Behind the change of the session state a teardown is a chain of acts. -/
theorem acts_loseSession (s : State) (c : LossCause) (part : BitVec 32) :
    Acts (sessionLeft s) (loseSession s c part) := by
  have left : Acts (sessionLeft s) (lossState s) := by
    unfold sessionLeft lossState
    split
    · exact acts_sweep (.refl _)
    · exact .refl _
  have converted := acts_convertQueues (l := true) (acts_lossTransmitter (c := c) left)
  have told : Acts (sessionLeft s) (lossBody s c part) :=
    acts_completeDisconnect (acts_emit (acts_modRx (acts_failAllFences
      (Acts.ite (fun _ => acts_resyncLeavesUp converted) fun _ => converted))))
  rw [loseSession_eq]
  exact Acts.ite (fun _ => acts_beginCalling told) fun _ => told

/-! ## The Memory Path -/

theorem length_issueNext : ∀ (q q' : List ApplyEntry) (en : ApplyEntry), issueNext q = some (en, q') →
    q'.length = q.length
  | [], _, _, h => by simp [issueNext] at h
  | a :: q, q', en, h => by
    unfold issueNext at h
    split at h
    · obtain ⟨_, rfl⟩ := Prod.mk.inj (Option.some.inj h)
      rfl
    · split at h
      next x rest found =>
        obtain ⟨_, rfl⟩ := Prod.mk.inj (Option.some.inj h)
        simp [length_issueNext q rest _ found]
      · cases h

section
variable {s t : State} (h : Acts s t)
include h

theorem acts_returnReady : Acts s (returnReady t) :=
  acts_mem h ((returnReady_frame t).mono rfl) (List.dropWhile_sublist _).length_le rfl

theorem acts_leaveHead {r} (room : t.mem.responses.length < Config.portSlots) : Acts s (leaveHead t r) :=
  acts_modMem h (.inr (by simpa using room)) rfl

theorem acts_issueHead {req region} (room : t.mem.responses.length < Config.portSlots) :
    Acts s (issueHead t req region) := by
  unfold issueHead
  exact acts_modMem (acts_leaveHead h room) (.inl le_rfl) (by simp [MemRequest.injected])

theorem acts_answerHead {req} (room : t.mem.responses.length < Config.portSlots) : Acts s (answerHead t req) :=
  acts_returnReady (acts_leaveHead h room)

theorem acts_holdHead {r} : Acts s (holdHead t r) := acts_modMem h (.inl le_rfl) rfl

theorem acts_refusalReport {e a} : Acts s (refusalReport t e a) := by
  unfold refusalReport
  dsimp only
  split
  · exact acts_emit (acts_modApply h (.inl le_rfl))
  · exact acts_modApply h (.inl le_rfl)

theorem acts_issueUncaptured {req e a c} (room : t.mem.responses.length < Config.portSlots) :
    Acts s (issueUncaptured t req e a c) := acts_claimLagging (acts_markAddr (acts_issueHead h room))

theorem acts_captureWrite {u : State} {e a m d} (g : captureWrite t e a m d = some u) : Acts s u := by
  unfold captureWrite at g
  dsimp only at g
  split at g
  next v merged =>
    obtain rfl := Option.some.inj g
    refine acts_count (acts_count ?_)
    unfold tryMerge at merged
    dsimp only at merged
    split at merged
    next r last =>
      split at merged
      next r' into =>
        obtain rfl := Option.some.inj merged
        have tail := (List.dropLast_append_getLast? r last).symm
        refine h.then (.merge tail ?_ ?_) <;> revert into <;> unfold mergeInto <;> split <;> intro into
        · rename_i body
          rw [body]
          trivial
        · cases into
        · cases into
        · split at into
          · obtain rfl := Option.some.inj into
            trivial
          · cases into
        · cases into
        · cases into
      · cases merged
    · cases merged
  · split at g
    · obtain rfl := Option.some.inj g
      exact acts_count (h.then (.append ‹_› (by trivial)))
    · cases g

theorem acts_presentMirrored {req e a m d} (room : t.mem.responses.length < Config.portSlots) :
    Acts s (presentMirrored t req e a m d) := by
  refine Acts.ite (fun _ => acts_holdHead h) fun _ => Acts.ite (fun _ => acts_issueUncaptured h room) fun _ => ?_
  split
  next u taken =>
    refine acts_issueHead (acts_captureWrite h taken) ?_
    rwa [(captureWrite_frame _ _ _ _ _ _ taken).mem (by decide)]
  · split
    · exact Acts.ite (fun _ => acts_issueUncaptured (acts_count h) room) fun _ =>
        acts_modMem (acts_holdHead (acts_count h)) (.inl le_rfl) rfl
    · exact acts_issueUncaptured h room

theorem acts_presentControl {req m d} (room : t.mem.responses.length < Config.portSlots) :
    Acts s (presentControl t req m d) := by
  refine Acts.ite (fun _ => Acts.ite (fun _ => acts_holdHead h) fun free => ?_) fun _ =>
    acts_issueHead (acts_count h) room
  exact acts_issueHead (acts_modCmd h (.inr (by simpa using Nat.lt_of_not_le free)) (.inr rfl)) room

theorem acts_presentWrite {req a m d} (room : t.mem.responses.length < Config.portSlots) :
    Acts s (presentWrite t req a m d) := by
  have refused (e) : Acts s (refuseWrite t req e a) := by
    refine acts_answerHead (acts_refusalReport (acts_count h)) ?_
    rwa [(refusalReport_frame _ e a).mem (by decide)]
  unfold presentWrite
  split
  · exact acts_presentControl h room
  · split
    · exact refused _
    · exact refused _
    · exact refused _
    · exact acts_presentMirrored h room
    · exact acts_markAddr (acts_issueHead h room)
    · exact acts_markAddr (acts_issueHead h room)
    · exact acts_issueHead h room
    · exact acts_issueHead h room
  · exact acts_issueHead h room
  · exact acts_issueHead h room

theorem acts_presentRead {req a} (room : t.mem.responses.length < Config.portSlots) :
    Acts s (presentRead t req a) := by
  unfold presentRead
  split
  · exact Acts.ite (fun _ => acts_modMem (acts_holdHead h) (.inl le_rfl) rfl) fun _ => acts_issueHead h room
  · exact acts_issueHead h room
  · exact acts_issueHead h room
  · exact acts_issueHead h room

theorem acts_grantHead {req} (room : t.mem.responses.length < Config.portSlots) : Acts s (grantHead t req) := by
  refine Acts.ite (fun _ => acts_answerHead h room) fun _ => Acts.ite (fun _ => acts_issueHead h room) fun _ => ?_
  unfold present
  split
  · exact acts_presentRead h room
  · exact acts_presentWrite h room

theorem acts_issueApply (room : injectedRoom t = true) : Acts s (issueApply t) := by
  unfold issueApply
  split
  next en q found =>
    split
    · exact (acts_modApply h (.inl (le_of_eq (length_issueNext _ _ _ found)))).then
        (.inject .apply _ room (.inl rfl))
    · exact h
    · exact h
  · exact h

theorem acts_issueResync (room : injectedRoom t = true) : Acts s (issueResync t) := by
  unfold issueResync
  split
  · exact (acts_modResync h ⟨fun _ => .rfl, rfl, .rfl, fun g => ⟨g, id⟩⟩).then (.inject .resync _ room (.inr rfl))
  · exact h

theorem acts_issueWriter (room : injectedRoom t = true) (slot : writerOutstanding t < Config.writerSlots) :
    Acts s (issueWriter t) := by
  have line (lines next form) : Acts s (issueInjected (t.modEv fun e =>
      { e with writeOutLines := lines, entriesNext := next }) .writer (.writer .writeOut) form) :=
    (acts_modEv h ⟨rfl, rfl, rfl, rfl, rfl, rfl, rfl⟩).then (.writeLine form room slot)
  unfold issueWriter
  split
  next list _ => exact h.then (.writeEntry _ room slot list)
  · exact line _ _ _
  next list _ => exact Acts.ite (fun _ => h.then (.writeEntry _ room slot list)) fun _ => line _ _ _
  · exact h

theorem acts_grantInjected {i} (granted : grantedSource t = some i) : Acts s (grantInjected t i) := by
  have waits : injectedWaiting t i = true := by simpa using List.find?_some granted
  have ready : hasRequest t i = true := ((Bool.and_eq_true ..).mp waits).1
  refine Acts.ite (fun room => ?_) fun _ => h
  cases i
  · exact acts_issueApply h room
  · exact acts_issueResync h room
  · exact acts_issueWriter h room (of_decide_eq_true ((Bool.and_eq_true ..).mp ready).2)

theorem acts_arbiterStep : Acts s (arbiterStep t) := by
  have head {req} (waits : waitingHead t = some req) : Acts s (grantHead t req) :=
    acts_grantHead h ((waitingHead_eq_some t req).mp waits).2.1
  unfold arbiterStep
  split
  · exact Acts.ite (fun _ => acts_grantInjected h ‹_›) fun _ => head ‹_›
  · exact acts_grantInjected h ‹_›
  · exact head ‹_›
  · exact h

end

theorem acts_arbiterRounds {s : State} : ∀ (n : Nat) {t : State}, Acts s t → Acts s (arbiterRounds n t)
  | 0, _, h => h
  | n + 1, _, h =>
    Acts.ite (fun _ => acts_arbiterRounds n (acts_arbiterStep h)) fun _ => acts_arbiterStep h

/-- A taken answer is that of the oldest request outstanding. -/
theorem takeAnswer_eq_some {s t : State} {a : MemAnswer} {p : MemSource → Bool} {r : MemRequest}
    (h : takeAnswer s a p = some (r, t)) :
    ∃ rest, s.mem.outstanding = r :: rest ∧ p r.source = true ∧ t = s.modMem fun m => { m with outstanding := rest } := by
  unfold takeAnswer at h
  split at h
  · cases h
  · split at h
    next r' rest oldest =>
      split at h
      · obtain ⟨rfl, rfl⟩ := Prod.mk.inj (Option.some.inj h)
        exact ⟨rest, oldest, ‹_›, rfl⟩
      · cases h
    · cases h

theorem length_answerOldest (st : Status) (d : List Byte) : ∀ rs, (answerOldest st d rs).length = rs.length
  | [] => rfl
  | r :: rs => by
    unfold answerOldest
    split
    · simp [length_answerOldest st d rs]
    · rfl

section
variable {s t : State} (h : Acts s t)
include h

theorem acts_passThroughAnswer {r st d} : Acts s (passThroughAnswer t r st d) := by
  have answered : Acts s (t.modMem fun m => { m with responses := answerOldest st d m.responses }) :=
    acts_modMem h (.inl (le_of_eq (length_answerOldest ..))) rfl
  unfold passThroughAnswer
  refine acts_returnReady ?_
  split
  · exact acts_claimLagging (acts_markAddr answered)
  · exact answered
  · exact answered

theorem acts_completeWriteOut : Acts s (completeWriteOut t) := by
  unfold completeWriteOut
  split
  · exact Acts.ite (fun _ => acts_emit (acts_modCmd h (.inl le_rfl) (.inl rfl))) fun _ => h
  · exact h

theorem acts_writeOutAnswered {st} : Acts s (writeOutAnswered t st) := by
  unfold writeOutAnswered
  split
  next v going =>
    refine acts_completeWriteOut (acts_mild h (.of_frame (modCmd_frame t _) (lines := fun _ => ⟨.inl le_rfl, ?_⟩)))
    rintro w g
    obtain rfl := Option.some.inj g
    exact ⟨v, going, rfl, rfl⟩
  · exact h

/-! ## Commands of the control page -/

theorem acts_popLine : Acts s (popLine t) :=
  acts_endHoldOf (acts_modCmd h (.inl (by simp)) (.inr rfl))

theorem acts_drainAtClose {e} : Acts s (drainAtClose t e) :=
  Acts.ite (fun _ => acts_completeClose (acts_fenceTest (acts_freeSource h))) fun _ => h

theorem acts_setPendingClose {e tag} : Acts s (setPendingClose t e tag) := acts_modCmd h (.inl le_rfl) (.inr rfl)

theorem acts_closeEntry {e tag} : Acts s (closeEntry t e tag) := by
  have source (m : roleOf (t.entry e).state = .source) : Acts s (closeSource t e tag) := by
    refine acts_drainAtClose (acts_closeSegment (acts_leftMirrored (acts_modMem (acts_setPendingClose
      (acts_emit (acts_setEntry h (.inr ?_)))) (.inl (le_of_eq (List.length_map ..))) rfl)))
    exact ⟨rfl, rfl, rfl, rfl, m.symm, .inl m, .inr (.inl rfl), fun g => by cases g⟩
  have target (m : roleOf (t.entry e).state = .target) : Acts s (closeTarget t e tag) := by
    refine acts_releaseEntry (acts_setPendingClose (acts_emit (acts_setEntry h (.inr ?_))))
    refine ⟨rfl, rfl, rfl, rfl, m.symm, .inr rfl, .inr (.inr ⟨?_, rfl⟩), fun g => by cases g⟩
    revert m
    cases (t.entry e).state <;> simp [roleOf, markable]
  unfold closeEntry
  split
  · exact acts_done h
  · exact acts_done h
  · exact acts_done h
  · exact source (by simp [*, roleOf])
  · exact source (by simp [*, roleOf])
  · exact source (by simp [*, roleOf])
  · exact target (by simp [*, roleOf])
  · exact target (by simp [*, roleOf])

theorem acts_takeFence {tag mask} : Acts s (takeFence t tag mask) := by
  have bounded : Acts s (t.modCapture fun c => { c with boundary := c.counter }) := acts_modCapture h rfl rfl
  unfold takeFence
  dsimp only
  split
  · exact acts_emit bounded
  next append =>
    have room : t.fences.length < Config.fenceSlots := by
      by_contra full
      rw [decideFence_of_full t _ (Nat.le_of_not_lt full)] at append
      cases append
    have up : t.session.state = .up := by
      by_contra down
      rw [decideFence_of_not_up room down] at append
      cases append
    exact acts_fenceTest (acts_modFences bounded (.inr ⟨up, by simpa using room⟩))

theorem acts_takeNote {tag payload} : Acts s (takeNote t tag payload) :=
  Acts.ite (fun _ => acts_done h) fun _ => Acts.ite (fun _ => acts_done h) fun free =>
    h.then (.append (Nat.pos_of_ne_zero free) trivial)

theorem acts_takeParameter {tag id v} : Acts s (takeParameter t tag id v) :=
  Acts.ite (fun _ => acts_done (acts_still h ((modParams_frame t _).mono rfl))) fun _ => acts_done h

theorem acts_takeRing {tag base count} : Acts s (takeRing t tag base count) := by
  refine Acts.ite (fun _ => acts_done h) fun valid => Acts.ite (fun _ => acts_done h) fun _ =>
    Acts.ite (fun _ => acts_done h) fun apart => acts_done (h.then (.install ?_ ?_ (by simpa using apart)))
  · simp only [Bool.not_eq_true', Bool.not_eq_false, Bool.and_eq_true] at valid
    exact valid.1.1
  · simp only [Bool.not_eq_true', Bool.not_eq_false, Bool.and_eq_true] at valid
    exact valid.2

theorem acts_releaseTo {tag new} (valid : releaseValid t.ev new = true) : Acts s (releaseTo t tag new) := by
  have moved : Acts s (setRelease t new) := h.then (.releaseTo valid)
  refine Acts.ite (fun _ => acts_emit (acts_emit (acts_modEv moved ⟨rfl, rfl, rfl, rfl, rfl, rfl, rfl⟩))) fun _ =>
    Acts.ite (fun all => moved.then (.produceReleased _ _ ?_)) fun _ => acts_emit moved
  unfold setRelease
  split
  next same => rw [← same, all]
  · rw [State.modEv_ev, attnTest_release, attnTest_produce]
    exact all

/-- The argument checks of an OPEN leave a source's or a target's entry to be installed. -/
theorem acts_openCommand {l code good} {install : RegionIx → State → State}
    (installs : ∀ e, (t.entry e).state = .free → openOverlaps t (openLow l) (openHigh l) = false →
      addressValid (lineAddress l) = true → Acts s (install e t)) : Acts s (openCommand t l code good install) := by
  unfold openCommand
  split
  · exact acts_done h
  · refine Acts.ite (fun args => ?_) fun _ => acts_done h
    have valid : addressValid (lineAddress l) = true := by
      simp only [rangeValid, Bool.and_eq_true] at args
      exact args.2.1.2
    refine Acts.ite (fun _ => acts_done h) fun free => Acts.ite (fun _ => acts_done h) fun apart => acts_done ?_
    exact installs _ (not_not.mp free) (by simpa using apart) valid

theorem acts_writeOutCommand {l code snapshot} {start : State → State}
    (starts : writeOutOverlaps t (lineAddress l) (lineAddress l + writeOutBytes snapshot) = false → Acts s (start t)) :
    Acts s (writeOutCommand t l code snapshot start) :=
  Acts.ite (fun _ => acts_done h) fun _ => Acts.ite (fun _ => acts_done h) fun _ =>
    Acts.ite (fun _ => acts_done h) fun apart => starts (by simpa using apart)

theorem acts_startWriteOut {snapshot tag dest content}
    (apart : writeOutOverlaps t dest (dest + writeOutBytes snapshot) = false) :
    Acts s (startWriteOut t snapshot tag dest content) :=
  acts_modEv (h.then (.writeOut (w := ⟨snapshot, tag, dest, writeOutLineCount snapshot, 0⟩) apart))
    ⟨rfl, rfl, rfl, rfl, rfl, rfl, rfl⟩

theorem acts_clearStats : Acts s (clearStats t) := acts_still h ((modStats_frame t _).mono rfl)

end

/-- The entry that an OPEN installs meets what the checks have passed. -/
theorem opens_of_checks {s : State} {e : RegionIx} {l : Line} {en : Entry} (free : (s.entry e).state = .free)
    (apart : openOverlaps s (openLow l) (openHigh l) = false) (valid : addressValid (lineAddress l) = true)
    (base : en.base = BitVec.ofNat 40 (lineAddress l)) (size : en.sizeExp = (lineByte l 5).toNat)
    (shape : en.state = .lagging ∨ (en.state = .accepting ∧ en.cls = none ∧ en.peer = 0 ∧ en.cursor = 0))
    (clean : en.dirty = []) : Opens s e en := by
  have low : en.base.toNat = openLow l := by
    rw [base, BitVec.toNat_ofNat, Nat.mod_eq_of_lt (by simpa [addressValid] using valid)]
    rfl
  refine ⟨free, shape, clean, ?_⟩
  rw [entryEnd, low, size]
  exact apart

section
variable {s t : State} (h : Acts s t)
include h

theorem acts_openSource {l code good} : Acts s (openCommand t l code good (installSource l)) := by
  refine acts_openCommand h fun e free apart valid => ?_
  have opened := h.then (.opens (opens_of_checks (en := ⟨.lagging, BitVec.ofNat 40 (lineAddress l),
    (lineByte l 5).toNat, classOf (lineByte l 6), (regionIx? (lineByte l 7)).getD 0, 0, [], []⟩)
    free apart valid rfl rfl (.inl rfl) rfl))
  refine acts_emit (acts_markAll opened ?_)
  rw [entry_setEntry, if_pos rfl]
  rfl

theorem acts_openTarget {l code good} : Acts s (openCommand t l code good (installTarget l)) := by
  refine acts_openCommand h fun e free apart valid => ?_
  exact acts_emit (acts_resetReport (h.then (.opens (opens_of_checks (en := ⟨.accepting, BitVec.ofNat 40 (lineAddress l),
    (lineByte l 5).toNat, none, 0, 0, [], []⟩) free apart valid rfl rfl (.inr ⟨rfl, rfl, rfl, rfl⟩) rfl))))

/-! ## The link -/

theorem acts_protocolClaim : Acts s (protocolClaim t) := Acts.ite (fun _ => h) fun _ => acts_claimLoss h

theorem acts_takeRetry {n} : Acts s (takeRetry t n) := by
  have moved (c) : Acts s (t.modTx fun x => { x with cursor := c }) := acts_modTx h rfl rfl rfl
  refine Acts.ite (fun _ => acts_protocolClaim h) fun _ => ?_
  split
  · exact h
  · exact Acts.ite (fun _ => h) fun _ => Acts.ite (fun _ => moved _) fun _ => Acts.ite (fun _ => moved _) fun _ => h

end

/-- The acknowledgments of removed records, once their buffers are freed. -/
theorem acts_acknowledge {s : State} : ∀ (gone : List Replayed) {t : State},
    Acts s ((gone.map Replayed.record).foldl freeRecordBuffer t) → Acts s (gone.foldl acknowledge t)
  | [], _, h => h
  | r :: gone, t, h => by
    refine acts_acknowledge gone ?_
    unfold acknowledge
    dsimp only
    split
    · rw [done, foldl_freeRecordBuffer_emit]
      exact acts_emit h
    · exact h
    · exact h

/-- What an ACK does before the drain test. -/
def ackWork (s : State) (n : BitVec 32) : State :=
  let gone := coveredBy n s.tx.replay
  fenceTest (drainRemoved (gone.foldl acknowledge (s.modTx fun t =>
    { t with replay := afterAck n s.tx.replay, cursor := keepCursor (afterAck n s.tx.replay) t.cursor, timeouts := 0,
             timer := if (afterAck n s.tx.replay).isEmpty ∨ t.suspended then none else some (replayExpiry s) })) gone)

theorem removeAcked_eq (s : State) (n : BitVec 32) : removeAcked s n = drainTest (ackWork s n) := rfl

theorem acts_ackWork {s t : State} (h : Acts s t) {n} : Acts s (ackWork t n) := by
  refine acts_fenceTest (Acts.foldl (fun _ g => acts_drainEntry g) _ (acts_acknowledge _ (h.then (.drop
    (Drops.of_foldl ?_ (.refl _) (.refl _) (List.dropWhile_suffix _) rfl rfl ((modTx_frame t _).mono rfl))))))
  have parts : t.tx.replay = coveredBy n t.tx.replay ++ afterAck n t.tx.replay :=
    (List.takeWhile_append_dropWhile ..).symm
  simp only [heldRecords, State.modTx_capture, State.modTx_tx]
  conv_lhs => rw [parts, List.map_append, ← List.append_assoc]
  rw [← List.append_assoc]
  exact List.perm_append_comm.append_right _

/-- What a first transmission does before the drain test. -/
def transmitWork (s : State) (q : QueueClass) (r : Record) : State :=
  let rep : Replayed := ⟨s.tx.next, r⟩
  let s3 := count ((popQueue (transmit s (frameBytes s rep)) q).modTx fun t =>
    { t with next := seqSucc t.next, highest := t.next, replay := t.replay ++ [rep],
             timer := if t.replay.isEmpty then some (replayExpiry s) else t.timer,
             syncRun := match q with
               | .sync => min 8 (t.syncRun + 1)
               | .async => 0 }) .recordsSent
  if r.kind = .block then count s3 .blocksSent else s3

theorem firstTransmit_eq (s : State) (q : QueueClass) (r : Record) :
    firstTransmit s q r = drainTest (transmitWork s q r) := rfl

/-- The end of a hold and a change of the Link Transmitter come in either order. -/
theorem slotFreed_modTx (s : State) (q : QueueClass) (f : Transmitter → Transmitter) :
    (slotFreed s q).modTx f = slotFreed (s.modTx f) q := by
  cases q
  · have same : (s.modTx f).mem.hold = s.mem.hold := rfl
    unfold slotFreed endHoldOf
    dsimp only
    rw [same]
    split <;> rfl
  · rfl

theorem acts_transmitWork {s t : State} (h : Acts s t) {q r rest} (head : t.capture.queueOf q = r :: rest)
    (session : inSession t = true) (room : t.tx.replay.length < Config.replaySlots) :
    Acts s (transmitWork t q r) := by
  have sent := (acts_still h ((modOut_frame t _).mono rfl : SameBut _ t (transmit t (frameBytes t ⟨t.tx.next, r⟩)))).then
    (.transmit (r := ⟨t.tx.next, r⟩) (fun x => if x.replay.isEmpty then some (replayExpiry t) else x.timer)
      (fun x => match (generalizing := false) q with
        | .sync => min 8 (x.syncRun + 1)
        | .async => 0) head rfl session room)
  have left := acts_slotFreed (q := q) sent
  rw [← slotFreed_modTx] at left
  exact Acts.ite (fun _ => acts_count (acts_count left)) fun _ => acts_count left

end Sys2Proof.Machine
end

section
/-! PROOFS. What a step can do: acts, the changes of the session state, RESTART, a reset, or the end of a load. -/

namespace Sys2Proof.Machine

/-! ## RESTART -/

theorem entry_restartRegions (s : State) (e : RegionIx) : (restartRegions s).entry e = restartEntry (s.entry e) := by
  simp [restartRegions, State.entry]

theorem entryMoves_restartEntry (up : Prop) (en : Entry) : EntryMoves up en (restartEntry en) := by
  unfold restartEntry
  split
  next m => exact .inr ⟨rfl, rfl, rfl, rfl, by simp [m, roleOf], .inr rfl, .inl rfl, fun g => by cases g⟩
  · exact .inl rfl
  all_goals exact .refl ..

section
variable {s t : State} (h : Acts s t)
include h

theorem acts_restartRegions : Acts s (restartRegions t) :=
  acts_mild h (.of_frame (modRegions_frame t _)
    (entries := fun _ e => entry_restartRegions t e ▸ entryMoves_restartEntry _ _))

theorem acts_restartQueues : Acts s (restartQueues t) := by
  have converted := acts_convertReplay false t.tx.replay rfl h
  have numbered := converted.then (.renumber (by rw [replay_convertReplay]))
  have restarted : Acts s ((convertReplay false t.tx.replay t).modTx fun x =>
      { x with next := 1, highest := 0, cursor := none, timer := none, timeouts := 0, syncRun := 0, suspended := false }) :=
    acts_modTx (f := fun x =>
      { x with cursor := none, timer := none, timeouts := 0, syncRun := 0, suspended := false }) numbered rfl rfl rfl
  unfold restartQueues
  exact acts_modCapture (acts_convertQueues restarted) rfl rfl

theorem acts_restartResync : Acts s (restartResync t) := by
  have turned {u : State} (g : Acts s u) : Acts s (u.modResync fun r => { r with turn := 0 }) :=
    acts_modResync g ⟨fun _ => .rfl, rfl, .rfl, fun g => ⟨g, id⟩⟩
  unfold restartResync
  refine turned (acts_releaseDiscarding ?_)
  split
  · exact acts_noSegment (acts_mark (acts_releaseBlock h))
  · exact h

theorem acts_restartCommands {tag} : Acts s (restartCommands t tag) :=
  acts_modEv (acts_modCmd h (.inl le_rfl) (.inl rfl)) ⟨rfl, rfl, rfl, rfl, rfl, rfl, rfl⟩

theorem acts_restartReleasing : Acts s (restartReleasing t) := Acts.foldl (fun _ g => acts_releaseEntry g) _ h

end

/-- What a RESTART does behind the emptying of the fence list. -/
theorem acts_restart_of_fences {s u : State} {tag : BitVec 16} (h : Acts s ((restartResync (restartQueues
    (restartRegions (restartSession (clearStats u))))).modFences fun _ => [])) : Acts s (restart u tag) := by
  unfold restart restartHead
  dsimp only
  exact acts_finishRestart (acts_endHoldOf (acts_endHoldOf (acts_restartReleasing
    (acts_restartCommands (acts_restartApply h)))))

/-- What a RESTART does behind the step that rewrites the Region Table. -/
theorem acts_restart_of_regions {s u : State} {tag : BitVec 16}
    (h : Acts s (restartRegions (restartSession (clearStats u)))) : Acts s (restart u tag) :=
  acts_restart_of_fences (acts_modFences (f := fun _ => []) (acts_restartResync (acts_restartQueues h))
    (.inl (Nat.zero_le _)))

/-- Behind the reset of the session a RESTART is a chain of acts. -/
theorem acts_restart (s : State) (tag : BitVec 16) : Acts (restartSession (clearStats s)) (restart s tag) :=
  acts_restart_of_regions (acts_restartRegions (.refl _))

/-! ## Moves -/

/-- Entry into CLOSING, before the drain test (R50). -/
def closingEntered (s : State) (tag : BitVec 16) : State :=
  failAllFences (resyncLeavesUp (sweep (s.modSession fun x =>
    { x with state := .closing, enable := false, pendingDisconnect := some tag })))

/-- The part with RESET_N asserted (R174). -/
def resetAsserted (s : State) : State :=
  ({ powerOnState s with resetN := false }).modLoader fun l => { l with loadTimer := none }

/-- One move of the part: an act, or a change of the session state with what belongs to it. -/
inductive Move : State → State → Prop
  | act {s t : State} (h : Act s t) : Move s t
  | lose {s : State} (h : inSession s = true) (c : LossCause) (part : BitVec 32) : Move s (loseSession s c part)
  | call {s : State} (h : s.session.state = .disabled) : Move s (enterCalling s)
  | stop {s : State} (h : s.session.state = .calling) : Move s (enterDisabled s)
  | accept {s : State} (h : s.session.state = .calling) (epoch : BitVec 16) : Move s (enterUp s epoch)
  | close {s : State} (h : s.session.state = .up) (tag : BitVec 16) : Move s (closingEntered s tag)
  | restart (s : State) (tag : BitVec 16) : Move s (restart s tag)

/-- A chain of moves. -/
abbrev Moves : State → State → Prop := Relation.ReflTransGen Move

theorem Moves.keeps {P : State → Prop} (step : ∀ {s t : State}, Move s t → P s → P t) {s t : State} (h : Moves s t)
    (p : P s) : P t := by
  induction h with
  | refl => exact p
  | tail _ a ih => exact step a ih

theorem Moves.then {s t u : State} (h : Moves s t) (a : Move t u) : Moves s u := Relation.ReflTransGen.tail h a

theorem Moves.acts {s t u : State} (h : Moves s t) (a : Acts t u) : Moves s u :=
  h.trans (Relation.ReflTransGen.mono (fun _ _ => Move.act) _ _ a)

theorem Moves.of_acts {s t : State} (a : Acts s t) : Moves s t := Moves.acts .refl a

theorem Moves.ite {s t u : State} {p : Prop} [Decidable p] (h : p → Moves s t) (g : ¬p → Moves s u) :
    Moves s (if p then t else u) := by
  split
  · exact h ‹_›
  · exact g ‹_›

/-- The PART that ends a drained session is generated in CLOSING (R51). -/
def parted (s : State) : State :=
  let s1 := if 0 < s.rx.unacked then generateAck s else s
  generate s1 (.part s1.tx.highest)

theorem parted_frame (s : State) : SameBut [.tx, .rx] s (parted s) := by
  unfold parted
  dsimp only
  split
  · exact (generateAck_frame s).then (generate_frame _ _) rfl
  · exact (generate_frame s _).mono rfl

theorem drainTest_eq (s : State) : drainTest s =
    if s.session.state = .closing ∧ isDry s then loseSession (parted s) .disconnected 0 else s := rfl

theorem inSession_of_state {s : State} (h : s.session.state = .up ∨ s.session.state = .closing) : inSession s = true := by
  simpa [inSession] using h

theorem inSession_congr {s t : State} (h : t.session = s.session) : inSession t = inSession s := by
  rw [inSession, inSession, h]

section
variable {s t : State} (h : Moves s t)
include h

theorem moves_drainTest : Moves s (drainTest t) := by
  rw [drainTest_eq]
  refine Moves.ite (fun ⟨closing, _⟩ => ?_) fun _ => h
  have parting : Acts t (parted t) := by
    unfold parted
    exact acts_generate (Acts.ite (fun _ => acts_generateAck (.refl t)) fun _ => .refl t)
  refine (h.acts parting).then (.lose ?_ _ _)
  rw [inSession_congr ((parted_frame t).session (by decide))]
  exact inSession_of_state (.inr closing)

theorem moves_loseSession {c part} (session : inSession t = true) : Moves s (loseSession t c part) :=
  h.then (.lose session c part)

theorem moves_takeAck {n} : Moves s (takeAck t n) :=
  Moves.ite (fun _ => h.acts (acts_protocolClaim (.refl t))) fun _ => Moves.ite (fun _ => h) fun _ =>
    removeAcked_eq t n ▸ moves_drainTest (h.acts (acts_ackWork (.refl t)))

theorem moves_takeReject {seq peer reason} : Moves s (takeReject t seq peer reason) := by
  unfold takeReject
  split
  · split
    · exact moves_drainTest (h.acts (acts_claimRefused (acts_emit (.refl t))))
    · exact h.acts (acts_count (.refl t))
  · exact h.acts (acts_count (.refl t))

theorem moves_transmitChoice : Moves s (transmitChoice t) := by
  have sent (bytes) : Acts t (transmit t bytes) := acts_still (.refl t) ((modOut_frame t _).mono rfl)
  unfold transmitChoice
  split
  · exact h.acts (acts_modTx (sent _) rfl rfl rfl)
  · refine Moves.ite (fun _ => h) fun _ => ?_
    split
    · split
      · exact h.acts (acts_count (acts_modTx (sent _) rfl rfl rfl))
      · exact h
    · refine Moves.ite (fun ⟨session, room⟩ => ?_) fun _ => h
      split
      · split
        next head =>
          rw [firstTransmit_eq]
          exact moves_drainTest (h.acts (acts_transmitWork (.refl t) head session room))
        · exact h
      · exact h

theorem moves_joinInSession {j} (session : inSession t = true) : Moves s (joinInSession t j) := by
  unfold joinInSession
  split
  · exact h.acts (acts_refuseJoin (.refl t))
  · exact Moves.ite (fun _ => h.acts (acts_sendAnswer (.refl t))) fun _ => Moves.ite
      (fun _ => (moves_loseSession h session).acts (acts_joinInCalling (.refl _))) fun _ => moves_loseSession h session

theorem moves_takeAccept {a} (calling : t.session.state = .calling) : Moves s (takeAccept t a) := by
  have answered : Acts t (if answerMatches t a then t.modSession fun x => { x with peerUnit := a.sender, peerCall := a.call }
      else sendAnswer ((t.modSession fun x => { x with peerUnit := a.sender, peerCall := a.call }).modSession fun x =>
        { x with answer := some ⟨a.epoch, a.call, x.lastEpoch⟩ })) :=
    Acts.ite (fun _ => acts_modSession (.refl t) rfl) fun _ =>
      acts_sendAnswer (acts_modSession (acts_modSession (.refl t) rfl) rfl)
  refine (h.acts answered).then (.accept ?_ a.epoch)
  split
  · exact calling
  · rw [(sendAnswer_frame _).session (by decide)]
    exact calling

theorem moves_connect : Moves s (connect t) :=
  Moves.ite (fun disabled => ((h.acts (acts_modSession (f := fun x => { x with enable := true }) (.refl t) rfl)).then
    (.call disabled)).acts (acts_beginCalling (.refl _))) fun _ => h

theorem moves_disconnect {tag} : Moves s (disconnect t tag) := by
  unfold disconnect
  split
  · exact h.acts (acts_done (.refl t))
  · exact h.acts (acts_done (.refl t))
  next calling =>
    exact ((h.acts (acts_modSession (f := fun x => { x with enable := false }) (.refl t) rfl)).then
      (.stop calling)).acts (acts_done (acts_clearControl (.refl _)))
  next up => exact moves_drainTest (h.then (.close up tag))

theorem moves_dropCarrier : Moves s (dropCarrier t) := by
  have dropped : Acts t (t.modSession fun x => { x with carrier := false, dropped := true }) :=
    acts_modSession (.refl t) rfl
  unfold dropCarrier
  dsimp only
  split
  · exact h.acts (acts_clearControl dropped)
  · exact h.acts (acts_clearControl (acts_modSession dropped rfl))
  · exact moves_loseSession (h.acts dropped) (inSession_of_state (.inl ‹_›))
  · exact moves_loseSession (h.acts dropped) (inSession_of_state (.inr ‹_›))

end

/-! ## What a command can do -/

/-- A load that runs ends: a good image starts the part, a bad one places it in BYPASS (R171 to R173). -/
def LoadEnds (s t : State) : Prop :=
  loadRunning s = true ∧ ∃ image,
    t = if imageGood image then loadSucceeds (s.modLoader fun l => { l with prom := promFields image }) (promFields image)
      else enterBypass (s.modLoader fun l => { l with prom := promFields image })

/-- POWER_ON and RESET_ASSERT give every block its power-on value (R170, R174). -/
def Resets (s t : State) : Prop := t = powerOnState s ∨ t = resetAsserted s

theorem Resets.frame {s t : State} (h : Resets s t) :
    SameBut [.pending, .resetN, .loader, .out, .freeCount] State.reset t := by
  obtain rfl | rfl := h
  · constructor <;> intro h <;> first | rfl | exact absurd (by decide) h
  · constructor <;> intro h <;> first | rfl | exact absurd (by decide) h

theorem acts_enterBypass {s : State} (loading : s.loader.loadState = .loading) : Acts s (enterBypass s) :=
  acts_endHoldOf (acts_mild (.refl s) (.of_frame (modLoader_frame s _)
    (loader := fun _ => ⟨rfl, fun running => by rw [loading] at running; cases running⟩)))

theorem loading_of_loadRunning {s : State} (h : loadRunning s = true) : s.loader.loadState = .loading := by
  simp only [loadRunning, Bool.and_eq_true, decide_eq_true_eq] at h
  exact h.1

theorem acts_tick (s : State) : Acts s (tick s) := by
  unfold tick
  split
  next loading =>
    unfold loadTick
    split
    · exact Acts.ite (fun _ => acts_enterBypass loading) fun _ =>
        acts_mild (.refl s) (.of_frame (modLoader_frame s _) (loader := fun _ => ⟨rfl, id⟩))
    · exact .refl s
  · exact acts_modEv (.refl s) ⟨rfl, rfl, rfl, rfl, rfl, rfl, rfl⟩
  · exact .refl s

section
variable {s t : State}

/-- A frame's moves are those of its handler. -/
theorem moves_deliver {frame : List Byte} {handle : State → State} (h : Moves s (handle s)) :
    Moves s (deliver s frame handle) :=
  Moves.ite (fun _ => Moves.ite (fun _ => h) fun _ => .of_acts (acts_count (.refl s))) fun _ => .refl

theorem moves_sortSession {frame : List Byte} {handle : State → State} (h : inSession s = true → Moves s (handle s)) :
    Moves s (sortSession s frame handle) :=
  Moves.ite (fun ⟨session, _⟩ => h session) fun _ => .of_acts (acts_count (.refl s))

/-- A command's moves are those of its run. -/
theorem moves_take {codes : Nat → Bool} {run : Line → State → State} (h : ∀ l u, Moves s u → Moves s (run l u))
    (g : take s codes run = .next t) : Moves s t := by
  injection g with g
  subst g
  split
  · exact Moves.ite (fun _ => h _ _ (.of_acts (acts_popLine (.refl s)))) fun _ => .refl
  · exact .refl

theorem moves_takeActs {codes : Nat → Bool} {run : Line → State → State} (h : ∀ l u, Acts u (run l u))
    (g : take s codes run = .next t) : Moves s t :=
  moves_take (fun l u m => m.acts (h l u)) g

/-- An answer that is no entry of the current ring is taken, and what it answers follows. -/
theorem acts_answered {a : MemAnswer} {p : MemSource → Bool} {r : MemRequest} (h : takeAnswer s a p = some (r, t))
    (g : r.source ≠ .writer (.entry true)) : Acts s t := by
  obtain ⟨rest, oldest, _, rfl⟩ := takeAnswer_eq_some h
  exact (Acts.refl s).then (.answer oldest g)

theorem acts_writerAnswer {a : MemAnswer} {r : MemRequest} {item : WriterItem} {st : Status}
    (h : takeAnswer s a isWriter = some (r, t)) (g : r.source = .writer item) : Acts s (writerAnswer t item st) := by
  cases item with
  | entry current =>
    cases current with
    | true =>
      obtain ⟨rest, oldest, _, rfl⟩ := takeAnswer_eq_some h
      exact (Acts.refl s).then (.advance oldest g)
    | false => exact acts_answered h (by simp [g])
  | writeOut => exact acts_writeOutAnswered (acts_answered h (by simp [g]))

/-- What a command can do: moves, the end of the load, or a reset. -/
theorem exec_moves (c : Instr) (h : exec c s = .next t) : Moves s t ∨ LoadEnds s t ∨ Resets s t := by
  cases c
  case promImageRead image =>
    injection h with h
    subst h
    split
    next running => exact .inr (.inl ⟨running, image, rfl⟩)
    · exact .inl .refl
  case powerOn => injection h with h; exact .inr (.inr (.inl h.symm))
  case resetAssert => injection h with h; exact .inr (.inr (.inr h.symm))
  all_goals left
  case loadTimerExpiry =>
    injection h with h
    subst h
    exact Moves.ite (fun _ => .of_acts (acts_enterBypass (loading_of_loadRunning ‹_›))) fun _ => .refl
  case carrierUp =>
    injection h with h
    subst h
    refine Moves.ite (fun _ => .of_acts ?_) fun _ => .refl
    have raised : Acts s (s.modSession fun x => { x with carrier := true }) := acts_modSession (.refl s) rfl
    exact Acts.ite (fun _ => acts_sendJoin raised) fun _ => raised
  case carrierDown =>
    injection h with h
    subst h
    exact Moves.ite (fun _ => moves_dropCarrier .refl) fun _ => .refl
  case unknownFrame => injection h with h; subst h; exact moves_deliver .refl
  case join =>
    injection h with h
    subst h
    refine moves_deliver ?_
    split
    · exact .refl
    · exact .of_acts (acts_joinInCalling (.refl s))
    · exact moves_joinInSession .refl (inSession_of_state (.inl ‹_›))
    · exact moves_joinInSession .refl (inSession_of_state (.inr ‹_›))
  case accept =>
    injection h with h
    subst h
    refine moves_deliver ?_
    split
    · exact Moves.ite (fun _ => moves_takeAccept .refl ‹_›) fun _ => .refl
    all_goals exact .refl
  case part =>
    injection h with h
    subst h
    exact moves_deliver (moves_sortSession fun session => moves_loseSession .refl session)
  case writeFrame =>
    injection h with h; subst h; exact moves_deliver (moves_sortSession fun _ => .of_acts (acts_receiveRecord (.refl s)))
  case blockFrame =>
    injection h with h; subst h; exact moves_deliver (moves_sortSession fun _ => .of_acts (acts_receiveRecord (.refl s)))
  case noteFrame =>
    injection h with h; subst h; exact moves_deliver (moves_sortSession fun _ => .of_acts (acts_receiveRecord (.refl s)))
  case ack => injection h with h; subst h; exact moves_deliver (moves_sortSession fun _ => moves_takeAck .refl)
  case retry =>
    injection h with h; subst h; exact moves_deliver (moves_sortSession fun _ => .of_acts (acts_takeRetry (.refl s)))
  case reject => injection h with h; subst h; exact moves_deliver (moves_sortSession fun _ => moves_takeReject .refl)
  case lossClaim =>
    injection h with h
    subst h
    split
    · have taken : Acts s (s.modTx fun x => { x with lossClaim := none }) := acts_modTx (.refl s) rfl rfl rfl
      exact Moves.ite (fun session => moves_loseSession (.of_acts taken) session) fun _ => .of_acts taken
    · exact .refl
  case transmitArbiterChoice =>
    injection h with h
    subst h
    exact Moves.ite (fun _ => moves_transmitChoice .refl) fun _ => .refl
  case joinTimerExpiry =>
    injection h with h
    subst h
    split
    · exact Moves.ite (fun _ => Moves.ite (fun _ => .of_acts (acts_sendJoin (acts_reach (.refl s)))) fun _ =>
        .of_acts (acts_modSession (acts_reach (.refl s)) rfl)) fun _ => .refl
    · exact .refl
  case replayTimerExpiry =>
    injection h with h
    subst h
    split
    next x _ =>
      have counted : Acts s ((reach s x).modTx fun t => { t with timeouts := t.timeouts + 1 }) :=
        acts_modTx (acts_reach (.refl s)) rfl rfl rfl
      exact Moves.ite (fun _ => .of_acts (acts_claimLoss counted)) fun _ =>
        .of_acts (acts_modTx counted rfl rfl rfl)
    · exact .refl
  case ackDelayTimerExpiry =>
    injection h with h
    subst h
    split
    · exact Moves.ite (fun _ => .of_acts (acts_generateAck (acts_reach (.refl s)))) fun _ => .refl
    · exact .refl
  case holdLimitExpiry =>
    injection h with h
    subst h
    split
    · exact Moves.ite (fun _ => .of_acts (acts_modMem (acts_endHold (acts_count (acts_reach (.refl s)))) (.inl le_rfl) rfl))
        fun _ => .refl
    · exact .refl
  case quietTimerExpiry =>
    injection h with h
    subst h
    split
    · exact .of_acts (acts_modApply (acts_reach (.refl s)) (.inl le_rfl))
    · exact .refl
  case attnDelayExpiry =>
    injection h with h
    subst h
    split
    · exact .of_acts (acts_modEv (acts_reach (.refl s)) ⟨rfl, rfl, rfl, rfl, rfl, rfl, rfl⟩)
    · exact .refl
  case systemPortRequest =>
    injection h with h
    subst h
    refine Moves.ite (fun _ => .of_acts (acts_modMem (.refl s) (.inl ?_) ?_)) fun _ => .refl
    · split <;> exact le_rfl
    · split <;> rfl
  case memoryPortArbiter => injection h with h; subst h; exact .of_acts (acts_arbiterRounds _ (.refl s))
  case passThroughResponse =>
    injection h with h
    subst h
    split
    next r u taken =>
      refine Moves.ite (fun _ => .of_acts (acts_passThroughAnswer (acts_answered taken ?_))) fun _ => .refl
      obtain ⟨_, _, source, _⟩ := takeAnswer_eq_some taken
      rw [eq_of_beq source]
      simp
    · exact .refl
  case applyWriteResponse =>
    injection h with h
    subst h
    split
    next r u taken =>
      refine .of_acts (acts_injectedAnswered (acts_applyResponse (acts_answered taken ?_)))
      obtain ⟨_, _, source, _⟩ := takeAnswer_eq_some taken
      rw [eq_of_beq source]
      simp
    · exact .refl
  case resyncReadResponse =>
    injection h with h
    subst h
    split
    next r u taken =>
      refine .of_acts (acts_injectedAnswered (acts_resyncResponse (acts_answered taken ?_)))
      obtain ⟨_, _, source, _⟩ := takeAnswer_eq_some taken
      rw [eq_of_beq source]
      simp
    · exact .refl
  case writerResponse =>
    injection h with h
    subst h
    split
    next r u taken =>
      split
      · exact .of_acts (acts_injectedAnswered (acts_writerAnswer taken ‹_›))
      all_goals exact .refl
    · exact .refl
  case writeOutDone => injection h with h; subst h; exact .of_acts (acts_completeWriteOut (.refl s))
  case resyncTurn => injection h with h; subst h; exact .of_acts (acts_resyncTurnOf (.refl s))
  case blockStart => injection h with h; subst h; exact .of_acts (acts_tryStart (.refl s))
  case deferredRetry => injection h with h; subst h; exact .of_acts (acts_deferredCheck (.refl s))
  case drainTestPassed => injection h with h; subst h; exact moves_drainTest .refl
  case drained =>
    injection h with h
    subst h
    exact Moves.ite (fun _ => .of_acts (acts_fenceTest (acts_drainEntry (.refl s)))) fun _ => .refl
  case released => injection h with h; subst h; exact .of_acts (acts_releaseEntry (.refl s))
  case fenceDurable => injection h with h; subst h; exact .of_acts (acts_fenceTest (.refl s))
  case restarted => injection h with h; subst h; exact .of_acts (acts_finishRestart (.refl s))
  all_goals simp only [exec, execNoneCommand, execBadCommand, execConnect, execDisconnect, execOpenSource,
    execOpenTarget, execClose, execFence, execSendNote, execSetParameter, execSetEventRing, execReleaseEvents,
    execDumpStats, execSnapshot, execRestart] at h
  case noneCommand => exact moves_takeActs (fun _ u => .refl u) h
  case badCommand => exact moves_takeActs (fun _ u => acts_done (.refl u)) h
  case connect => exact moves_take (fun _ u m => (moves_connect m).acts (acts_done (.refl _))) h
  case disconnect => exact moves_take (fun _ u m => moves_disconnect m) h
  case openSource => exact moves_takeActs (fun _ u => acts_openSource (.refl u)) h
  case openTarget => exact moves_takeActs (fun _ u => acts_openTarget (.refl u)) h
  case close =>
    refine moves_takeActs (fun l u => ?_) h
    split
    · exact acts_done (.refl u)
    · exact acts_closeEntry (.refl u)
  case fence => exact moves_takeActs (fun _ u => acts_takeFence (.refl u)) h
  case sendNote => exact moves_takeActs (fun _ u => acts_takeNote (.refl u)) h
  case setParameter => exact moves_takeActs (fun _ u => acts_takeParameter (.refl u)) h
  case setEventRing => exact moves_takeActs (fun _ u => acts_takeRing (.refl u)) h
  case releaseEvents =>
    exact moves_takeActs (fun l u => Acts.ite (fun valid => acts_releaseTo (.refl u) valid) fun _ => acts_done (.refl u)) h
  case dumpStats =>
    refine moves_takeActs (fun l u => acts_writeOutCommand (.refl u) fun apart => ?_) h
    have started := acts_startWriteOut (tag := lineTag l) (content := statsBytes u) (.refl u) apart
    exact Acts.ite (fun _ => started) fun _ => acts_clearStats started
  case snapshot =>
    exact moves_takeActs (fun l u => acts_writeOutCommand (.refl u) fun apart =>
      acts_still (acts_startWriteOut (.refl u) apart) ((drew_frame _ _).mono rfl)) h
  case restart => exact moves_take (fun l u m => m.then (.restart u _)) h

theorem pending_frame (s : State) (rest : List Instr) : SameBut [.pending] s { s with pending := rest } := by
  constructor <;> intro h <;> first | rfl | exact absurd (by decide) h

/-- What a step can do, behind the take of its command: moves, the end of the load, or a reset. -/
theorem step_moves (h : step s = .next t) : ∃ rest,
    Moves { s with pending := rest } t ∨ LoadEnds { s with pending := rest } t ∨ Resets { s with pending := rest } t := by
  unfold step at h
  split at h
  · injection h with h
    subst h
    exact ⟨s.pending, .inl (.of_acts (acts_tick s))⟩
  next c rest _ => exact ⟨rest, exec_moves c h⟩

/-- An invariant is kept by every step, once the moves, the end of a load and the resets keep it. -/
theorem keeps_step {P : State → Prop} (pending : ∀ (s : State) (rest : List Instr), P s → P { s with pending := rest })
    (moves : ∀ {s t : State}, Moves s t → P s → P t) (load : ∀ {s t : State}, LoadEnds s t → P s → P t)
    (reset : ∀ {t : State}, SameBut [.pending, .resetN, .loader, .out, .freeCount] State.reset t → P t)
    (h : step s = .next t) (p : P s) : P t := by
  obtain ⟨rest, moved | ended | reset'⟩ := step_moves h
  · exact moves moved (pending s rest p)
  · exact load ended (pending s rest p)
  · exact reset reset'.frame

end

end Sys2Proof.Machine
end

section
/-! PROOFS. Every step keeps the replay list in order and every queue and list within its capacity (R58, R63, R23). -/

namespace Sys2Proof.Machine

/-! ## What the moves keep, once the acts keep it -/

/-- A session that changes, with the Link Receiver and the statistics, from which acts go on. -/
theorem keeps_moves {P : State → Prop} (act : ∀ {s t : State}, Act s t → P s → P t)
    (blind : ∀ {s t : State}, SameBut [.session, .rx, .stats] s t → P s → P t)
    (afresh : ∀ (s : State) (f : Transmitter → Transmitter), (f s.tx).replay = [] → (f s.tx).next = 1 →
      (f s.tx).highest = 0 → P s → P (s.modTx f))
    {s t : State} (h : Moves s t) (p : P s) : P t := by
  refine h.keeps (fun {s t} m p => ?_) p
  have session (f : Session → Session) : P (s.modSession f) := blind ((modSession_frame s f).mono rfl) p
  cases m
  case act a => exact act a p
  case lose =>
    refine (acts_loseSession s _ _).keeps act ?_
    unfold sessionLeft
    split <;> exact session _
  case call => exact session _
  case stop => exact session _
  case accept =>
    exact act (.emit _ _) (blind ((modRx_frame _ _).mono rfl) (afresh _ _ rfl rfl rfl (session _)))
  case close => exact (acts_failAllFences (acts_resyncLeavesUp (acts_sweep (.refl _)))).keeps act (session _)
  case restart tag =>
    refine (acts_restart s tag).keeps act (blind ((modRx_frame _ _).mono rfl) ?_)
    have cleared : P (clearStats s) := blind ((modStats_frame s _).mono rfl) p
    exact (acts_clearControl (.refl _)).keeps act (blind ((modSession_frame _ _).mono rfl) cleared)

/-- The end of a load, behind the changes of the loader and of the ring. -/
theorem keeps_loadEnds {P : State → Prop} (act : ∀ {s t : State}, Act s t → P s → P t)
    (blind : ∀ {s t : State}, SameBut [.pending, .loader, .params, .session] s t → P s → P t) {s t : State}
    (ring : ∀ {u : State} (base : Addr), SameBut [.loader, .params] s u → P (u.modEv fun e =>
      { e with ringBase := base, count := 64, produce := 0, release := 0, write := 0, unwritten := 0, timeBase := 0 }))
    (h : LoadEnds s t) (p : P s) : P t := by
  obtain ⟨_, image, rfl⟩ := h
  split
  · unfold loadSucceeds
    dsimp only
    refine (acts_endHoldOf (.refl _)).keeps act (blind ((modSession_frame _ _).mono rfl) (act (.emit _ _) ?_))
    exact ring _ ((((modLoader_frame s _).mono rfl).then (modLoader_frame _ _) rfl).then (modParams_frame _ _) rfl)
  · have ended := (modLoader_frame s fun l => { l with prom := promFields image }).trans
      (modLoader_frame _ fun l => { l with loadState := .bypass, loadTimer := none })
    exact (acts_endHoldOf (.refl _)).keeps act (blind (ended.mono rfl) p)

/-! ## The replay list -/

theorem consecutive_tail {a : Replayed} {l : List Replayed} (h : consecutive (a :: l)) : consecutive l := by
  cases l with
  | nil => trivial
  | cons b l => exact h.2

theorem consecutive_suffix {l m : List Replayed} (h : l <:+ m) (g : consecutive m) : consecutive l := by
  obtain ⟨pre, rfl⟩ := h
  induction pre with
  | nil => exact g
  | cons a pre ih => exact ih (consecutive_tail g)

theorem getLast?_suffix {α : Type} {l m : List α} {a : α} (h : l <:+ m) (g : l.getLast? = some a) : m.getLast? = some a := by
  obtain ⟨pre, rfl⟩ := h
  rw [List.getLast?_append, g]
  rfl

theorem consecutive_concat {r : Replayed} : ∀ {l : List Replayed}, consecutive l →
    (∀ a, l.getLast? = some a → r.seq = seqSucc a.seq) → consecutive (l ++ [r])
  | [], _, _ => trivial
  | [a], _, last => ⟨last a rfl, trivial⟩
  | a :: b :: l, h, last => ⟨h.1, consecutive_concat (l := b :: l) h.2 fun x g => last x (by simpa using g)⟩

theorem replayInOrder_of_tx {s t : State} (replay : t.tx.replay = s.tx.replay) (next : t.tx.next = s.tx.next)
    (highest : t.tx.highest = s.tx.highest) (p : ReplayInOrder s) : ReplayInOrder t := by
  rwa [ReplayInOrder, replay, next, highest]

theorem replayInOrder_afresh {s : State} (replay : s.tx.replay = []) (next : s.tx.next = 1) (highest : s.tx.highest = 0) :
    ReplayInOrder s := by
  rw [ReplayInOrder, replay, next, highest]
  exact ⟨by decide, trivial, fun _ h => by cases h⟩

/-- A first transmission goes behind the highest sent; what leaves, leaves from the front. -/
theorem replayInOrder_act {s t : State} (a : Act s t) (p : ReplayInOrder s) : ReplayInOrder t := by
  have same (h : t.tx = s.tx) : ReplayInOrder t := replayInOrder_of_tx (by rw [h]) (by rw [h]) (by rw [h]) p
  cases a
  case mild m => exact replayInOrder_of_tx m.replay m.next m.highest p
  case emit ev => exact same ((emit_frame s ev).tx (by decide))
  case release => exact same ((releaseBlock_frame s).tx (by decide))
  case releaseTo new _ => exact same (by unfold setRelease; split <;> rfl)
  case drop d =>
    obtain ⟨next, chain, last⟩ := p
    rw [ReplayInOrder, d.next, d.highest]
    exact ⟨next, consecutive_suffix d.replay chain, fun r g => last r (getLast?_suffix d.replay g)⟩
  case transmit r _ _ _ _ number _ _ =>
    obtain ⟨next, chain, last⟩ := p
    refine ⟨rfl, consecutive_concat chain fun a g => ?_, fun x g => ?_⟩
    · rw [number, next, last a g]
    · have g : (s.tx.replay ++ [r]).getLast? = some x := g
      simp only [List.getLast?_concat, Option.some.injEq] at g
      rw [← g, number]
      rfl
  case renumber empty => exact replayInOrder_afresh empty rfl rfl
  all_goals exact same rfl

theorem replayInOrder_step {s t : State} (h : step s = .next t) (p : ReplayInOrder s) : ReplayInOrder t := by
  have blind {ps : List Part} (out : Part.tx ∉ ps) {s t : State} (f : SameBut ps s t) (p : ReplayInOrder s) :
      ReplayInOrder t := by
    rwa [ReplayInOrder, f.tx out]
  refine keeps_step (P := ReplayInOrder) (fun s rest => blind (by decide) (pending_frame s rest))
    (keeps_moves replayInOrder_act (blind (by decide)) fun s f replay next highest _ =>
      replayInOrder_afresh replay next highest)
    (fun ends p => keeps_loadEnds (P := ReplayInOrder) replayInOrder_act (blind (by decide))
      (fun {u} base f => (blind (by decide) f p : ReplayInOrder u)) ends p)
    (fun f => blind (by decide) f (replayInOrder_afresh rfl rfl rfl)) h p

/-! ## Capacities -/

/-- The lists within their capacity, part by part. -/
def SlotsWithin (s : State) : Prop := ∀ q, (s.capture.queueOf q).length + reservedIn s q ≤ capacity q
def ReplayWithin (s : State) : Prop := s.tx.replay.length ≤ Config.replaySlots
def ListsWithin (s : State) : Prop :=
  s.apply.queue.length ≤ Config.applySlots ∧ s.fences.length ≤ Config.fenceSlots ∧
    s.cmd.queue.length ≤ Config.commandSlots ∧ s.mem.responses.length ≤ Config.portSlots
def RequestsWithin (s : State) : Prop :=
  injectedOutstanding s ≤ Config.portSlots ∧ writerOutstanding s ≤ Config.writerSlots

theorem withinCapacity_iff (s : State) : WithinCapacity s ↔
    SlotsWithin s ∧ ReplayWithin s ∧ ListsWithin s ∧ RequestsWithin s ∧ RingInRange s.ev := by
  unfold WithinCapacity SlotsWithin ReplayWithin ListsWithin RequestsWithin
  tauto

theorem reservedIn_le_one (s : State) (q : QueueClass) : reservedIn s q ≤ 1 := by
  unfold reservedIn
  split
  · split <;> omega
  · exact Nat.zero_le 1

theorem reservedIn_of_none {s : State} (h : s.resync.reserved = none) (q : QueueClass) : reservedIn s q = 0 := by
  rw [reservedIn, h]

/-- What enters a queue has found a free slot, the reservation counted; a finished block takes the slot that it held. -/
theorem slotsWithin_act {s t : State} (a : Act s t) (p : SlotsWithin s) : SlotsWithin t := by
  have same (h : t.capture = s.capture) (g : t.resync.reserved = s.resync.reserved) : SlotsWithin t := fun q => by
    rw [h, reservedIn, g]
    exact p q
  cases a
  case mild m =>
    intro q
    have queue : t.capture.queueOf q = s.capture.queueOf q := by
      cases q
      · exact m.sync
      · exact m.async
    rw [queue, reservedIn, m.resync.reserved]
    exact p q
  case emit ev =>
    exact same ((emit_frame s ev).capture (by decide)) (by rw [(emit_frame s ev).resync (by decide)])
  case releaseTo => exact same (by unfold setRelease; split <;> rfl) (by unfold setRelease; split <;> rfl)
  case append q body room _ =>
    intro q'
    have := p q'
    unfold freeSlots at room
    show ((s.capture.setQueue q _).queueOf q').length + reservedIn s q' ≤ _
    rw [queueOf_setQueue]
    split
    · subst_vars
      rw [List.length_append, List.length_singleton]
      omega
    · exact this
  case merge q before r r' tail _ _ =>
    intro q'
    have := p q'
    show ((s.capture.setQueue q _).queueOf q').length + reservedIn s q' ≤ _
    rw [queueOf_setQueue]
    split
    · subst_vars
      rw [tail] at this
      simpa using this
    · exact this
  case start b q _ _ room =>
    intro q'
    have := p q'
    unfold freeSlots at room
    by_cases g : q = q'
    · subst g
      show (s.capture.queueOf q).length + reservedIn _ q ≤ _
      simp only [reservedIn, State.modResync_resync, if_true]
      omega
    · show (s.capture.queueOf q').length + reservedIn _ q' ≤ _
      simp only [reservedIn, State.modResync_resync, if_neg g]
      omega
  case release =>
    intro q
    rw [reservedIn_of_none (reserved_releaseBlock s), (releaseBlock_frame s).capture (by decide)]
    exact le_trans (Nat.le_add_right ..) (p q)
  case finish b q e peer n _ _ reserved =>
    intro q'
    have := p q'
    show ((s.capture.setQueue q _).queueOf q').length + 0 ≤ _
    rw [queueOf_setQueue]
    split
    · subst_vars
      simp only [reservedIn, reserved, if_true] at this
      rw [List.length_append, List.length_singleton]
      omega
    · omega
  case drop d =>
    intro q
    have := p q
    rw [reservedIn, d.resync]
    cases q
    · exact le_trans (Nat.add_le_add_right d.sync.length_le _) (p .sync)
    · exact le_trans (Nat.add_le_add_right d.async.length_le _) (p .async)
  case transmit q r rest _ _ head _ _ _ =>
    intro q'
    have := p q'
    show ((s.capture.setQueue q _).queueOf q').length + reservedIn s q' ≤ _
    rw [queueOf_setQueue]
    split
    · subst_vars
      rw [List.length_tail]
      omega
    · exact this
  all_goals exact same rfl rfl

theorem replayWithin_act {s t : State} (a : Act s t) (p : ReplayWithin s) : ReplayWithin t := by
  have same (h : t.tx = s.tx) : ReplayWithin t := by rwa [ReplayWithin, h]
  cases a
  case mild m => exact (congrArg List.length m.replay).trans_le p
  case emit ev => exact same ((emit_frame s ev).tx (by decide))
  case release => exact same ((releaseBlock_frame s).tx (by decide))
  case releaseTo => exact same (by unfold setRelease; split <;> rfl)
  case drop d => exact d.replay.length_le.trans p
  case transmit r _ _ _ _ _ _ room =>
    show (s.tx.replay ++ [r]).length ≤ _
    rw [List.length_append, List.length_singleton]
    exact room
  case renumber => exact p
  all_goals exact same rfl

theorem listsWithin_act {s t : State} (a : Act s t) (p : ListsWithin s) : ListsWithin t := by
  have same {ps : List Part} (f : SameBut ps s t) (apply : Part.apply ∉ ps) (fences : Part.fences ∉ ps)
      (cmd : t.cmd.queue = s.cmd.queue) (mem : t.mem.responses = s.mem.responses) : ListsWithin t := by
    rwa [ListsWithin, f.apply apply, f.fences fences, cmd, mem]
  obtain ⟨apply, fences, lines, responses⟩ := p
  cases a
  case mild m =>
    refine ⟨?_, ?_, ?_, ?_⟩
    · obtain h | h := m.apply
      exacts [h.trans apply, h]
    · obtain h | h := m.fences
      exacts [h.trans fences, h.2]
    · obtain h | h := m.lines
      exacts [h.trans lines, h]
    · obtain h | h := m.responses
      exacts [h.trans responses, h]
  case emit ev =>
    have f := emit_frame s ev
    exact same f (by decide) (by decide) (by rw [f.cmd (by decide)]) (by rw [f.mem (by decide)])
  case release =>
    have f := releaseBlock_frame s
    exact same f (by decide) (by decide) (by rw [f.cmd (by decide)]) (holdEnds_releaseBlock s).responses
  case releaseTo =>
    unfold setRelease
    split
    · exact ⟨apply, fences, lines, responses⟩
    · exact ⟨apply, fences, lines, responses⟩
  case drop d =>
    exact same d.frame (by decide) (by decide) (by rw [d.frame.cmd (by decide)]) (by rw [d.frame.mem (by decide)])
  all_goals exact ⟨apply, fences, lines, responses⟩

/-- The requests of a kind outstanding. -/
theorem injected_of_fromWriter (r : MemRequest) (h : r.fromWriter = true) : r.injected = true := by
  unfold MemRequest.fromWriter at h
  unfold MemRequest.injected
  split at h
  next w => simp [w]
  all_goals cases h

theorem writerOutstanding_eq (s : State) :
    writerOutstanding s = ((s.mem.outstanding.filter MemRequest.injected).filter MemRequest.fromWriter).length := by
  rw [writerOutstanding, List.filter_filter]
  congr 2
  funext r
  cases h : r.fromWriter
  · rfl
  · rw [injected_of_fromWriter r h]
    rfl

theorem requestsWithin_of_filter {s t : State}
    (h : t.mem.outstanding.filter MemRequest.injected = s.mem.outstanding.filter MemRequest.injected)
    (p : RequestsWithin s) : RequestsWithin t := by
  rwa [RequestsWithin, injectedOutstanding, writerOutstanding_eq, h, ← writerOutstanding_eq]

theorem requestsWithin_tail {s : State} {r : MemRequest} {rest : List MemRequest} (h : s.mem.outstanding = r :: rest)
    (p : RequestsWithin s) : RequestsWithin (s.modMem fun m => { m with outstanding := rest }) := by
  obtain ⟨injected, writer⟩ := p
  unfold injectedOutstanding at injected
  unfold writerOutstanding at writer
  rw [h] at injected writer
  exact ⟨((List.sublist_cons_self r rest).filter _).length_le.trans injected,
    ((List.sublist_cons_self r rest).filter _).length_le.trans writer⟩

/-- One more request is issued while fewer than 16 are outstanding, and a writer's while fewer than eight of its own are
(R137, R166). -/
theorem requestsWithin_issue {s : State} {i : Injected} {source : MemSource} {form : MemForm} (p : RequestsWithin s)
    (room : injectedRoom s = true) (slot : isWriter source = true → writerOutstanding s < Config.writerSlots) :
    RequestsWithin (issueInjected s i source form) := by
  obtain ⟨_, writer⟩ := p
  have room : injectedOutstanding s < Config.portSlots := of_decide_eq_true room
  have added : (issueInjected s i source form).mem.outstanding = s.mem.outstanding ++ [⟨source, sourceTag i, form⟩] := rfl
  unfold RequestsWithin injectedOutstanding writerOutstanding
  rw [added, List.filter_append, List.filter_append, List.length_append, List.length_append]
  refine ⟨?_, ?_⟩
  · refine le_trans (Nat.add_le_add_left (List.length_filter_le _ _) _) ?_
    exact room
  · cases source
    case writer => exact le_trans (Nat.add_le_add_left (List.length_filter_le _ _) _) (slot rfl)
    all_goals exact writer

theorem requestsWithin_act {s t : State} (a : Act s t) (p : RequestsWithin s) : RequestsWithin t := by
  have same (h : t.mem.outstanding = s.mem.outstanding) : RequestsWithin t := requestsWithin_of_filter (by rw [h]) p
  cases a
  case mild m => exact requestsWithin_of_filter m.injected p
  case emit ev => exact same (by rw [(emit_frame s ev).mem (by decide)])
  case release => exact same (holdEnds_releaseBlock s).outstanding
  case releaseTo => exact same (by unfold setRelease; split <;> rfl)
  case drop d => exact same (by rw [d.frame.mem (by decide)])
  case inject room source => exact requestsWithin_issue p room (by rintro w; obtain rfl | rfl := source <;> cases w)
  case writeEntry room slot _ => exact requestsWithin_issue (s := s.modEv _) p room fun _ => slot
  case writeLine room slot => exact requestsWithin_issue p room fun _ => slot
  case answer oldest _ => exact requestsWithin_tail oldest p
  case advance oldest _ => exact requestsWithin_tail oldest p
  case install base count _ _ _ =>
    have injected (r : MemRequest) : r.replaced.injected = r.injected := by
      obtain ⟨source, _, _⟩ := r
      cases source with
      | writer item => cases item <;> rfl
      | passThrough | apply | resync => rfl
    have writer (r : MemRequest) : r.replaced.fromWriter = r.fromWriter := by
      obtain ⟨source, _, _⟩ := r
      cases source with
      | writer item => cases item <;> rfl
      | passThrough | apply | resync => rfl
    have replaced : (installRing s base count).mem.outstanding = s.mem.outstanding.map MemRequest.replaced := rfl
    unfold RequestsWithin injectedOutstanding writerOutstanding
    rw [replaced, List.filter_map, List.filter_map, List.length_map, List.length_map]
    rw [show MemRequest.injected ∘ MemRequest.replaced = MemRequest.injected from funext injected,
      show MemRequest.fromWriter ∘ MemRequest.replaced = MemRequest.fromWriter from funext writer]
    exact p
  all_goals exact same rfl

/-! ## The ring -/

theorem ringInRange_of_same {a b : EventWriter} (h : SameRing a b) (p : RingInRange a) : RingInRange b := by
  rwa [RingInRange, unreleased, h.count, h.produce, h.release, h.write]

theorem ringInRange_attnTest {p : Params} {n : Nat} {e : EventWriter} (h : RingInRange e) : RingInRange (attnTest p n e) := by
  simpa [RingInRange] using h

theorem ringInRange_empty {e : EventWriter} (count : 0 < e.count) (produce : e.produce = 0) (release : e.release = 0)
    (write : e.write = 0) : RingInRange e := by
  refine ⟨count, by omega, by omega, by omega, ?_⟩
  rw [unreleased, produce, release]
  simp

theorem nextIndex_lt (e : EventWriter) (i : Nat) (h : 0 < e.count) : nextIndex e i < 2 * e.count :=
  Nat.mod_lt _ (by omega)

/-- Between C and P a new release index leaves no more unreleased than before (R152). -/
theorem ringInRange_release {e : EventWriter} {new : Nat} (h : releaseValid e new = true) (p : RingInRange e) :
    RingInRange { e with release := new } := by
  obtain ⟨count, produce, release, write, range⟩ := p
  obtain ⟨below, inside⟩ := (Bool.and_eq_true ..).mp h
  have below : new < 2 * e.count := of_decide_eq_true below
  have inside : (new + 2 * e.count - e.release) % (2 * e.count) ≤ unreleased e := of_decide_eq_true inside
  refine ⟨count, produce, below, write, ?_⟩
  unfold unreleased at range inside ⊢
  dsimp only
  have around (a b : Nat) (ha : a < 2 * e.count) (hb : b < 2 * e.count) :
      (a + 2 * e.count - b) % (2 * e.count) = if b ≤ a then a - b else a + 2 * e.count - b := by
    split
    · rw [show a + 2 * e.count - b = a - b + 2 * e.count by omega, Nat.add_mod_right, Nat.mod_eq_of_lt (by omega)]
    · rw [Nat.mod_eq_of_lt (by omega)]
  rw [around _ _ produce release] at range inside
  rw [around _ _ below release] at inside
  rw [around _ _ produce below]
  split_ifs at * <;> omega

theorem ringInRange_produceReleased {p : Params} {ev : Event} {e : EventWriter} (all : e.release = e.produce)
    (h : RingInRange e) : RingInRange (produceReleased p ev e) := by
  obtain ⟨count, produce, release, write, range⟩ := h
  unfold produceReleased
  refine ringInRange_attnTest ⟨count, nextIndex_lt e _ count, nextIndex_lt e _ count, write, ?_⟩
  simp [unreleased, all]

theorem ringInRange_act {s t : State} (a : Act s t) (p : RingInRange s.ev) : RingInRange t.ev := by
  have same (h : t.ev = s.ev) : RingInRange t.ev := h ▸ p
  cases a
  case mild m => exact ringInRange_of_same m.ring p
  case emit ev => exact emit_ringInRange s ev p
  case release => exact same ((releaseBlock_frame s).ev (by decide))
  case drop d => exact same (d.frame.ev (by decide))
  case releaseTo new valid =>
    unfold setRelease
    split
    · exact p
    · exact ringInRange_attnTest (ringInRange_release valid p)
  case produceReleased all => exact ringInRange_produceReleased all p
  case advance =>
    obtain ⟨count, produce, release, _, range⟩ := p
    exact ringInRange_attnTest ⟨count, produce, release, nextIndex_lt _ _ count, range⟩
  case install base count _ valid _ =>
    have pos : 0 < count := by
      simp only [entryCountValid, List.contains_eq_mem, List.mem_cons, List.not_mem_nil, or_false,
        decide_eq_true_eq] at valid
      omega
    exact ringInRange_empty pos rfl rfl rfl
  all_goals exact p

theorem withinCapacity_act {s t : State} (a : Act s t) (p : WithinCapacity s) : WithinCapacity t := by
  rw [withinCapacity_iff] at p ⊢
  obtain ⟨slots, replay, lists, requests, ring⟩ := p
  exact ⟨slotsWithin_act a slots, replayWithin_act a replay, listsWithin_act a lists, requestsWithin_act a requests,
    ringInRange_act a ring⟩

theorem withinCapacity_reset : WithinCapacity State.reset := by
  refine ⟨fun q => by cases q <;> decide, ?_⟩
  exact ⟨by decide, by decide, by decide, by decide, by decide, by decide, by decide,
    ringInRange_empty (by decide) rfl rfl rfl⟩

theorem withinCapacity_of_frame {ps : List Part} {s t : State} (f : SameBut ps s t)
    (out : ∀ x ∈ [Part.capture, .tx, .apply, .resync, .fences, .mem, .cmd, .ev], x ∉ ps) (p : WithinCapacity s) :
    WithinCapacity t := by
  unfold WithinCapacity injectedOutstanding writerOutstanding reservedIn
  rwa [f.capture (out _ (by decide)), f.tx (out _ (by decide)), f.apply (out _ (by decide)),
    f.resync (out _ (by decide)), f.fences (out _ (by decide)), f.mem (out _ (by decide)), f.cmd (out _ (by decide)),
    f.ev (out _ (by decide))]

theorem withinCapacity_step {s t : State} (h : step s = .next t) (p : WithinCapacity s) : WithinCapacity t := by
  refine keeps_step (fun s rest => withinCapacity_of_frame (pending_frame s rest) (by decide)) ?_ ?_
    (fun f => withinCapacity_of_frame f (by decide) withinCapacity_reset) h p
  · refine keeps_moves withinCapacity_act (fun f p => withinCapacity_of_frame f (by decide) p)
      (fun s f replay _ _ p => ?_)
    rw [withinCapacity_iff] at p ⊢
    obtain ⟨slots, _, lists, requests, ring⟩ := p
    exact ⟨slots, by rw [ReplayWithin, State.modTx_tx, replay]; exact Nat.zero_le _, lists, requests, ring⟩
  · refine fun ends p => keeps_loadEnds withinCapacity_act (fun f p => withinCapacity_of_frame f (by decide) p)
      (fun {u} base f => ?_) ends p
    have same : WithinCapacity u := withinCapacity_of_frame f (by decide) p
    rw [withinCapacity_iff] at same ⊢
    obtain ⟨slots, replay, lists, requests, _⟩ := same
    exact ⟨slots, replay, lists, requests, ringInRange_empty (by decide : 0 < 64) rfl rfl rfl⟩

end Sys2Proof.Machine
end

section
/-! PROOFS. Every step keeps the Region Table in shape, the ranges apart, and the account of the entries that memory has
yet to answer (R1, R6, R158). -/

namespace Sys2Proof.Machine

/-! ## The Region Table in shape -/

/-- What O56 says of one entry. -/
def InShape (en : Entry) : Prop :=
  (en.state = .free → en.base = 0 ∧ en.sizeExp = 0) ∧
    (roleOf en.state ≠ .source → en.cls = none ∧ en.peer = 0 ∧ en.cursor = 0) ∧
    (markable en.state = false → en.dirty = [])

theorem entriesInShape_iff (s : State) : EntriesInShape s ↔ ∀ e, InShape (s.entry e) := .rfl

theorem inShape_zero : InShape Entry.zero := ⟨fun _ => ⟨rfl, rfl⟩, fun _ => ⟨rfl, rfl, rfl⟩, fun _ => rfl⟩

theorem roleOf_eq_free (st : RegionState) : roleOf st = .free ↔ st = .free := by cases st <;> decide

theorem inShape_moves {up : Prop} {a b : Entry} (m : EntryMoves up a b) (p : InShape a) : InShape b := by
  obtain rfl | m := m
  · exact inShape_zero
  obtain ⟨free, target, marks⟩ := p
  refine ⟨fun g => ?_, fun g => ?_, fun g => ?_⟩
  · rw [m.base, m.size]
    exact free ((roleOf_eq_free _).mp (m.role ▸ (roleOf_eq_free _).mpr g))
  · obtain ⟨cls, peer, cursor⟩ := target (m.role ▸ g)
    obtain source | same := m.cursor
    · exact absurd (m.role.trans source) g
    · exact ⟨m.cls.trans cls, m.peer.trans peer, same.trans cursor⟩
  · obtain marked | none | ⟨unmarked, same⟩ := m.dirty
    · rw [g] at marked
      cases marked
    · exact none
    · exact same.trans (marks unmarked)

theorem inShape_opens {s : State} {e : RegionIx} {en : Entry} (h : Opens s e en) : InShape en := by
  obtain lagging | ⟨accepting, cls, peer, cursor⟩ := h.shape
  · exact ⟨fun g => by simp [lagging] at g, fun g => by simp [lagging, roleOf] at g, fun _ => h.clean⟩
  · exact ⟨fun g => by simp [accepting] at g, fun _ => ⟨cls, peer, cursor⟩, fun _ => h.clean⟩

theorem entriesInShape_act {s t : State} (a : Act s t) (p : EntriesInShape s) : EntriesInShape t := by
  rw [entriesInShape_iff] at p ⊢
  have same (h : t.regions = s.regions) (e) : InShape (t.entry e) := by
    rw [State.entry, h]
    exact p e
  cases a
  case mild m => exact fun e => inShape_moves (m.entries e) (p e)
  case emit ev => exact same ((emit_frame s ev).regions (by decide))
  case release => exact same ((releaseBlock_frame s).regions (by decide))
  case releaseTo => exact same (by unfold setRelease; split <;> rfl)
  case drop d => exact same (d.frame.regions (by decide))
  case opens e en h =>
    intro i
    rw [entry_setEntry]
    split
    · exact inShape_opens h
    · exact p i
  all_goals exact p

theorem entriesInShape_reset : EntriesInShape State.reset := fun e => by
  rw [show State.reset.entry e = Entry.zero by simp [State.reset, State.entry]]
  exact inShape_zero

theorem entriesInShape_step {s t : State} (h : step s = .next t) (p : EntriesInShape s) : EntriesInShape t := by
  have blind {ps : List Part} (out : Part.regions ∉ ps) {s t : State} (f : SameBut ps s t) (p : EntriesInShape s) :
      EntriesInShape t := fun e => by
    rw [f.entry out]
    exact p e
  exact keeps_step (P := EntriesInShape) (fun s rest => blind (by decide) (pending_frame s rest))
    (keeps_moves entriesInShape_act (blind (by decide)) fun s f _ _ _ p => p)
    (fun ends p => keeps_loadEnds (P := EntriesInShape) entriesInShape_act (blind (by decide))
      (fun {u} base f => (blind (by decide) f p : EntriesInShape u)) ends p)
    (fun f => blind (by decide) f entriesInShape_reset) h p

/-! ## The ranges apart -/

/-- An entry's range shares no byte with another range (R6). -/
def ApartFrom (en : Entry) (lo hi : Nat) : Prop := entryEnd en ≤ lo ∨ hi ≤ en.base.toNat

theorem rangesMeet_eq_false {a aEnd b bEnd : Nat} (h : rangesMeet a aEnd b bEnd = false) : bEnd ≤ a ∨ aEnd ≤ b := by
  simp only [rangesMeet, Bool.and_eq_false_iff, decide_eq_false_iff_not, not_lt] at h
  exact h

theorem apart_of_meetsRegion {s : State} {lo hi : Nat} (h : meetsRegion s lo hi = false) {e : RegionIx}
    (used : (s.entry e).state ≠ .free) : ApartFrom (s.entry e) lo hi := by
  have none := List.any_eq_false.mp h e (List.mem_finRange e)
  simp only [bne_iff_ne, ne_eq, used, not_false_eq_true, Bool.and_eq_true, true_and, Bool.not_eq_true] at none
  exact rangesMeet_eq_false none

theorem rangesApart_iff (s : State) : RangesApart s ↔ ∀ e, (s.entry e).state ≠ .free →
    (∀ e', e' ≠ e → (s.entry e').state ≠ .free →
      ApartFrom (s.entry e) (s.entry e').base.toNat (entryEnd (s.entry e'))) ∧
    ApartFrom (s.entry e) (controlBase s) (controlBase s + 4096) ∧
    ApartFrom (s.entry e) s.ev.ringBase.toNat (ringEnd s) ∧
    ∀ w, s.cmd.writeOut = some w → ApartFrom (s.entry e) w.dest (w.dest + writeOutBytes w.isSnapshot) := .rfl

/-- Entries that keep their ranges or become FREE stay apart from what stays where it is. -/
theorem rangesApart_mono {s t : State} (entries : ∀ e, (t.entry e).state ≠ .free →
      (s.entry e).state ≠ .free ∧ (t.entry e).base = (s.entry e).base ∧ (t.entry e).sizeExp = (s.entry e).sizeExp)
    (control : t.loader.prom.controlBase = s.loader.prom.controlBase) (ring : t.ev.ringBase = s.ev.ringBase)
    (count : t.ev.count = s.ev.count)
    (writeOut : ∀ w, t.cmd.writeOut = some w →
      ∃ v, s.cmd.writeOut = some v ∧ w.dest = v.dest ∧ w.isSnapshot = v.isSnapshot)
    (p : RangesApart s) : RangesApart t := by
  rw [rangesApart_iff] at p ⊢
  intro e used
  obtain ⟨was, base, size⟩ := entries e used
  obtain ⟨others, page, events, out⟩ := p e was
  unfold ApartFrom entryEnd controlBase ringEnd at *
  rw [base, size, control, ring, count]
  refine ⟨fun e' ne used' => ?_, page, events, fun w g => ?_⟩
  · obtain ⟨was', base', size'⟩ := entries e' used'
    rw [base', size']
    exact others e' ne was'
  · obtain ⟨v, going, dest, kind⟩ := writeOut w g
    rw [dest, kind]
    exact out v going

theorem rangesApart_of_frame {ps : List Part} {s t : State} (f : SameBut ps s t)
    (out : ∀ x ∈ [Part.regions, .loader, .cmd, .ev], x ∉ ps) (p : RangesApart s) : RangesApart t :=
  rangesApart_mono (fun e used => by
    rw [f.entry (out _ (by decide))] at used ⊢
    exact ⟨used, rfl, rfl⟩) (by rw [f.loader (out _ (by decide))]) (by rw [f.ev (out _ (by decide))])
    (by rw [f.ev (out _ (by decide))]) (fun w g => ⟨w, by rw [← f.cmd (out _ (by decide)), g], rfl, rfl⟩) p

theorem kept_of_moves {up : Prop} {a b : Entry} (m : EntryMoves up a b) (used : b.state ≠ .free) :
    a.state ≠ .free ∧ b.base = a.base ∧ b.sizeExp = a.sizeExp := by
  obtain rfl | m := m
  · exact absurd rfl used
  · exact ⟨fun g => used ((roleOf_eq_free _).mp (m.role.trans ((roleOf_eq_free _).mpr g))), m.base, m.size⟩

/-- An OPEN has found its range apart from every other (R6). -/
theorem rangesApart_opens {s : State} {e : RegionIx} {en : Entry} (h : Opens s e en) (p : RangesApart s) :
    RangesApart (setEntry s e en) := by
  rw [rangesApart_iff] at p ⊢
  have apart := h.apart
  simp only [openOverlaps, Bool.or_eq_false_iff] at apart
  obtain ⟨⟨⟨⟨regions, control⟩, ring⟩, writeOut⟩, _⟩ := apart
  have symm {lo hi : Nat} (m : rangesMeet en.base.toNat (entryEnd en) lo hi = false) : ApartFrom en lo hi :=
    (rangesMeet_eq_false m).symm
  intro i used
  rw [entry_setEntry] at used
  rw [entry_setEntry]
  by_cases here : i = e
  · rw [if_pos here]
    refine ⟨fun e' ne used' => ?_, symm control, symm ring, fun w g => symm ?_⟩
    · rw [entry_setEntry, if_neg (here ▸ ne)] at used'
      rw [entry_setEntry, if_neg (here ▸ ne)]
      exact (apart_of_meetsRegion regions used').symm
    · have g : s.cmd.writeOut = some w := g
      unfold meetsWriteOut at writeOut
      rwa [g] at writeOut
  · rw [if_neg here] at used
    rw [if_neg here]
    obtain ⟨others, page, events, out⟩ := p i used
    refine ⟨fun e' ne used' => ?_, page, events, out⟩
    rw [entry_setEntry] at used'
    rw [entry_setEntry]
    by_cases there : e' = e
    · rw [if_pos there]
      exact apart_of_meetsRegion regions used
    · rw [if_neg there] at used'
      rw [if_neg there]
      exact others e' ne used'

theorem rangesApart_install {s : State} {base count : Nat} (valid : addressValid base = true)
    (apart : ringOverlaps s base (base + 32 * count) = false) (p : RangesApart s) : RangesApart (installRing s base count) := by
  rw [rangesApart_iff] at p ⊢
  simp only [ringOverlaps, Bool.or_eq_false_iff] at apart
  intro e used
  obtain ⟨others, page, _, out⟩ := p e used
  refine ⟨others, page, ?_, out⟩
  have low : (BitVec.ofNat 40 base).toNat = base := by
    rw [BitVec.toNat_ofNat, Nat.mod_eq_of_lt (by simpa [addressValid] using valid)]
  show ApartFrom (s.entry e) (BitVec.ofNat 40 base).toNat ((BitVec.ofNat 40 base).toNat + 32 * count)
  rw [low]
  exact apart_of_meetsRegion apart.1.1 used

theorem rangesApart_writeOut {s : State} {w : WriteOut}
    (apart : writeOutOverlaps s w.dest (w.dest + writeOutBytes w.isSnapshot) = false) (p : RangesApart s) :
    RangesApart (s.modCmd fun c => { c with writeOut := some w }) := by
  rw [rangesApart_iff] at p ⊢
  simp only [writeOutOverlaps, Bool.or_eq_false_iff] at apart
  intro e used
  obtain ⟨others, page, events, _⟩ := p e used
  refine ⟨others, page, events, fun v g => ?_⟩
  obtain rfl : w = v := Option.some.inj g
  exact apart_of_meetsRegion apart.1.1 used

theorem rangesApart_act {s t : State} (a : Act s t) (p : RangesApart s) : RangesApart t := by
  have ringKept {ps : List Part} (f : SameBut ps s t) (out : ∀ x ∈ [Part.regions, .loader, .cmd], x ∉ ps)
      (ring : t.ev.ringBase = s.ev.ringBase) (count : t.ev.count = s.ev.count) : RangesApart t :=
    rangesApart_mono (fun e used => by
      rw [f.entry (out _ (by decide))] at used ⊢
      exact ⟨used, rfl, rfl⟩) (by rw [f.loader (out _ (by decide))]) ring count
      (fun w g => ⟨w, by rw [← f.cmd (out _ (by decide)), g], rfl, rfl⟩) p
  cases a
  case mild m =>
    exact rangesApart_mono (fun e used => kept_of_moves (m.entries e) used) m.control m.ring.base m.ring.count m.writeOut p
  case emit ev => exact ringKept (emit_frame s ev) (by decide) (emit_ringBase s ev) (emit_count s ev)
  case release => exact rangesApart_of_frame (releaseBlock_frame s) (by decide) p
  case drop d => exact rangesApart_of_frame d.frame (by decide) p
  case releaseTo new _ =>
    unfold setRelease at ringKept ⊢
    split
    · exact p
    · rename_i h
      rw [if_neg h] at ringKept
      exact ringKept (modEv_frame s _) (by decide) (by simp) (by simp)
  case produceReleased => exact ringKept (modEv_frame s _) (by decide) (attnTest_ringBase ..) (attnTest_count ..)
  case advance =>
    exact ringKept (((modMem_frame s _).mono rfl).then (advanceWrite_frame _) rfl : SameBut [.mem, .ev] s _) (by decide)
      (attnTest_ringBase ..) (attnTest_count ..)
  case opens h => exact rangesApart_opens h p
  case install valid _ apart => exact rangesApart_install valid apart p
  case writeOut apart => exact rangesApart_writeOut apart p
  all_goals exact p

theorem rangesApart_of_free {s : State} (h : ∀ e, (s.entry e).state = .free) : RangesApart s := fun e used =>
  absurd (h e) used

theorem free_of_regions {s : State} (h : s.regions = State.reset.regions) (e : RegionIx) : (s.entry e).state = .free := by
  rw [State.entry, h]
  simp [State.reset, Entry.zero]

theorem loadEnds_frame {s t : State} (h : LoadEnds s t) : SameBut [.loader, .params, .ev, .session, .mem, .stats] s t := by
  obtain ⟨_, image, rfl⟩ := h
  split
  · unfold loadSucceeds
    dsimp only
    refine ((SameBut.then ((((((modLoader_frame s _).mono rfl).then (modLoader_frame _ _) rfl).then (modParams_frame _ _)
      rfl).then (modEv_frame _ _) rfl).then (emit_frame _ _) rfl) (modSession_frame _ _) rfl)).then (endHoldOf_frame _ _) rfl
  · exact (((modLoader_frame s _).mono rfl).then (modLoader_frame _ _) rfl).then (endHoldOf_frame _ _) rfl

/-- A part whose load runs is quiet: it is as power-on leaves it, but for the loader and the Memory Path. -/
theorem quiet_of_loadEnds {s t : State} (quiet : QuietUntilRunning s) (h : LoadEnds s t) :
    SameBut [.pending, .resetN, .loader, .mem, .out, .freeCount] State.reset s ∧
      ∀ r ∈ s.mem.outstanding, r.source = .passThrough := by
  have loading := loading_of_loadRunning h.1
  obtain ⟨frame, _, _, pass, _⟩ := quiet (by simp [loading])
  exact ⟨frame, pass⟩

theorem quietUntilRunning_pending {s : State} (rest : List Instr) (quiet : QuietUntilRunning s) :
    QuietUntilRunning { s with pending := rest } := fun running =>
  let ⟨frame, hold⟩ := quiet running
  ⟨frame.then (pending_frame s rest) rfl, hold⟩

theorem rangesApart_step {s t : State} (quiet : QuietUntilRunning s) (h : step s = .next t) (p : RangesApart s) :
    RangesApart t := by
  obtain ⟨rest, moves | ends | reset⟩ := step_moves h
  · exact keeps_moves rangesApart_act (fun f p => rangesApart_of_frame f (by decide) p) (fun s f _ _ _ p => p) moves
      (rangesApart_of_frame (pending_frame s rest) (by decide) p)
  · obtain ⟨frame, _⟩ := quiet_of_loadEnds (quietUntilRunning_pending rest quiet) ends
    exact rangesApart_of_free fun e =>
      free_of_regions (((loadEnds_frame ends).regions (by decide)).trans (frame.regions (by decide))) e
  · exact rangesApart_of_free fun e => free_of_regions (reset.frame.regions (by decide)) e

/-! ## The entries that memory has yet to answer -/

/-- A request that writes an entry of the current ring. -/
def MemRequest.currentEntry (r : MemRequest) : Bool := r.source == .writer (.entry true)

theorem entriesAccounted_iff (s : State) : EntriesAccounted s ↔
    s.ev.unwritten = (s.ev.list.filter EventItem.current).length +
      (s.mem.outstanding.filter MemRequest.currentEntry).length ∧
    s.ev.produce = (s.ev.write + s.ev.unwritten) % (2 * s.ev.count) := .rfl

theorem injected_of_currentEntry (r : MemRequest) (h : r.currentEntry = true) : r.injected = true := by
  rw [MemRequest.injected, eq_of_beq h]
  rfl

theorem filter_currentEntry (l : List MemRequest) :
    l.filter MemRequest.currentEntry = (l.filter MemRequest.injected).filter MemRequest.currentEntry := by
  rw [List.filter_filter]
  congr 1
  funext r
  cases h : r.currentEntry
  · rfl
  · rw [injected_of_currentEntry r h]
    rfl

theorem entriesAccounted_of_same {s t : State} (ring : SameRing s.ev t.ev)
    (requests : t.mem.outstanding.filter MemRequest.currentEntry = s.mem.outstanding.filter MemRequest.currentEntry)
    (p : EntriesAccounted s) : EntriesAccounted t := by
  rw [entriesAccounted_iff] at p ⊢
  rwa [requests, ring.list, ring.unwritten, ring.produce, ring.write, ring.count]

/-- One index further P is one more entry past W. -/
theorem produced_next {p w u n : Nat} (h : p = (w + u) % (2 * n)) : (p + 1) % (2 * n) = (w + (u + 1)) % (2 * n) := by
  rw [h, Nat.mod_add_mod, Nat.add_assoc]

theorem entriesAccounted_produced {s : State} {p : Params} {ev : Event} {n release : Nat} (h : EntriesAccounted s) :
    EntriesAccounted (s.modEv fun e => attnTest p n
      { e with list := e.list ++ [newItem e ev], produce := nextIndex e e.produce, unwritten := e.unwritten + 1,
               release := release }) := by
  rw [entriesAccounted_iff] at h ⊢
  obtain ⟨count, produce⟩ := h
  simp only [State.modEv_ev, State.modEv_mem, attnTest_list, attnTest_unwritten, attnTest_produce, attnTest_write,
    attnTest_count, List.filter_append, List.length_append]
  refine ⟨?_, produced_next produce⟩
  rw [count, show [newItem s.ev ev].filter EventItem.current = [newItem s.ev ev] from rfl, List.length_singleton]
  omega

theorem entriesAccounted_act {s t : State} (a : Act s t) (p : EntriesAccounted s) : EntriesAccounted t := by
  have same (h : t.ev = s.ev) (g : t.mem.outstanding = s.mem.outstanding) : EntriesAccounted t :=
    entriesAccounted_of_same (h ▸ .refl _) (by rw [g]) p
  cases a
  case mild m =>
    exact entriesAccounted_of_same m.ring (by rw [filter_currentEntry, m.injected, ← filter_currentEntry]) p
  case emit ev =>
    by_cases room : unreleased s.ev < s.ev.count
    · rw [emit_of_room s ev room]
      exact entriesAccounted_produced (release := s.ev.release) p
    · rw [emit_of_full s ev room]
      exact entriesAccounted_of_same ⟨rfl, rfl, rfl, rfl, rfl, rfl, rfl⟩ rfl p
  case produceReleased p' ev _ => exact entriesAccounted_produced (release := nextIndex s.ev s.ev.release) p
  case release => exact same ((releaseBlock_frame s).ev (by decide)) (holdEnds_releaseBlock s).outstanding
  case drop d => exact same (d.frame.ev (by decide)) (by rw [d.frame.mem (by decide)])
  case releaseTo new _ =>
    unfold setRelease
    split
    · exact p
    · rw [entriesAccounted_iff] at p ⊢
      simpa using p
  case inject i source form _ h =>
    refine entriesAccounted_of_same (.refl s.ev) ?_ p
    show (s.mem.outstanding ++ [_]).filter _ = _
    obtain rfl | rfl := h <;> simp [MemRequest.currentEntry]
  case writeLine =>
    refine entriesAccounted_of_same (.refl s.ev) ?_ p
    show (s.mem.outstanding ++ [_]).filter _ = _
    simp [MemRequest.currentEntry]
  case writeEntry it rest form _ _ list =>
    rw [entriesAccounted_iff] at p ⊢
    obtain ⟨count, produce⟩ := p
    refine ⟨?_, produce⟩
    show s.ev.unwritten = (rest.filter _).length + ((s.mem.outstanding ++ [_]).filter _).length
    rw [count, list, List.filter_append, List.length_append]
    cases current : it.current
    · simp [current, MemRequest.currentEntry]
    · simp [current, MemRequest.currentEntry]
      omega
  case answer r rest oldest other =>
    refine entriesAccounted_of_same (.refl s.ev) ?_ p
    show rest.filter _ = _
    rw [oldest, List.filter_cons_of_neg (by simpa [MemRequest.currentEntry] using other)]
  case advance r rest oldest source =>
    rw [entriesAccounted_iff] at p ⊢
    obtain ⟨count, produce⟩ := p
    rw [oldest, List.filter_cons_of_pos (by simp [MemRequest.currentEntry, source]), List.length_cons] at count
    simp only [advanceWrite, State.modEv_ev, State.modEv_mem, State.modMem_ev, State.modMem_mem, attnTest_list,
      attnTest_unwritten, attnTest_produce, attnTest_write, attnTest_count]
    refine ⟨by omega, ?_⟩
    rw [produce, nextIndex, Nat.mod_add_mod]
    congr 1
    omega
  case install base n _ _ _ =>
    rw [entriesAccounted_iff]
    have noEntry : (s.ev.list.map fun it => { it with current := false }).filter EventItem.current = [] := by simp
    have noRequest : (s.mem.outstanding.map MemRequest.replaced).filter MemRequest.currentEntry = [] := by
      rw [List.filter_eq_nil_iff]
      intro r m
      obtain ⟨⟨source, _, _⟩, _, rfl⟩ := List.mem_map.mp m
      cases source with
      | writer item => cases item <;> simp [MemRequest.replaced, MemRequest.currentEntry]
      | passThrough | apply | resync => simp [MemRequest.replaced, MemRequest.currentEntry]
    refine ⟨?_, (Nat.zero_mod _).symm⟩
    show 0 = ((s.ev.list.map fun it => { it with current := false }).filter EventItem.current).length +
      ((s.mem.outstanding.map MemRequest.replaced).filter MemRequest.currentEntry).length
    rw [noEntry, noRequest]
    rfl
  all_goals exact p

theorem entriesAccounted_of_frame {ps : List Part} {s t : State} (f : SameBut ps s t) (ev : Part.ev ∉ ps)
    (mem : Part.mem ∉ ps) (p : EntriesAccounted s) : EntriesAccounted t := by
  rwa [EntriesAccounted, f.ev ev, f.mem mem]

/-- A ring with nothing in its list and nothing outstanding accounts for nothing. -/
theorem entriesAccounted_empty {s : State} (list : s.ev.list = [])
    (requests : ∀ r ∈ s.mem.outstanding, r.source = .passThrough) (unwritten : s.ev.unwritten = 0)
    (produce : s.ev.produce = 0) (write : s.ev.write = 0) : EntriesAccounted s := by
  rw [entriesAccounted_iff, list, unwritten, produce, write]
  refine ⟨?_, (Nat.zero_mod _).symm⟩
  rw [(List.filter_eq_nil_iff (p := MemRequest.currentEntry)).mpr fun r m => by
    simp [MemRequest.currentEntry, requests r m]]
  rfl

theorem entriesAccounted_step {s t : State} (quiet : QuietUntilRunning s) (h : step s = .next t)
    (p : EntriesAccounted s) : EntriesAccounted t := by
  have blind {ps : List Part} (ev : Part.ev ∉ ps) (mem : Part.mem ∉ ps) {s t : State} (f : SameBut ps s t)
      (p : EntriesAccounted s) : EntriesAccounted t := entriesAccounted_of_frame f ev mem p
  obtain ⟨rest, moves | ends | reset⟩ := step_moves h
  · exact keeps_moves entriesAccounted_act (blind (by decide) (by decide)) (fun s f _ _ _ p => p) moves
      (blind (by decide) (by decide) (pending_frame s rest) p)
  · obtain ⟨frame, pass⟩ := quiet_of_loadEnds (quietUntilRunning_pending rest quiet) ends
    refine keeps_loadEnds (P := EntriesAccounted) entriesAccounted_act (blind (by decide) (by decide))
      (fun base f => entriesAccounted_empty ?_ ?_ rfl rfl rfl) ends
      (entriesAccounted_of_frame (pending_frame s rest) (by decide) (by decide) p)
    · rw [State.modEv_ev, f.ev (by decide), frame.ev (by decide)]
      rfl
    · rwa [State.modEv_mem, f.mem (by decide)]
  · exact blind (by decide) (by decide) reset.frame (entriesAccounted_empty rfl (fun _ m => by cases m) rfl rfl rfl)

/-! ## The visible count -/

/-- W lies as many indices before P as entries are unanswered, so past C as many as are unreleased and answered. -/
theorem visible_eq {e : EventWriter} (range : RingInRange e) (account : e.produce = (e.write + e.unwritten) % (2 * e.count))
    (h : e.unwritten ≤ unreleased e) : visible e = (e.write + 2 * e.count - e.release) % (2 * e.count) := by
  obtain ⟨count, produce, release, write, within⟩ := range
  unfold visible
  have around (a : Nat) (ha : a < 2 * e.count) :
      (a + 2 * e.count - e.release) % (2 * e.count) = if e.release ≤ a then a - e.release else a + 2 * e.count - e.release := by
    split
    · rw [show a + 2 * e.count - e.release = a - e.release + 2 * e.count by omega, Nat.add_mod_right,
        Nat.mod_eq_of_lt (by omega)]
    · rw [Nat.mod_eq_of_lt (by omega)]
  unfold unreleased at h within ⊢
  rw [around _ produce] at h within ⊢
  rw [around _ write]
  have wrap : e.produce = if e.write + e.unwritten < 2 * e.count then e.write + e.unwritten
      else e.write + e.unwritten - 2 * e.count := by
    rw [account]
    split
    · exact Nat.mod_eq_of_lt ‹_›
    · rw [Nat.mod_eq_sub_mod (by omega), Nat.mod_eq_of_lt (by split_ifs at h within <;> omega)]
  split_ifs at * <;> omega

end Sys2Proof.Machine
end

section
/-! PROOFS. Every step keeps one holder for each block buffer (R82), and, outside UP, no source MIRRORED and no fence
pending (R10, R105). -/

namespace Sys2Proof.Machine

/-! ## The holders of the block buffers -/

/-- Each buffer held has one holder. -/
def BuffersHeldOnce (s : State) : Prop :=
  (heldBuffers s).Nodup ∧ ∀ b : Fin 4, (s.resync.buffers)[b] ≠ none ↔ b ∈ heldBuffers s

/-- The reservation is that of the block in READING or DISCARDING, and one in DISCARDING has no segment. -/
def BlockReserved (r : Resync) : Prop :=
  (r.reserved ≠ none ↔ r.block = .reading ∨ r.block = .discarding) ∧ (r.block = .discarding → r.segment = none)

def ReplayInSession (s : State) : Prop := inSession s = false → s.tx.replay = []

theorem buffersAccounted_iff (s : State) : BuffersAccounted s ↔
    BuffersHeldOnce s ∧ BlockReserved s.resync ∧ ReplayInSession s := by
  unfold BuffersAccounted BuffersHeldOnce BlockReserved ReplayInSession
  tauto

/-- The same holders, in any order, hold the same buffers. -/
theorem buffersHeldOnce_of_perm {s t : State} (holders : (heldBuffers t).Perm (heldBuffers s))
    (buffers : ∀ b : Fin 4, (t.resync.buffers)[b] = none ↔ (s.resync.buffers)[b] = none) (p : BuffersHeldOnce s) :
    BuffersHeldOnce t :=
  ⟨holders.nodup_iff.mpr p.1, fun b => by rw [ne_eq, buffers, ← ne_eq, p.2, holders.mem_iff]⟩

/-- The records held, with one queue first. -/
theorem heldBuffers_perm (s : State) (q : QueueClass) : (heldBuffers s).Perm
    ((s.capture.queueOf q).filterMap Record.buffer ++
      ((s.capture.queueOf (otherQueue q) ++
        s.tx.replay.map Replayed.record).filterMap Record.buffer ++ (s.resync.reserved.map Prod.fst).toList)) := by
  rw [heldBuffers, ← List.append_assoc, ← List.filterMap_append]
  exact ((heldRecords_perm s q).filterMap _).append_right _

theorem buffer_of_bufferFree {r : Record} (h : r.body.bufferFree) : r.buffer = none := by
  unfold Record.buffer
  split
  next body =>
    rw [body] at h
    exact h.elim
  · rfl
  · rfl

/-- A queue whose records hold the same buffers leaves the holders as they are. -/
theorem buffersHeldOnce_of_queue {s t : State} (q : QueueClass) (other : t.capture.queueOf (otherQueue q) = s.capture.queueOf (otherQueue q))
    (holders : (t.capture.queueOf q).filterMap Record.buffer = (s.capture.queueOf q).filterMap Record.buffer)
    (tx : t.tx = s.tx) (resync : t.resync = s.resync) (p : BuffersHeldOnce s) : BuffersHeldOnce t := by
  refine buffersHeldOnce_of_perm ?_ (fun b => by rw [resync]) p
  refine (heldBuffers_perm t q).trans (.trans (.of_eq ?_) (heldBuffers_perm s q).symm)
  rw [holders, other, tx, resync]

theorem mem_heldBuffers_of_reserved {s : State} {b : Fin 4} {q : QueueClass} (h : s.resync.reserved = some (b, q)) :
    b ∈ heldBuffers s := by simp [heldBuffers, h]

theorem resync_releaseBlock_of_none {s : State} (h : s.resync.reserved = none) :
    (releaseBlock s).resync = { s.resync with block := .idle, issued := 0, taken := 0 } := by
  unfold releaseBlock
  rw [h]
  rfl

theorem resync_releaseBlock_of_some {s : State} {b : Fin 4} {q : QueueClass} (h : s.resync.reserved = some (b, q)) :
    (releaseBlock s).resync = { s.resync with
      block := .idle, issued := 0, taken := 0, reserved := none
      toDiscard := s.resync.toDiscard + (s.resync.issued - s.resync.taken)
      buffers := setAt s.resync.buffers b none } := by
  unfold releaseBlock
  rw [h]
  dsimp only
  rw [(slotFreed_frame _ _).resync (by decide), (endHoldOf_frame _ _).resync (by decide)]
  rfl

/-- A released block frees its buffer, of which it was the holder. -/
theorem buffersHeldOnce_releaseBlock {s : State} (p : BuffersHeldOnce s) : BuffersHeldOnce (releaseBlock s) := by
  have frame := releaseBlock_frame s
  have records : heldRecords (releaseBlock s) = heldRecords s := by
    rw [heldRecords, heldRecords, frame.capture (by decide), frame.tx (by decide)]
  cases reserved : s.resync.reserved with
  | none =>
    refine buffersHeldOnce_of_perm (.of_eq ?_) (fun b => by rw [resync_releaseBlock_of_none reserved]) p
    rw [heldBuffers, heldBuffers, records, resync_releaseBlock_of_none reserved]
  | some held =>
    obtain ⟨b, q⟩ := held
    obtain ⟨nodup, buffers⟩ := p
    have before : heldBuffers s = (heldRecords s).filterMap Record.buffer ++ [b] := by simp [heldBuffers, reserved]
    have after : heldBuffers (releaseBlock s) = (heldRecords s).filterMap Record.buffer := by
      rw [heldBuffers, records, resync_releaseBlock_of_some reserved]
      simp
    rw [before] at nodup buffers
    obtain ⟨once, _, apart⟩ := List.nodup_append.mp nodup
    rw [BuffersHeldOnce, after]
    refine ⟨once, fun i => ?_⟩
    rw [resync_releaseBlock_of_some reserved, getElem_setAt]
    by_cases here : i = b
    · rw [if_pos here]
      exact iff_of_false (by simp) fun m => apart i m b (by simp) here
    · rw [if_neg here, buffers i]
      simp [here]

/-- Records that leave free their buffers, of which they were the holders. -/
theorem buffersHeldOnce_drops {s t : State} {gone : List Record} (d : Drops s t gone) (p : BuffersHeldOnce s) :
    BuffersHeldOnce t := by
  obtain ⟨nodup, buffers⟩ := p
  have holders : (heldBuffers s).Perm (gone.filterMap Record.buffer ++ heldBuffers t) := by
    rw [heldBuffers, heldBuffers, d.resync, ← List.append_assoc, ← List.filterMap_append]
    exact (d.held.filterMap _).append_right _
  obtain ⟨_, once, apart⟩ := List.nodup_append.mp (holders.nodup_iff.mp nodup)
  refine ⟨once, fun b => ?_⟩
  rw [ne_eq, d.freed b, not_or, ← ne_eq, buffers b, holders.mem_iff, List.mem_append, List.mem_filterMap]
  constructor
  · rintro ⟨free | held, stays⟩
    · exact absurd free stays
    · exact held
  · exact fun held => ⟨.inr held, fun free => apart b (List.mem_filterMap.mpr free) b held rfl⟩

theorem buffersHeldOnce_act {s t : State} (a : Act s t) (reserved : BlockReserved s.resync) (p : BuffersHeldOnce s) :
    BuffersHeldOnce t := by
  have same {ps : List Part} (f : SameBut ps s t) (out : ∀ x ∈ [Part.capture, .tx, .resync], x ∉ ps) :
      BuffersHeldOnce t := by
    unfold BuffersHeldOnce heldBuffers heldRecords
    rwa [f.capture (out _ (by decide)), f.tx (out _ (by decide)), f.resync (out _ (by decide))]
  cases a
  case mild m =>
    refine buffersHeldOnce_of_perm (.of_eq ?_) m.resync.buffers p
    rw [heldBuffers, heldBuffers, heldRecords, heldRecords, m.sync, m.async, m.replay, m.resync.reserved]
  case emit ev => exact same (emit_frame s ev) (by decide)
  case release => exact buffersHeldOnce_releaseBlock p
  case releaseTo new _ =>
    unfold setRelease at same ⊢
    split
    · exact p
    · exact p
  case drop d => exact buffersHeldOnce_drops d p
  case append q body room free =>
    refine buffersHeldOnce_of_queue (s := s) q (queueOf_other_setQueue ..) ?_ rfl rfl p
    · show ((s.capture.setQueue q _).queueOf q).filterMap _ = _
      rw [queueOf_setQueue, if_pos rfl, List.filterMap_append]
      simp [buffer_of_bufferFree (r := ⟨s.capture.counter, body⟩) free]
  case merge q before r r' tail free free' =>
    refine buffersHeldOnce_of_queue (s := s) q (queueOf_other_setQueue ..) ?_ rfl rfl p
    · show ((s.capture.setQueue q _).queueOf q).filterMap _ = _
      rw [queueOf_setQueue, if_pos rfl, tail, List.filterMap_append, List.filterMap_append]
      simp [buffer_of_bufferFree free, buffer_of_bufferFree free']
  case start b q waiting free _ =>
    obtain ⟨nodup, buffers⟩ := p
    have none : s.resync.reserved = none := by
      by_contra held
      obtain h | h := reserved.1.mp held <;> rw [waiting] at h <;> cases h
    have fresh : b ∉ heldBuffers s := fun m => (buffers b).mpr m free
    have before : heldBuffers s = (heldRecords s).filterMap Record.buffer := by simp [heldBuffers, none]
    have after : heldBuffers (s.modResync fun r => { r with
        block := .reading, issued := 0, taken := 0, reserved := some (b, q), buffers := setAt r.buffers b (some 0) }) =
        heldBuffers s ++ [b] := by
      rw [before]
      rfl
    rw [BuffersHeldOnce, after]
    refine ⟨nodup.append (List.nodup_singleton b) (by simpa using fresh), fun i => ?_⟩
    rw [State.modResync_resync, getElem_setAt, List.mem_append, List.mem_singleton]
    by_cases here : i = b
    · rw [if_pos here]
      exact iff_of_true (by simp) (.inr here)
    · rw [if_neg here, buffers i]
      simp [here]
  case finish b q e peer n more segment held =>
    refine buffersHeldOnce_of_perm (s := s) ?_ (fun _ => .rfl) p
    refine (heldBuffers_perm _ q).trans (.trans ?_ (heldBuffers_perm s q).symm)
    have added : ((appendRecord s q (.block e peer n b)).capture.queueOf q) =
        s.capture.queueOf q ++ [⟨s.capture.counter, .block e peer n b⟩] := by cases q <;> rfl
    have other : (appendRecord s q (.block e peer n b)).capture.queueOf (otherQueue q) =
        s.capture.queueOf (otherQueue q) := queueOf_other_setQueue ..
    simp only [State.modResync_capture, State.modResync_tx, State.modResync_resync, added, other, held]
    rw [List.filterMap_append, List.append_assoc]
    refine List.Perm.append_left _ ?_
    exact List.perm_append_comm.trans (by simp [Record.buffer, appendRecord])
  case transmit q r rest timer run head _ _ _ =>
    refine buffersHeldOnce_of_perm (s := s) ?_ (fun _ => .rfl) p
    refine (heldBuffers_perm _ q).trans (.trans ?_ (heldBuffers_perm s q).symm)
    simp only [State.modTx_capture, State.modTx_tx, State.modTx_resync, State.modCapture_capture, State.modCapture_tx,
      State.modCapture_resync, queueOf_other_setQueue]
    rw [queueOf_setQueue, if_pos rfl, head, List.tail_cons]
    rw [← List.append_assoc, ← List.append_assoc, ← List.filterMap_append, ← List.filterMap_append]
    refine List.Perm.append_right _ (List.Perm.filterMap _ ?_)
    rw [List.map_append, List.map_singleton, ← List.append_assoc, ← List.append_assoc]
    exact (List.perm_append_singleton ..).trans (.of_eq (by rw [List.append_assoc, List.cons_append]))
  all_goals exact p

theorem blockReserved_act {s t : State} (a : Act s t) (p : BlockReserved s.resync) : BlockReserved t.resync := by
  have same (h : t.resync = s.resync) : BlockReserved t.resync := h ▸ p
  cases a
  case mild m =>
    refine ⟨by rw [m.resync.reserved, m.resync.block, p.1], fun g => ?_⟩
    obtain ⟨discarding, none⟩ := m.resync.discarding g
    exact none (p.2 discarding)
  case emit ev => exact same ((emit_frame s ev).resync (by decide))
  case release =>
    refine ⟨iff_of_false (fun g => g (reserved_releaseBlock s)) ?_, fun g => ?_⟩
    · rw [block_releaseBlock]
      rintro (g | g) <;> cases g
    · rw [block_releaseBlock] at g
      cases g
  case releaseTo => exact same (by unfold setRelease; split <;> rfl)
  case drop d => rw [d.resync]; exact p
  case start => exact ⟨iff_of_true (by simp) (.inl rfl), fun g => by cases g⟩
  case abandon sg segment =>
    have going : s.resync.block ≠ .discarding := fun g => by simp [p.2 g] at segment
    refine ⟨?_, fun _ => rfl⟩
    show s.resync.reserved ≠ none ↔ _
    rw [p.1, State.modResync_resync]
    by_cases reading : s.resync.block = .reading
    · simp [reading]
    · simp [reading, going]
  case finish more _ _ =>
    refine ⟨iff_of_false (by simp) ?_, fun g => ?_⟩
    · rintro (g | g) <;> cases more <;> cases g
    · cases more <;> cases g
  all_goals exact same rfl

theorem session_act {s t : State} (a : Act s t) : t.session.state = s.session.state := by
  cases a
  case mild m => exact m.session
  case emit ev => rw [(emit_frame s ev).session (by decide)]
  case release => rw [(releaseBlock_frame s).session (by decide)]
  case releaseTo => unfold setRelease; split <;> rfl
  case drop d => rw [d.frame.session (by decide)]
  all_goals rfl

theorem inSession_act {s t : State} (a : Act s t) : inSession t = inSession s := by
  rw [inSession, inSession, session_act a]

theorem replayInSession_act {s t : State} (a : Act s t) (p : ReplayInSession s) : ReplayInSession t := by
  intro out
  rw [inSession_act a] at out
  have empty := p out
  have same (h : t.tx = s.tx) : t.tx.replay = [] := h ▸ empty
  cases a
  case mild m => exact m.replay.trans empty
  case emit ev => exact same ((emit_frame s ev).tx (by decide))
  case release => exact same ((releaseBlock_frame s).tx (by decide))
  case releaseTo => exact same (by unfold setRelease; split <;> rfl)
  case drop d => exact List.suffix_nil.mp (empty ▸ d.replay)
  case transmit session _ => exact absurd session (by simp [out])
  all_goals exact empty

theorem buffersAccounted_act {s t : State} (a : Act s t) (p : BuffersAccounted s) : BuffersAccounted t := by
  rw [buffersAccounted_iff] at p ⊢
  obtain ⟨once, reserved, replay⟩ := p
  exact ⟨buffersHeldOnce_act a reserved once, blockReserved_act a reserved, replayInSession_act a replay⟩

/-- The holders are kept through any change of the session. -/
theorem holders_acts {s t : State} (h : Acts s t) (p : BuffersHeldOnce s ∧ BlockReserved s.resync) :
    BuffersHeldOnce t ∧ BlockReserved t.resync :=
  h.keeps (P := fun s => BuffersHeldOnce s ∧ BlockReserved s.resync)
    (fun a p => ⟨buffersHeldOnce_act a p.2 p.1, blockReserved_act a p.2⟩) p

theorem holders_of_frame {ps : List Part} {s t : State} (f : SameBut ps s t)
    (out : ∀ x ∈ [Part.capture, .tx, .resync], x ∉ ps) (p : BuffersHeldOnce s ∧ BlockReserved s.resync) :
    BuffersHeldOnce t ∧ BlockReserved t.resync := by
  unfold BuffersHeldOnce heldBuffers heldRecords
  rwa [f.capture (out _ (by decide)), f.tx (out _ (by decide)), f.resync (out _ (by decide))]

theorem buffersAccounted_of_frame {ps : List Part} {s t : State} (f : SameBut ps s t)
    (out : ∀ x ∈ [Part.capture, .tx, .resync, .session], x ∉ ps) (p : BuffersAccounted s) : BuffersAccounted t := by
  unfold BuffersAccounted heldBuffers heldRecords inSession
  rwa [f.capture (out _ (by decide)), f.tx (out _ (by decide)), f.resync (out _ (by decide)),
    f.session (out _ (by decide))]

theorem buffersAccounted_reset {s : State} (f : SameBut [.pending, .resetN, .loader, .out, .freeCount] State.reset s) :
    BuffersAccounted s := by
  refine buffersAccounted_of_frame f (by decide) ⟨.nil, fun b => ?_, by simp [State.reset], by simp [State.reset],
    fun _ => rfl⟩
  exact iff_of_false (by simp [State.reset]) (by simp [heldBuffers, heldRecords, State.reset])

/-! ## What RESTART leaves of the replay list -/

theorem replay_restartQueues (s : State) : (restartQueues s).tx.replay = [] := by
  unfold restartQueues
  dsimp only
  rw [State.modCapture_tx, (convertQueues_frame false _).tx (by decide), State.modTx_tx, replay_convertReplay]

theorem restartResync_tx (s : State) : (restartResync s).tx = s.tx := by
  unfold restartResync
  dsimp only
  rw [State.modResync_tx, (releaseDiscarding_frame _).tx (by decide)]
  split
  · rw [State.modResync_tx, (mark_frame _ _ _).tx (by decide), (releaseBlock_frame _).tx (by decide)]
  · rfl

/-- Behind step 3 a RESTART leaves the Link Transmitter alone. -/
theorem restart_tx (s : State) (tag : BitVec 16) :
    (restart s tag).tx = (restartQueues (restartRegions (restartSession (clearStats s)))).tx := by
  have releasing (u : State) : (restartReleasing u).tx = u.tx :=
    (SameBut.foldl (fun t e => releaseEntry_frame t e) entryList u).tx (by decide)
  have commands (u : State) : (restartCommands u tag).tx = u.tx := rfl
  unfold restart restartHead
  dsimp only
  rw [(finishRestart_frame _).tx (by decide), (endHoldOf_frame _ _).tx (by decide), (endHoldOf_frame _ _).tx (by decide),
    releasing, commands, (restartApply_frame _).tx (by decide), State.modFences_tx, restartResync_tx]

theorem replay_restart (s : State) (tag : BitVec 16) : (restart s tag).tx.replay = [] := by
  rw [restart_tx, replay_restartQueues]

/-! ## The moves -/

theorem buffersAccounted_move {s t : State} (m : Move s t) (p : BuffersAccounted s) : BuffersAccounted t := by
  have holders : BuffersHeldOnce s ∧ BlockReserved s.resync := by
    rw [buffersAccounted_iff] at p
    exact ⟨p.1, p.2.1⟩
  have ended (h : BuffersHeldOnce t ∧ BlockReserved t.resync) (replay : t.tx.replay = []) : BuffersAccounted t :=
    (buffersAccounted_iff t).mpr ⟨h.1, h.2, fun _ => replay⟩
  have session (f : Session → Session) : BuffersHeldOnce (s.modSession f) ∧ BlockReserved (s.modSession f).resync :=
    holders_of_frame (modSession_frame s f) (by decide) holders
  have out (h : inSession s = false) : s.tx.replay = [] := ((buffersAccounted_iff s).mp p).2.2 h
  cases m
  case act a => exact buffersAccounted_act a p
  case lose _ c part =>
    obtain ⟨⟨_, _, replay, _⟩, _⟩ := sessionEnded_loseSession s c part
    refine ended (holders_acts (acts_loseSession s c part) ?_) replay
    unfold sessionLeft
    split <;> exact session _
  case call h => exact ended (session _) (out (by simp [inSession, h]))
  case stop h => exact ended (session _) (out (by simp [inSession, h]))
  case accept h epoch =>
    have replay := out (by simp [inSession, h])
    refine ended (holders_acts (t := enterUp s epoch) ((Acts.refl _).then (.emit _ _)) ?_) ?_
    · have same (f : Session → Session) (g : Transmitter → Transmitter) (k : Receiver → Receiver)
          (empty : (g s.tx).replay = []) : BuffersHeldOnce (((s.modSession f).modTx g).modRx k) ∧
            BlockReserved (((s.modSession f).modTx g).modRx k).resync := by
        refine ⟨buffersHeldOnce_of_perm (s := s) (.of_eq ?_) (fun _ => .rfl) holders.1, holders.2⟩
        rw [heldBuffers, heldBuffers, heldRecords, heldRecords]
        show List.filterMap _ (s.capture.sync ++ s.capture.async ++ (g s.tx).replay.map _) ++ _ = _
        rw [empty, replay]
        rfl
      exact same _ _ _ rfl
    · exact (congrArg Transmitter.replay ((emit_frame _ _).tx (by decide)) : _)
  case close h tag =>
    refine (acts_failAllFences (acts_resyncLeavesUp (acts_sweep (.refl _)))).keeps buffersAccounted_act ?_
    exact (buffersAccounted_iff _).mpr ⟨(session _).1, (session _).2, fun g => by simp [inSession] at g⟩
  case restart tag =>
    refine ended (holders_acts (acts_restart s tag) ?_) (replay_restart s tag)
    have cleared := holders_of_frame (modStats_frame s fun _ => Vector.replicate 16 0) (by decide) holders
    refine holders_of_frame (modRx_frame _ _) (by decide) (holders_acts (acts_clearControl (.refl _)) ?_)
    exact holders_of_frame (modSession_frame _ _) (by decide) cleared

theorem state_loadEnds {s t : State} (h : LoadEnds s t) : t.session.state = s.session.state := by
  obtain ⟨_, image, rfl⟩ := h
  split
  · unfold loadSucceeds
    dsimp only
    rw [(endHoldOf_frame _ _).session (by decide), State.modSession_session]
    dsimp only
    rw [(emit_frame _ _).session (by decide)]
    rfl
  · rw [enterBypass, (endHoldOf_frame _ _).session (by decide)]
    rfl

theorem buffersAccounted_step {s t : State} (h : step s = .next t) (p : BuffersAccounted s) : BuffersAccounted t := by
  refine keeps_step (fun s rest => buffersAccounted_of_frame (pending_frame s rest) (by decide))
    (fun moves => moves.keeps buffersAccounted_move) ?_ buffersAccounted_reset h p
  · intro s t ends p
    unfold BuffersAccounted heldBuffers heldRecords inSession at p ⊢
    have frame := loadEnds_frame ends
    rwa [frame.capture (by decide), frame.tx (by decide), frame.resync (by decide), state_loadEnds ends]

end Sys2Proof.Machine
end

section
/-! PROOFS. The count of the block buffers held (R82); and outside UP every step keeps that no source is MIRRORED and no
fence is pending (R10, R105). -/

namespace Sys2Proof.Machine

/-! ## The count of the block buffers held -/

theorem isSome_buffer_iff (r : Record) : r.buffer.isSome = decide (r.kind = .block) := by
  obtain ⟨_, body⟩ := r
  cases body <;> rfl

theorem buffersHeld_eq (r : Resync) :
    buffersHeld r = ((List.finRange 4).filter fun b => decide ((r.buffers)[b] ≠ none)).length := by
  have listed : r.buffers.toList = (List.finRange 4).map fun b => (r.buffers)[b] :=
    List.ext_getElem (by simp) fun i h g => by simp
  rw [buffersHeld, listed, List.filter_map, List.length_map]
  congr 2
  funext b
  show ((r.buffers)[b]).isSome = _
  cases (r.buffers)[b] with
  | none => rfl
  | some d => rfl

/-- The buffers held are as many as their holders. -/
theorem buffersHeld_eq_length {s : State} (p : BuffersHeldOnce s) : buffersHeld s.resync = (heldBuffers s).length := by
  obtain ⟨nodup, buffers⟩ := p
  rw [buffersHeld_eq]
  refine List.Perm.length_eq ((List.perm_ext_iff_of_nodup (.filter _ (List.nodup_finRange 4)) nodup).mpr fun b => ?_)
  simp only [List.mem_filter, List.mem_finRange, true_and, decide_eq_true_iff]
  exact buffers b

theorem length_heldBuffers {s : State} (reserved : BlockReserved s.resync) : (heldBuffers s).length =
    ((heldRecords s).filter fun r => r.kind = .block).length +
      (if s.resync.block = .reading ∨ s.resync.block = .discarding then 1 else 0) := by
  obtain ⟨reserved, _⟩ := reserved
  have records : ((heldRecords s).filterMap Record.buffer).length =
      ((heldRecords s).filter fun r => r.kind = .block).length := by
    rw [List.length_filterMap_eq_countP, List.countP_eq_length_filter]
    simp only [isSome_buffer_iff]
  rw [heldBuffers, List.length_append, records]
  congr 1
  cases held : s.resync.reserved with
  | none => rw [if_neg fun g => reserved.mpr g held]; rfl
  | some b => rw [if_pos (reserved.mp (by simp [held]))]; rfl

theorem buffersHeld_le (r : Resync) : buffersHeld r ≤ 4 := by
  rw [buffersHeld_eq]
  exact (List.length_filter_le ..).trans (List.length_finRange (n := 4)).le

/-! ## Outside UP -/

theorem fences_act {s t : State} (a : Act s t) (down : s.session.state ≠ .up) (p : s.fences = []) : t.fences = [] := by
  have same {ps : List Part} (f : SameBut ps s t) (out : Part.fences ∉ ps) : t.fences = [] := by rwa [f.fences out]
  cases a
  case mild m =>
    obtain shorter | ⟨up, _⟩ := m.fences
    · rw [p] at shorter
      exact List.eq_nil_of_length_eq_zero (Nat.le_zero.mp shorter)
    · exact absurd up down
  case emit ev => exact same (emit_frame s ev) (by decide)
  case release => exact same (releaseBlock_frame s) (by decide)
  case drop d => exact same d.frame (by decide)
  case releaseTo =>
    unfold setRelease
    split
    · exact p
    · exact p
  all_goals exact p

theorem noneMirrored_act {s t : State} (a : Act s t) (down : s.session.state ≠ .up) (p : NoneMirrored s) :
    NoneMirrored t := by
  cases a
  case mild m =>
    intro e mirrored
    obtain zero | moved := m.entries e
    · rw [zero] at mirrored
      cases mirrored
    · obtain before | up := moved.mirrored mirrored
      · exact p e before
      · exact down up
  case emit ev => exact p.of_regions ((emit_frame s ev).regions (by decide))
  case release => exact p.of_regions ((releaseBlock_frame s).regions (by decide))
  case drop d => exact p.of_regions (d.frame.regions (by decide))
  case releaseTo => exact p.of_regions (by unfold setRelease; split <;> rfl)
  case opens e en h =>
    intro i
    rw [entry_setEntry]
    split
    · obtain lagging | ⟨accepting, _⟩ := h.shape
      · simp [lagging]
      · simp [accepting]
    · exact p i
  all_goals exact p

theorem session_acts {s t : State} (h : Acts s t) : t.session.state = s.session.state :=
  h.keeps (P := fun u => u.session.state = s.session.state) (fun a p => (session_act a).trans p) rfl

theorem fences_acts {s t : State} (h : Acts s t) (down : s.session.state ≠ .up) (p : s.fences = []) : t.fences = [] :=
  (h.keeps (P := fun u => u.session.state ≠ .up ∧ u.fences = [])
    (fun a p => ⟨session_act a ▸ p.1, fences_act a p.1 p.2⟩) ⟨down, p⟩).2

theorem noneMirrored_acts {s t : State} (h : Acts s t) (down : s.session.state ≠ .up) (p : NoneMirrored s) :
    NoneMirrored t :=
  (h.keeps (P := fun u => u.session.state ≠ .up ∧ NoneMirrored u)
    (fun a p => ⟨session_act a ▸ p.1, noneMirrored_act a p.1 p.2⟩) ⟨down, p⟩).2

theorem noMirrorDown_act {s t : State} (a : Act s t) (p : NoMirrorDown s) : NoMirrorDown t := by
  intro down
  rw [session_act a] at down
  obtain ⟨none, fences⟩ := p down
  exact ⟨noneMirrored_act a down none, fences_act a down fences⟩

theorem noMirrorDown_of_frame {ps : List Part} {s t : State} (f : SameBut ps s t)
    (out : ∀ x ∈ [Part.regions, .fences], x ∉ ps) (state : t.session.state = s.session.state) (p : NoMirrorDown s) :
    NoMirrorDown t := by
  intro down
  obtain ⟨none, fences⟩ := p (state ▸ down)
  exact ⟨NoneMirrored.of_regions none (f.regions (out _ (by decide))), by rw [f.fences (out _ (by decide)), fences]⟩

theorem noMirrorDown_of_reset {s : State} (regions : s.regions = State.reset.regions) (fences : s.fences = []) :
    NoMirrorDown s := fun _ => ⟨fun e => by simp [free_of_regions regions e], fences⟩

/-! ## The moves that change the session state -/

theorem state_restartSession (s : State) : (restartSession s).session.state = .disabled := by
  unfold restartSession
  rw [State.modRx_session, (clearControl_frame _).session (by decide)]
  rfl

theorem noneMirrored_restartRegions (s : State) : NoneMirrored (restartRegions s) := by
  intro e
  rw [entry_restartRegions]
  unfold restartEntry
  split
  · simp
  · simp [Entry.zero]
  all_goals simp [*]

theorem noMirrorDown_restart (s : State) (tag : BitVec 16) : NoMirrorDown (restart s tag) := by
  intro _
  have disabled : (restartRegions (restartSession (clearStats s))).session.state ≠ .up := by
    rw [show (restartRegions (restartSession (clearStats s))).session = (restartSession (clearStats s)).session from rfl,
      state_restartSession]
    decide
  refine ⟨noneMirrored_acts (acts_restart_of_regions (.refl _)) disabled (noneMirrored_restartRegions _), ?_⟩
  refine fences_acts (acts_restart_of_fences (.refl _)) ?_ rfl
  rw [State.modFences_session, session_acts (acts_restartResync (acts_restartQueues (.refl _)))]
  exact disabled

/-- Entry into CLOSING sweeps the MIRRORED sources and fails the fences (R50). -/
theorem noMirrorDown_closingEntered (s : State) (tag : BitVec 16) : NoMirrorDown (closingEntered s tag) := by
  intro _
  refine ⟨?_, fences_failAllFences _⟩
  exact (noneMirrored_resyncLeavesUp _ (noneMirrored_sweep _)).of_regions ((failAllFences_frame _).regions (by decide))

theorem noMirrorDown_loseSession {s : State} (c : LossCause) (part : BitVec 32) (p : NoMirrorDown s) :
    NoMirrorDown (loseSession s c part) := by
  obtain ⟨⟨_, _, _, fences, _⟩, up, _⟩ := sessionEnded_loseSession s c part
  intro _
  refine ⟨?_, fences⟩
  by_cases h : s.session.state = .up
  · exact (up h).1
  · have chain := acts_loseSession s c part
    rw [sessionLeft, if_neg h] at chain
    exact noneMirrored_acts chain (by simp [enterDisabled]) (NoneMirrored.of_regions (p h).1 rfl)

theorem noMirrorDown_move {s t : State} (m : Move s t) (p : NoMirrorDown s) : NoMirrorDown t := by
  cases m
  case act a => exact noMirrorDown_act a p
  case lose _ c part => exact noMirrorDown_loseSession c part p
  case call h => exact fun _ => p (by simp [h])
  case stop h => exact fun _ => p (by simp [h])
  case accept h epoch =>
    intro down
    refine absurd ?_ down
    rw [enterUp, (emit_frame _ _).session (by decide)]
    rfl
  case close tag => exact noMirrorDown_closingEntered s tag
  case restart tag => exact noMirrorDown_restart s tag

theorem noMirrorDown_step {s t : State} (h : step s = .next t) (p : NoMirrorDown s) : NoMirrorDown t := by
  refine keeps_step (fun s rest => noMirrorDown_of_frame (pending_frame s rest) (by decide) rfl)
    (fun moves => moves.keeps noMirrorDown_move)
    (fun ends => noMirrorDown_of_frame (loadEnds_frame ends) (by decide) (state_loadEnds ends))
    (fun f => noMirrorDown_of_reset (f.regions (by decide)) ((f.fences (by decide)).trans rfl)) h p

end Sys2Proof.Machine
end

section
/-! PROOFS. What every step keeps: O53 to O56 and O58 to O60. -/

namespace Sys2Proof.Proofs

open Sys2Proof.Machine

/-- Settles O53: by the moves of a step; the acts keep both outside UP, and each move out of UP sets both up. -/
theorem stepKeepsNoMirrorDown : Obligations.StepKeepsNoMirrorDown := fun _ _ p h => noMirrorDown_step h p

/-- Settles O54: by the moves of a step, each act taking a slot, a place or an entry only where one is left. -/
theorem stepKeepsWithinCapacity : Obligations.StepKeepsWithinCapacity := fun _ _ p h => withinCapacity_step h p

/-- Settles O55: by the moves of a step; the replay list grows at its tail only, by the next number, and shrinks at its
front only. -/
theorem stepKeepsReplayInOrder : Obligations.StepKeepsReplayInOrder := fun _ _ p h => replayInOrder_step h p

/-- Settles O56: by the moves of a step, which move each entry in its role or empty it. -/
theorem stepKeepsEntriesInShape : Obligations.StepKeepsEntriesInShape := fun _ _ p h => entriesInShape_step h p

/-- Settles O58: by the moves of a step, of which OPEN, a new ring and a write-out test their range first. -/
theorem stepKeepsRangesApart : Obligations.StepKeepsRangesApart := fun _ _ quiet p h => rangesApart_step quiet h p

/-- Settles O59: by the moves of a step, which keep the holders apart; the count is then the number of holders. -/
theorem stepKeepsBuffersAccounted : Obligations.StepKeepsBuffersAccounted := by
  refine ⟨fun _ _ p h => buffersAccounted_step h p, fun s p => ⟨?_, buffersHeld_le _⟩⟩
  obtain ⟨once, reserved, _⟩ := (buffersAccounted_iff s).mp p
  rw [buffersHeld_eq_length once, length_heldBuffers reserved]

/-- Settles O60: by the moves of a step, which keep W + unwritten at P; the visible count then follows on a ring in
range. -/
theorem stepKeepsEntriesAccounted : Obligations.StepKeepsEntriesAccounted := by
  refine ⟨fun _ _ quiet p h => entriesAccounted_step quiet h p, fun s p range => ⟨visible_eq range p.2, fun passed => ?_⟩⟩
  exact Nat.sub_eq_zero_of_le passed.le

end Sys2Proof.Proofs
end

section
/-! PROOFS. Every command completes and leaves those behind it; and until a load has succeeded every step keeps the part
quiet (R134, R140, R170, R173). -/

namespace Sys2Proof.Machine

/-! ## What the acts leave: the waiting commands, and the load state once it is RUNNING -/

/-- The waiting commands stay, and a part that is RUNNING stays RUNNING. -/
def Continues (s t : State) : Prop :=
  t.pending = s.pending ∧ (s.loader.loadState = .running → t.loader.loadState = .running)

theorem Continues.of_frame {ps : List Part} {s t : State} (f : SameBut ps s t) (pending : Part.pending ∉ ps)
    (loader : Part.loader ∉ ps) : Continues s t := ⟨f.pending pending, fun h => by rwa [f.loader loader]⟩

theorem Continues.trans {s t u : State} (h : Continues s t) (g : Continues t u) : Continues s u :=
  ⟨g.1.trans h.1, fun running => g.2 (h.2 running)⟩

theorem continues_act {s t : State} (a : Act s t) : Continues s t := by
  cases a
  case mild m => exact ⟨m.pending, m.running⟩
  case emit ev => exact .of_frame (emit_frame s ev) (by decide) (by decide)
  case release => exact .of_frame (releaseBlock_frame s) (by decide) (by decide)
  case drop d => exact .of_frame d.frame (by decide) (by decide)
  case releaseTo =>
    unfold setRelease
    split
    · exact ⟨rfl, id⟩
    · exact ⟨rfl, id⟩
  all_goals exact ⟨rfl, id⟩

theorem continues_acts {s t : State} (h : Acts s t) : Continues s t :=
  h.keeps (P := Continues s) (fun a p => p.trans (continues_act a)) ⟨rfl, id⟩

theorem continues_move {s t : State} (m : Move s t) : Continues s t := by
  cases m
  case act a => exact continues_act a
  case lose =>
    refine .trans (t := sessionLeft s) ?_ (continues_acts (acts_loseSession s _ _))
    unfold sessionLeft
    split
    · exact ⟨rfl, id⟩
    · exact ⟨rfl, id⟩
  case call => exact ⟨rfl, id⟩
  case stop => exact ⟨rfl, id⟩
  case accept => exact .of_frame (enterUp_frame _ _) (by decide) (by decide)
  case close tag =>
    have left : Continues s (s.modSession fun x =>
        { x with state := .closing, enable := false, pendingDisconnect := some tag }) :=
      .of_frame (modSession_frame _ _) (by decide) (by decide)
    exact left.trans (continues_acts (acts_failAllFences (acts_resyncLeavesUp (acts_sweep (.refl _)))))
  case restart tag =>
    refine .trans (t := restartSession (clearStats s)) ?_ (continues_acts (acts_restart s tag))
    exact .trans (t := (clearStats s).modSession _) ⟨rfl, id⟩ (continues_acts (acts_modRx (acts_clearControl (.refl _))))

theorem continues_moves {s t : State} (h : Moves s t) : Continues s t :=
  h.keeps (P := Continues s) (fun m p => p.trans (continues_move m)) ⟨rfl, id⟩

theorem exec_completes (c : Instr) (s : State) : ∃ t, exec c s = .next t := by cases c <;> exact ⟨_, rfl⟩

theorem pending_of_exec {c : Instr} {s t : State} (h : exec c s = .next t) : t.pending = s.pending := by
  obtain moves | ends | rfl | rfl := exec_moves c h
  · exact (continues_moves moves).1
  · exact (loadEnds_frame ends).pending (by decide)
  · rfl
  · rfl

/-! ## The quiet part -/

/-- What O57 says of a part whose load has not succeeded. -/
structure Quiet (s : State) : Prop where
  frame : SameBut [.pending, .resetN, .loader, .mem, .out, .freeCount] State.reset s
  hold : s.mem.hold = (if s.loader.loadState = .loading then .loading else .none)
  timer : s.mem.holdTimer = none
  outstanding : ∀ r ∈ s.mem.outstanding, r.source = .passThrough
  responses : ∀ r ∈ s.mem.responses, r.region = none

theorem quietUntilRunning_iff (s : State) :
    QuietUntilRunning s ↔ (s.loader.loadState ≠ .running → Quiet s) :=
  ⟨fun h g => let ⟨a, b, c, d, e⟩ := h g; ⟨a, b, c, d, e⟩, fun h g => let ⟨a, b, c, d, e⟩ := h g; ⟨a, b, c, d, e⟩⟩

theorem Quiet.of_reset {s : State} (f : SameBut [.pending, .resetN, .loader, .out, .freeCount] State.reset s)
    (loading : s.loader.loadState = .loading) : Quiet s where
  frame := f.mono rfl
  hold := by rw [f.mem (by decide), if_pos loading]; rfl
  timer := by rw [f.mem (by decide)]; rfl
  outstanding := by rw [f.mem (by decide)]; exact fun _ m => by cases m
  responses := by rw [f.mem (by decide)]; exact fun _ m => by cases m

/-- A change of the Memory Path alone that keeps the hold, sends only pass-through requests and keeps no region. -/
theorem Quiet.of_mem {s t : State} (q : Quiet s) (f : SameBut [.out, .mem] s t) (hold : t.mem.hold = s.mem.hold)
    (timer : t.mem.holdTimer = s.mem.holdTimer)
    (outstanding : ∀ r ∈ t.mem.outstanding, r ∈ s.mem.outstanding ∨ r.source = .passThrough)
    (responses : ∀ r ∈ t.mem.responses, r.region = none) : Quiet t where
  frame := q.frame.then f rfl
  hold := by rw [hold, q.hold, f.loader (by decide)]
  timer := timer.trans q.timer
  outstanding := fun r m => (outstanding r m).elim (q.outstanding r) id
  responses := responses

theorem quiet_issueHead {s : State} (q : Quiet s) (req : SysRequest) : Quiet (issueHead s req none) := by
  refine q.of_mem ((issueHead_frame ..).mono rfl) rfl rfl (fun r m => ?_) (fun r m => ?_)
  · obtain old | new := List.mem_append.mp m
    · exact .inl old
    · exact .inr (by rw [List.mem_singleton.mp new])
  · obtain old | new := List.mem_append.mp m
    · exact q.responses r old
    · rw [List.mem_singleton.mp new]

theorem quiet_returnReady {s : State} (q : Quiet s) : Quiet (returnReady s) :=
  q.of_mem (returnReady_frame s) rfl rfl (fun _ => .inl) fun r m => q.responses r ((List.dropWhile_suffix _).subset m)

theorem quiet_answerHead {s : State} (q : Quiet s) (req : SysRequest) : Quiet (answerHead s req) := by
  refine quiet_returnReady (q.of_mem ((leaveHead_frame ..).mono rfl) rfl rfl (fun _ => .inl) fun r m => ?_)
  obtain old | new := List.mem_append.mp m
  · exact q.responses r old
  · rw [List.mem_singleton.mp new]

section
variable {s : State} (q : Quiet s)
include q

theorem Quiet.enterBypass (loading : s.loader.loadState = .loading) : Quiet (enterBypass s) := by
  have held : s.mem.hold = .loading := by rw [q.hold, if_pos loading]
  have ended : Machine.enterBypass s = endHold (s.modLoader fun l => { l with loadState := .bypass, loadTimer := none }) :=
    if_pos held
  rw [ended]
  exact ⟨(q.frame.then (modLoader_frame s _) rfl).then (modMem_frame _ _) rfl, rfl, rfl, q.outstanding, q.responses⟩

theorem Quiet.modLoader (f : Loader → Loader) (same : (f s.loader).loadState = s.loader.loadState) :
    Quiet (s.modLoader f) where
  frame := q.frame.then (modLoader_frame s f) rfl
  hold := by rw [State.modLoader_mem, State.modLoader_loader, same, q.hold]
  timer := q.timer
  outstanding := q.outstanding
  responses := q.responses

/-! ## What a quiet part has nothing to do for -/

theorem Quiet.session : s.session = State.reset.session := q.frame.session (by decide)
theorem Quiet.cmd : s.cmd = State.reset.cmd := q.frame.cmd (by decide)
theorem Quiet.resync : s.resync = State.reset.resync := q.frame.resync (by decide)
theorem Quiet.tx : s.tx = State.reset.tx := q.frame.tx (by decide)
theorem Quiet.rx : s.rx = State.reset.rx := q.frame.rx (by decide)
theorem Quiet.ev : s.ev = State.reset.ev := q.frame.ev (by decide)
theorem Quiet.apply : s.apply = State.reset.apply := q.frame.apply (by decide)

theorem Quiet.deliver (frame : List Byte) (handle : State → State) : deliver s frame handle = s :=
  if_neg (by rw [framesCome, q.session]; decide)

theorem Quiet.take (codes : Nat → Bool) (run : Line → State → State) : take s codes run = .next s :=
  take_of_none s codes run (.inr (by rw [q.cmd]; rfl))

theorem Quiet.takeAnswer (a : MemAnswer) (p : MemSource → Bool) (h : p .passThrough = false) : takeAnswer s a p = none := by
  unfold Machine.takeAnswer
  split
  · rfl
  split
  next r rest oldest => rw [if_neg (by rw [q.outstanding r (by simp [oldest]), h]; decide)]
  · rfl

theorem Quiet.free (e : RegionIx) : (s.entry e).state = .free := free_of_regions (q.frame.regions (by decide)) e

theorem Quiet.grantedSource : grantedSource s = none := by
  have idle (i : Injected) : injectedWaiting s i = false := by
    unfold injectedWaiting hasRequest
    cases i
    · rw [q.apply]; rfl
    · rw [q.resync]; rfl
    · rw [q.ev]; rfl
  simp [Machine.grantedSource, idle]

/-- Only in BYPASS is a head request granted, and it is then issued or answered, not presented (R134, R140). -/
theorem Quiet.arbiterStep (waits : s.loader.loadState ≠ .running) :
    Quiet (arbiterStep s) ∧ (arbiterStep s).loader = s.loader := by
  unfold Machine.arbiterStep
  rw [q.grantedSource]
  cases head : waitingHead s with
  | none => exact ⟨q, rfl⟩
  | some req =>
    obtain ⟨open', _, _⟩ := (waitingHead_eq_some s req).mp head
    have bypass : s.loader.loadState = .bypass := by
      cases load : s.loader.loadState with
      | loading =>
        rw [q.hold, if_pos load] at open'
        cases open'
      | running => exact absurd load waits
      | bypass => rfl
    show Quiet (grantHead s req) ∧ (grantHead s req).loader = s.loader
    unfold grantHead
    split
    · exact ⟨quiet_answerHead q req, (answerHead_frame s req).loader (by decide)⟩
    · exact ⟨quiet_issueHead q req, (issueHead_frame s req none).loader (by decide)⟩

end

theorem Quiet.arbiterRounds : ∀ (n : Nat) {s : State}, Quiet s → s.loader.loadState ≠ .running → Quiet (arbiterRounds n s)
  | 0, _, q, _ => q
  | n + 1, s, q, waits => by
    obtain ⟨stepped, loader⟩ := q.arbiterStep waits
    unfold Machine.arbiterRounds
    split
    · exact stepped.arbiterRounds n (by rwa [loader])
    · exact stepped

theorem region_answerOldest (status : Status) (data : List Byte) : ∀ {l : List RespEntry},
    (∀ r ∈ l, r.region = none) → ∀ r ∈ answerOldest status data l, r.region = none
  | [], h => h
  | a :: l, h => by
    obtain ⟨first, rest⟩ := List.forall_mem_cons.mp h
    unfold answerOldest
    split
    · exact List.forall_mem_cons.mpr ⟨first, region_answerOldest status data rest⟩
    · exact List.forall_mem_cons.mpr ⟨first, rest⟩

theorem oldestRegion_of_none {l : List RespEntry} (h : ∀ r ∈ l, r.region = none) : oldestRegion l = none := by
  unfold oldestRegion
  split
  next r found => exact h r (List.mem_of_find?_eq_some found)
  · rfl

theorem Quiet.passThroughAnswer {s : State} (q : Quiet s) (r : MemRequest) (status : Status) (data : List Byte) :
    Quiet (passThroughAnswer s r status data) := by
  have answered : Quiet (s.modMem fun m => { m with responses := answerOldest status data m.responses }) :=
    q.of_mem ((modMem_frame s _).mono rfl) rfl rfl (fun _ => .inl) (region_answerOldest status data q.responses)
  unfold Machine.passThroughAnswer
  rw [oldestRegion_of_none q.responses]
  cases status with
  | ok => exact quiet_returnReady answered
  | error => exact quiet_returnReady answered

/-! ## The steps of a quiet part -/

theorem Quiet.tick {s : State} (q : Quiet s) (waits : s.loader.loadState ≠ .running) : Quiet (tick s) := by
  unfold Machine.tick
  split
  next loading =>
    unfold loadTick
    split
    · split
      · exact q.enterBypass loading
      · exact q.modLoader _ rfl
    · exact q
  · exact absurd ‹_› waits
  · exact q

theorem quiet_loadEnds {s t : State} (q : Quiet s) (h : LoadEnds s t) : QuietUntilRunning t := by
  obtain ⟨running, image, rfl⟩ := h
  split
  · intro waits
    refine absurd ?_ waits
    unfold loadSucceeds
    dsimp only
    rw [(endHoldOf_frame _ _).loader (by decide), State.modSession_loader, (emit_frame _ _).loader (by decide)]
    rfl
  · exact (quietUntilRunning_iff _).mpr fun _ =>
      (q.modLoader (fun l => { l with prom := promFields image }) rfl).enterBypass (loading_of_loadRunning running)

/-- In a quiet part the loader, the system port and memory's answers to pass-through requests have an effect, and no
other command. -/
theorem quiet_exec {s t : State} (q : Quiet s) (waits : s.loader.loadState ≠ .running) (c : Instr)
    (h : exec c s = .next t) : QuietUntilRunning t := by
  have kept (g : Quiet t) : QuietUntilRunning t := (quietUntilRunning_iff t).mpr fun _ => g
  have idle (g : exec c s = .next s) : QuietUntilRunning t := by
    rw [g] at h
    injection h with h
    exact kept (h ▸ q)
  cases c
  case powerOn => injection h with h; exact kept (.of_reset (Resets.frame (.inl h.symm)) (h ▸ rfl))
  case resetAssert => injection h with h; exact kept (.of_reset (Resets.frame (.inr h.symm)) (h ▸ rfl))
  case promImageRead image =>
    injection h with h
    subst h
    split
    next running => exact quiet_loadEnds q ⟨running, image, rfl⟩
    · exact (quietUntilRunning_iff s).mpr fun _ => q
  case loadTimerExpiry =>
    injection h with h
    subst h
    refine kept ?_
    split
    next running => exact q.enterBypass (loading_of_loadRunning running)
    · exact q
  case systemPortRequest req =>
    injection h with h
    subst h
    refine kept ?_
    split
    · refine q.of_mem ((modMem_frame s _).mono rfl) ?_ ?_ ?_ ?_
      all_goals rw [State.modMem_mem]; split
      exacts [rfl, rfl, rfl, rfl, fun _ => .inl, fun _ => .inl, q.responses, q.responses]
    · exact q
  case memoryPortArbiter => injection h with h; exact kept (h ▸ q.arbiterRounds _ waits)
  case passThroughResponse answer data =>
    injection h with h
    subst h
    refine kept ?_
    split
    next r u taken =>
      obtain ⟨rest, oldest, _, rfl⟩ := takeAnswer_eq_some taken
      split
      · have left : Quiet (s.modMem fun m => { m with outstanding := rest }) :=
          q.of_mem ((modMem_frame s _).mono rfl) rfl rfl (fun r m => .inl (oldest ▸ List.mem_cons_of_mem _ m)) q.responses
        exact left.passThroughAnswer ..
      · exact q
    · exact q
  all_goals refine idle ?_
  case carrierUp => exact congrArg _ (if_neg (by rw [q.session]; decide))
  case carrierDown => exact congrArg _ (if_neg (by rw [q.session]; decide))
  case unknownFrame | join | accept | part | writeFrame | blockFrame | noteFrame | ack | retry | reject =>
    exact congrArg _ (q.deliver ..)
  case lossClaim => simp only [exec, execLossClaim, q.tx]; rfl
  case transmitArbiterChoice => exact congrArg _ (if_neg (by rw [q.session]; decide))
  case joinTimerExpiry => simp only [exec, execJoinTimerExpiry, q.session]; rfl
  case replayTimerExpiry => simp only [exec, execReplayTimerExpiry, q.tx]; rfl
  case ackDelayTimerExpiry => simp only [exec, execAckDelayTimerExpiry, q.rx]; rfl
  case holdLimitExpiry => simp only [exec, execHoldLimitExpiry, q.timer]
  case quietTimerExpiry entry =>
    have stopped : ((s.apply.reports)[entry]).timer = none := by rw [q.apply]; simp [State.reset]
    simp only [exec, execQuietTimerExpiry, stopped]
  case attnDelayExpiry => simp only [exec, execAttnDelayExpiry, q.ev]; rfl
  case applyWriteResponse => simp only [exec, execApplyWriteResponse, q.takeAnswer _ (fun x => x == .apply) rfl]
  case resyncReadResponse => simp only [exec, execResyncReadResponse, q.takeAnswer _ (fun x => x == .resync) rfl]
  case writerResponse => simp only [exec, execWriterResponse, q.takeAnswer _ isWriter rfl]
  case writeOutDone => simp only [exec, execWriteOutDone, completeWriteOut, q.cmd]; rfl
  case resyncTurn => exact congrArg _ (if_neg fun up => by rw [q.session] at up; cases up.1)
  case blockStart => simp only [exec, execBlockStart, tryStart, q.resync]; rfl
  case deferredRetry => exact congrArg _ (if_neg (by rw [q.rx]; decide))
  case drainTestPassed => exact congrArg _ (if_neg (by rw [q.session]; simp [State.reset]))
  case drained entry => exact congrArg _ (if_neg (by simp [isDrained, q.free]))
  case released entry => exact congrArg _ (if_neg (by simp [isReleased, q.free]))
  case fenceDurable => exact congrArg _ (fenceTest_of_not_up s (by rw [q.session]; decide))
  case restarted => simp only [exec, execRestarted, finishRestart, q.cmd]; rfl
  all_goals
    simp only [exec, execNoneCommand, execBadCommand, execConnect, execDisconnect, execOpenSource, execOpenTarget,
      execClose, execFence, execSendNote, execSetParameter, execSetEventRing, execReleaseEvents, execDumpStats,
      execSnapshot, execRestart]
    exact q.take ..

theorem quietUntilRunning_step {s t : State} (h : step s = .next t) (p : QuietUntilRunning s) : QuietUntilRunning t := by
  by_cases running : s.loader.loadState = .running
  · obtain ⟨rest, moves | ends | reset⟩ := step_moves h
    · exact fun waits => absurd ((continues_moves moves).2 running) waits
    · have loading := loading_of_loadRunning ends.1
      exact absurd (running.symm.trans loading) (by decide)
    · exact (quietUntilRunning_iff t).mpr fun _ => .of_reset reset.frame (by obtain rfl | rfl := reset <;> rfl)
  · have q := (quietUntilRunning_iff s).mp p running
    unfold step at h
    split at h
    · injection h with h
      exact (quietUntilRunning_iff t).mpr fun _ => h ▸ q.tick running
    next c rest _ =>
      have popped := (quietUntilRunning_iff _).mp (quietUntilRunning_pending rest p) running
      exact quiet_exec popped running c h

end Sys2Proof.Machine

namespace Sys2Proof.Proofs

open Sys2Proof.Machine

/-- Settles O57: a part that runs stays RUNNING until a reset; in a quiet part only the loader, the system port and
memory's answers to pass-through requests have an effect, and each keeps it quiet. -/
theorem stepKeepsQuietUntilRunning : Obligations.StepKeepsQuietUntilRunning := fun _ _ p h => quietUntilRunning_step h p

/-- Settles O3: each arm completes, and by the moves of a command the queue stays. -/
theorem everyCommandCompletes : Obligations.EveryCommandCompletes := fun c s =>
  let ⟨t, h⟩ := exec_completes c s
  ⟨t, h, pending_of_exec h⟩

/-- Settles O52: each invariant at the state after reset, where every list is empty and every entry FREE. -/
theorem invariantsHoldAtReset : Obligations.InvariantsHoldAtReset :=
  ⟨noMirrorDown_of_reset rfl rfl, withinCapacity_reset, replayInOrder_afresh rfl rfl rfl, entriesInShape_reset,
    (quietUntilRunning_iff _).mpr fun _ => .of_reset (.refl _ _) rfl, rangesApart_of_free (free_of_regions rfl),
    buffersAccounted_reset (.refl _ _), entriesAccounted_empty rfl (fun _ m => by cases m) rfl rfl rfl⟩

end Sys2Proof.Proofs
end

section
/-! PROOFS. Steps, power-on and the configuration load (R170 to R174), and the system port (R130). -/

namespace Sys2Proof.Machine

/-! ## One step -/

theorem step_of_pending {s : State} {c : Instr} {rest : List Instr} (h : s.pending = c :: rest) :
    step s = exec c { s with pending := rest } := by
  unfold step
  rw [h]

theorem step_of_idle {s : State} (h : s.pending = []) : step s = .next (tick s) := by
  unfold step
  rw [h]

theorem tick_of_running {s : State} (h : s.loader.loadState = .running) :
    tick s = { s with ev := { s.ev with timeBase := s.ev.timeBase + 1 } } := by
  unfold tick
  rw [h]
  rfl

theorem tick_of_bypass {s : State} (h : s.loader.loadState = .bypass) : tick s = s := by
  unfold tick
  rw [h]

theorem tick_of_loading {s : State} (h : s.loader.loadState = .loading) : tick s = loadTick s := by
  unfold tick
  rw [h]

theorem loadTick_of_stopped {s : State} (h : s.loader.loadTimer = none) : loadTick s = s := by
  unfold loadTick
  rw [h]

theorem loadTick_of_timer {s : State} {n : Nat} (h : s.loader.loadTimer = some n) : loadTick s =
    if n ≤ 1 then enterBypass s else { s with loader := { s.loader with loadTimer := some (n - 1) } } := by
  unfold loadTick
  rw [h]
  rfl

/-- The hold for a reason ends, if it is the hold. -/
theorem endHoldOf_eq (s : State) (r : HoldReason) : endHoldOf s r =
    { s with mem := if s.mem.hold = r then { s.mem with hold := .none, holdTimer := none } else s.mem } := by
  unfold endHoldOf
  split
  · rfl
  · rfl

theorem enterBypass_eq (s : State) : enterBypass s = { s with
    loader := { s.loader with loadState := .bypass, loadTimer := none }
    mem := if s.mem.hold = .loading then { s.mem with hold := .none, holdTimer := none } else s.mem } := by
  rw [enterBypass, endHoldOf_eq]
  rfl

theorem exec_loadTimerExpiry (s : State) :
    exec .loadTimerExpiry s = .next (if loadRunning s then enterBypass s else s) := rfl

theorem exec_promImageRead (image : Line) (s : State) : exec (.promImageRead image) s = .next (if loadRunning s then
    if imageGood image then loadSucceeds (s.modLoader fun l => { l with prom := promFields image }) (promFields image)
    else enterBypass (s.modLoader fun l => { l with prom := promFields image }) else s) := rfl

/-- The part with RESET_N asserted, field by field. -/
theorem resetAsserted_eq (s : State) : resetAsserted s = { State.reset with
    pending := s.pending, out := s.out, freeCount := s.freeCount, resetN := false,
    loader := { State.reset.loader with loadTimer := none } } := rfl

/-- While RESET_N is asserted the load is stopped and the part is otherwise quiet. -/
theorem quiet_resetAsserted (s : State) : Quiet (resetAsserted s) := .of_reset (Resets.frame (.inr rfl)) rfl

/-! ## The system port -/

section
variable {req : SysRequest} {s : State}

theorem exec_systemPortRequest_of_reset (off : s.resetN = false) : exec (.systemPortRequest req) s = .next s := by
  simp [exec, execSystemPortRequest, off]

theorem exec_systemPortRequest_of_absent (on : s.resetN = true) (h : s.mem.head = none) :
    exec (.systemPortRequest req) s = .next { s with mem := { s.mem with head := some req, presented := false } } := by
  simp [exec, execSystemPortRequest, on, h, State.modMem]

theorem exec_systemPortRequest_of_present {head : SysRequest} (on : s.resetN = true) (h : s.mem.head = some head) :
    exec (.systemPortRequest req) s = .next { s with mem := { s.mem with behind := s.mem.behind ++ [req] } } := by
  simp [exec, execSystemPortRequest, on, h, State.modMem]

end

end Sys2Proof.Machine

namespace Sys2Proof.Proofs

open Sys2Proof.Machine

/-- Settles O1: by the definition of a step on a queue that is not empty. -/
theorem stepTakesTheFrontCommand : Obligations.StepTakesTheFrontCommand := fun _ _ _ h => step_of_pending h

/-- Settles O2: an idle step is a tick, by the load state and the load timer. -/
theorem idleStepPassesAMicrosecond : Obligations.IdleStepPassesAMicrosecond := by
  intro s idle
  rw [step_of_idle idle]
  refine ⟨fun running => by rw [tick_of_running running], fun n loading timer => ?_, fun loading stopped => ?_,
    fun bypass => by rw [tick_of_bypass bypass]⟩
  · rw [tick_of_loading loading, loadTick_of_timer timer]
    exact ⟨fun h => by rw [if_neg (by omega)], fun h => by rw [if_pos h, enterBypass_eq]⟩
  · rw [tick_of_loading loading, loadTick_of_stopped stopped]

/-- Settles O4: by evaluation of the state after reset, the tables entry by entry. -/
theorem resetIsPowerOn : Obligations.ResetIsPowerOn := by
  have entries (e : RegionIx) : State.reset.entry e = Entry.zero := by simp [State.reset, State.entry]
  have reports (e : RegionIx) : (State.reset.apply.reports)[e] = ⟨none, 0⟩ := by simp [State.reset]
  have closes (e : RegionIx) : (State.reset.cmd.pendingClose)[e] = none := by simp [State.reset]
  have counters (k : Fin 16) : (State.reset.stats)[k] = 0 := by simp [State.reset]
  unfold Obligations.ResetIsPowerOn
  refine ⟨rfl, rfl, rfl, rfl, entries, ?_⟩
  refine ⟨rfl, rfl, rfl, rfl, rfl, rfl, rfl, rfl, rfl, rfl, rfl, rfl, rfl, rfl, rfl, ?_⟩
  refine ⟨rfl, rfl, rfl, rfl, rfl, rfl, rfl, rfl, rfl, rfl, rfl, rfl, rfl, rfl, rfl, rfl, rfl, rfl, rfl, reports, ?_⟩
  refine ⟨rfl, rfl, rfl, rfl, rfl, rfl, rfl, rfl, rfl, rfl, rfl, rfl, rfl, rfl, rfl, rfl, rfl, rfl, rfl, rfl, closes, ?_⟩
  exact ⟨rfl, rfl, rfl, rfl, rfl, rfl, rfl, rfl, rfl, rfl, rfl, rfl, counters, rfl⟩

/-- Settles O5: the two resets by their definitions; behind RESET_ASSERT the part is quiet with its load stopped. -/
theorem powerOnAndReset : Obligations.PowerOnAndReset := by
  intro s off
  have same : off = resetAsserted s := (resetAsserted_eq s).symm
  have q : Quiet off := same ▸ quiet_resetAsserted s
  refine ⟨rfl, rfl, rfl, rfl, fun req image => ⟨rfl, rfl⟩, rfl, rfl, ?_, rfl, rfl⟩
  exact exec_noneWaiting off rfl q.grantedSource

/-- Settles O7: by what a load that runs makes of a bad image, and of its expiry. -/
theorem failedLoadBypasses : Obligations.FailedLoadBypasses := by
  intro image s bypassed
  refine ⟨fun running bad => ?_, fun running => ?_, fun ended => ?_⟩
  · rw [exec_promImageRead, if_pos running, if_neg (by simp [bad]), enterBypass_eq]
    rfl
  · rw [exec_loadTimerExpiry, if_pos running, enterBypass_eq]
  · rw [exec_promImageRead, exec_loadTimerExpiry, if_neg (by simp [ended]), if_neg (by simp [ended])]
    exact ⟨rfl, rfl⟩

/-- Settles O23: by RESET_N, and whether a head request stands. -/
theorem systemPortTakesAHead : Obligations.SystemPortTakesAHead := by
  intro req s
  refine ⟨exec_systemPortRequest_of_absent, fun on present => ?_, exec_systemPortRequest_of_reset⟩
  obtain ⟨head, h⟩ := Option.ne_none_iff_exists'.mp present
  exact exec_systemPortRequest_of_present on h

end Sys2Proof.Proofs
end

section
/-! PROOFS. The PROM image (R171, R180) and the load that succeeds (R172). -/

namespace Sys2Proof.Machine

/-! ## Fields of a line -/

theorem drop_leBytes : ∀ k n v, k ≤ n → (leBytes n v).drop k = leBytes (n - k) (v / 256 ^ k)
  | 0, n, v, _ => by simp
  | k + 1, n + 1, v, h => by
    rw [leBytes, List.drop_succ_cons, drop_leBytes k n _ (by omega), Nat.div_div_eq_div_mul, Nat.pow_succ',
      Nat.add_sub_add_right]

theorem take_leBytes : ∀ k n v, k ≤ n → (leBytes n v).take k = leBytes k v
  | 0, _, _, _ => by simp [leBytes]
  | k + 1, n + 1, v, h => by rw [leBytes, List.take_succ_cons, take_leBytes k n _ (by omega), leBytes]

/-- A field within the bytes of a value. -/
theorem fieldAt_leBytes_within (m v off n : Nat) (h : off + n ≤ m) : fieldAt (leBytes m v) off n = v / 256 ^ off % 256 ^ n := by
  rw [fieldAt, drop_leBytes _ _ _ (by omega), take_leBytes _ _ _ (by omega), leNat_leBytes, Nat.pow_mul]

/-- The bits of a line are the field of its bytes. -/
theorem toNat_extract_line (l : Line) (off n : Nat) (h : off + n ≤ 64) :
    (l.extractLsb' (8 * off) (8 * n)).toNat = fieldAt (lineBytes l) off n := by
  rw [BitVec.extractLsb'_toNat, lineBytes, fieldAt_leBytes_within _ _ _ _ h, Nat.shiftRight_eq_div_pow, Nat.pow_mul,
    Nat.pow_mul]

/-! ## The image -/

/-- The fields of the image stand at the offsets of R180. -/
theorem promFields_offsets (image : Line) :
    (promFields image).signature.toNat = fieldAt (lineBytes image) 0 4 ∧
    (promFields image).unitId.toNat = fieldAt (lineBytes image) 4 1 ∧
    (promFields image).linkRate.toNat = fieldAt (lineBytes image) 5 1 ∧
    (promFields image).present.toNat = fieldAt (lineBytes image) 6 2 ∧
    (promFields image).controlBase.toNat = fieldAt (lineBytes image) 8 8 ∧
    (∀ i : Fin 7, ((promFields image).values[i]).toNat = fieldAt (lineBytes image) (16 + 2 * i.val) 2) ∧
    (promFields image).crc.toNat = fieldAt (lineBytes image) 62 2 := by
  have field (off n : Nat) (h : off + n ≤ 64) := toNat_extract_line image off n h
  refine ⟨field 0 4 (by omega), field 4 1 (by omega), field 5 1 (by omega), field 6 2 (by omega), field 8 8 (by omega),
    fun i => ?_, field 62 2 (by omega)⟩
  rw [promFields, Fin.getElem_fin, Vector.getElem_ofFn]
  exact field (16 + 2 * i.val) 2 (by omega)

/-- The ranges of the parameters, in the order of the image (R150). -/
def paramRanges : Vector (Nat × Nat) 7 := #v[(1, 255), (10, 10000), (1, 15), (0, 1000), (10, 10000), (1, 255), (0, 10000)]

theorem paramValid_iff (i : Fin 7) (v : Nat) :
    paramValid (i.val + 1) v = true ↔ (paramRanges[i]).1 ≤ v ∧ v ≤ (paramRanges[i]).2 := by
  have range : paramRange (i.val + 1) = some ((paramRanges[i]).1, (paramRanges[i]).2) := by
    revert i
    decide
  rw [paramValid, range]
  simp

/-- The image is good when the five checks of R171 pass. -/
theorem imageGood_iff (image : Line) : imageGood image = true ↔
    (promFields image).signature = Config.signature ∧ crc16 ((lineBytes image).take 62) = (promFields image).crc ∧
    ((promFields image).controlBase.toNat % 4096 = 0 ∧ (promFields image).controlBase.toNat < 2 ^ 40 ∧
      (promFields image).controlBase.toNat + 8192 ≤ 2 ^ 40) ∧
    (1 ≤ (promFields image).linkRate.toNat ∧ (promFields image).linkRate.toNat ≤ 4) ∧
    ∀ i : Fin 7, (promFields image).present.getLsbD i.val = true →
      (paramRanges[i]).1 ≤ ((promFields image).values[i]).toNat ∧
        ((promFields image).values[i]).toNat ≤ (paramRanges[i]).2 := by
  have checked (i : Fin 7) : (!promPresent (promFields image) i ||
      paramValid (i.val + 1) ((promFields image).values[i]).toNat) = true ↔
      ((promFields image).present.getLsbD i.val = true → (paramRanges[i]).1 ≤ ((promFields image).values[i]).toNat ∧
        ((promFields image).values[i]).toNat ≤ (paramRanges[i]).2) := by
    rw [← paramValid_iff, promPresent]
    cases (promFields image).present.getLsbD i.val <;> simp
  simp only [imageGood, addressValid, Bool.and_eq_true, beq_iff_eq, decide_eq_true_eq, List.all_eq_true, checked,
    List.mem_finRange, true_imp_iff, and_assoc]

/-- The ATTN threshold that a good image loads is 1 or more (R150). -/
theorem attnThreshold_of_good {image : Line} (good : imageGood image = true) :
    1 ≤ (promParams (promFields image)).attnThreshold.toNat := by
  obtain ⟨_, _, _, _, values⟩ := (imageGood_iff image).mp good
  have valid := values 5
  show 1 ≤ (if (promFields image).present.getLsbD 5 = true then ((promFields image).values[(5 : Fin 7)]).setWidth 32
    else (1 : BitVec 32)).toNat
  split
  next present =>
    have low := (valid present).1
    rw [BitVec.toNat_setWidth, Nat.mod_eq_of_lt (lt_trans (BitVec.isLt _) (by decide))]
    exact low
  · decide

/-! ## The load that succeeds -/

/-- The default ring of a good load, empty (R172). -/
def defaultRing (e : EventWriter) (base : Addr) : EventWriter :=
  { e with ringBase := base, count := 64, produce := 0, release := 0, write := 0, unwritten := 0, timeBase := 0 }

theorem spaceAddr_toNat (a : Addr) : spaceAddr a.toNat = a := by
  rw [spaceAddr, if_pos a.isLt, BitVec.ofNat_toNat, BitVec.setWidth_eq]

/-- READY is the first entry of the default ring; it is not visible yet, so the ATTN test changes nothing. -/
theorem produceEntry_defaultRing {p : Params} {ev : Event} {e : EventWriter} {base : Addr}
    (threshold : 1 ≤ p.attnThreshold.toNat) :
    produceEntry p ev (defaultRing e base) = { defaultRing e base with
      produce := 1, unwritten := 1, list := e.list ++ [⟨ev, true, 0, base, true⟩] } := by
  have item : newItem (defaultRing e base) ev = ⟨ev, true, 0, base, true⟩ := by
    simp [newItem, defaultRing, spaceAddr_toNat]
  unfold produceEntry
  rw [item]
  unfold attnTest
  rw [if_neg (by simp [defaultRing, unreleased, nextIndex])]
  split
  · rfl
  rw [if_neg (by simp [defaultRing, visible, unreleased, nextIndex]; omega),
    if_neg (by simp [defaultRing, visible, unreleased, nextIndex])]
  rfl

theorem exec_promImageRead_of_good {image : Line} {s : State} {base : Addr} (running : loadRunning s = true)
    (good : imageGood image = true) (h : base = BitVec.ofNat 40 ((promFields image).controlBase.toNat + 4096)) :
    exec (.promImageRead image) s = .next { s with
      loader := ⟨.running, none, promFields image⟩
      params := promParams (promFields image)
      session := { s.session with transceiver := true }
      ev := { defaultRing s.ev base with
        produce := 1, unwritten := 1
        list := s.ev.list ++ [⟨.ready (promFields image).unitId (promFields image).controlBase
          (promFields image).linkRate, true, 0, base, true⟩] }
      mem := if s.mem.hold = .loading then { s.mem with hold := .none, holdTimer := none } else s.mem } := by
  rw [exec_promImageRead, if_pos running, if_pos good, loadSucceeds]
  dsimp only
  rw [emit_of_room _ _ (by simp [unreleased]), endHoldOf_eq, ← h, ← produceEntry_defaultRing (attnThreshold_of_good good)]
  rfl

end Sys2Proof.Machine

namespace Sys2Proof.Proofs

open Sys2Proof.Machine

/-- Settles O6: the fields of the image by its bytes, the checks one by one, and the load by the state that it leaves. -/
theorem goodImageStartsThePart : Obligations.GoodImageStartsThePart := by
  intro image s p bytes ranges start
  refine ⟨promFields_offsets image, imageGood_iff image, rfl, fun running good => ?_⟩
  obtain ⟨_, _, ⟨_, _, range⟩, _⟩ := (imageGood_iff image).mp good
  have fits : p.controlBase.toNat + 4096 < 2 ^ 40 := lt_of_lt_of_le (Nat.add_lt_add_left (by decide) _) range
  obtain ⟨base, h⟩ : ∃ base, base = BitVec.ofNat 40 (p.controlBase.toNat + 4096) := ⟨_, rfl⟩
  refine ⟨_, exec_promImageRead_of_good running good h, rfl, rfl, rfl, ?_, rfl, rfl, ?_⟩
  · show base.toNat = p.controlBase.toNat + 4096
    rw [h, BitVec.toNat_ofNat, Nat.mod_eq_of_lt fits]
  · constructor <;> intro out <;> first | rfl | exact absurd (by decide) out

end Sys2Proof.Proofs
end

section
/-! PROOFS. Link frames: the checks of R42, the frames that are not taken (R43), and the frames that the part builds
(R41, R179). -/

namespace Sys2Proof.Machine

/-! ## The checks of R42 -/

theorem frameKindOf_eq_some_iff (code : Nat) (k : FrameKind) : frameKindOf code = some k ↔ frameCode k = code := by
  constructor
  · intro h
    simpa using List.find?_some h
  · rintro rfl
    cases k <;> rfl

theorem formGood_iff (bytes : List Byte) : formGood bytes = true ↔
    ∃ k, frameCode k = fieldAt bytes 0 1 ∧ fieldAt bytes 6 2 = frameLength k ∧ bytes.length = frameLength k ∧
      (k = .join ∨ k = .accept → fieldAt bytes 2 2 = 0) := by
  unfold formGood
  split
  next unknown =>
    refine iff_of_false (by simp) ?_
    rintro ⟨k, code, _⟩
    rw [(frameKindOf_eq_some_iff _ k).mpr code] at unknown
    cases unknown
  next k known =>
    have code := (frameKindOf_eq_some_iff _ k).mp known
    constructor
    · intro good
      simp only [Bool.and_eq_true, beq_iff_eq, Bool.or_eq_true, Bool.not_eq_true', Bool.or_eq_false_iff, beq_eq_false_iff_ne,
        ne_eq] at good
      obtain ⟨⟨length, bytes⟩, epoch⟩ := good
      exact ⟨k, code, length, bytes, fun h => epoch.resolve_left fun other => h.elim other.1 other.2⟩
    · rintro ⟨k', code', length, bytes, epoch⟩
      obtain rfl : k = k' := by
        rw [(frameKindOf_eq_some_iff _ k').mpr code'] at known
        exact (Option.some.inj known).symm
      simp only [Bool.and_eq_true, beq_iff_eq, Bool.or_eq_true, Bool.not_eq_true', Bool.or_eq_false_iff, beq_eq_false_iff_ne,
        ne_eq]
      refine ⟨⟨length, bytes⟩, ?_⟩
      by_cases h : k = .join ∨ k = .accept
      · exact .inr (epoch h)
      · exact .inl (not_or.mp h)

theorem frameGood_iff (bytes : List Byte) : frameGood bytes = true ↔
    (4 ≤ bytes.length ∧ leNat (bytes.drop (bytes.length - 4)) = (crc32 (bytes.take (bytes.length - 4))).toNat) ∧
    ∃ k, frameCode k = fieldAt bytes 0 1 ∧ fieldAt bytes 6 2 = frameLength k ∧ bytes.length = frameLength k ∧
      (k = .join ∨ k = .accept → fieldAt bytes 2 2 = 0) := by
  rw [frameGood, Bool.and_eq_true, formGood_iff]
  simp [crcGood]

/-! ## Delivery -/

/-- Every frame is delivered to a handler. -/
theorem exec_frame {c : Instr} {bytes : List Byte} (h : frameArrival c = some bytes) :
    ∃ handle : State → State, ∀ s, exec c s = .next (deliver s bytes handle) := by
  cases c <;> simp only [frameArrival, Option.some.injEq, reduceCtorEq] at h
  all_goals
    subst h
    exact ⟨_, fun _ => rfl⟩

/-- A PART, a record or an acknowledgment frame is sorted first. -/
theorem exec_session_frame {c : Instr} {bytes : List Byte} (h : sessionArrival c = some bytes) :
    ∃ handle : State → State, ∀ s, exec c s = .next (deliver s bytes fun s => sortSession s bytes handle) := by
  cases c <;> simp only [sessionArrival, Option.some.injEq, reduceCtorEq] at h
  all_goals
    subst h
    exact ⟨_, fun _ => rfl⟩

section
variable {s : State} {bytes : List Byte} {handle : State → State}

theorem deliver_of_bad (come : s.session.carrier = true ∨ s.session.dropped = true) (bad : frameGood bytes = false) :
    deliver s bytes handle = count s .framesBad := by
  rw [deliver, if_pos (by simpa [framesCome] using come), if_neg (by simp [bad])]

theorem deliver_of_none (carrier : s.session.carrier = false) (dropped : s.session.dropped = false) :
    deliver s bytes handle = s := if_neg (by simp [framesCome, carrier, dropped])

end

theorem exec_join_of_delivered {rest : List Byte} {s : State} (h : Delivered s (frameOf .join rest)) :
    exec (.join rest) s = .next (match s.session.state with
      | .disabled => s
      | .calling => joinInCalling s (joinFields (frameOf .join rest))
      | .up | .closing => joinInSession s (joinFields (frameOf .join rest))) :=
  congrArg _ (deliver_of_delivered s _ _ h)

theorem exec_accept_of_delivered {rest : List Byte} {s : State} (h : Delivered s (frameOf .accept rest)) :
    exec (.accept rest) s = .next (match s.session.state with
      | .calling => if acceptValid s (acceptFields (frameOf .accept rest)) then
          takeAccept s (acceptFields (frameOf .accept rest)) else s
      | .disabled | .up | .closing => s) :=
  congrArg _ (deliver_of_delivered s _ _ h)

/-! ## Fields of the frames that the part builds -/

theorem fieldAt_leBytes_toNat {w : Nat} (n : Nat) (x : BitVec w) (h : w = 8 * n) :
    fieldAt (leBytes n x.toNat) 0 n = x.toNat := by
  subst h
  rw [fieldAt_leBytes, show 256 ^ n = 2 ^ (8 * n) by rw [Nat.pow_mul], Nat.mod_eq_of_lt x.isLt]

/-- The header of a frame, which its body follows (R41). -/
def frameHeader (k : FrameKind) (epoch : BitVec 16) (unit : BitVec 8) : List Byte :=
  [BitVec.ofNat 8 (frameCode k), 0#8] ++ leBytes 2 epoch.toNat ++ [unit, 0#8] ++ leBytes 2 (frameLength k)

section
variable (k : FrameKind) (epoch : BitVec 16) (unit : BitVec 8) (body : List Byte)

theorem buildFrame_eq : buildFrame k epoch unit body = frameHeader k epoch unit ++ body ++
    leBytes 4 (crc32 (frameHeader k epoch unit ++ body)).toNat := rfl

theorem length_frameHeader : (frameHeader k epoch unit).length = 8 := rfl

theorem fieldAt_buildFrame_header (off n : Nat) (h : off + n ≤ 8) :
    fieldAt (buildFrame k epoch unit body) off n = fieldAt (frameHeader k epoch unit) off n := by
  rw [buildFrame_eq, List.append_assoc, fieldAt_append_left _ _ _ _ h]

/-- The fields of the body stand behind the eight bytes of the header. -/
theorem fieldAt_buildFrame_body (off n : Nat) (h : off + n ≤ body.length) :
    fieldAt (buildFrame k epoch unit body) (8 + off) n = fieldAt body off n := by
  rw [buildFrame_eq, fieldAt_append_left _ _ _ _ (by rw [List.length_append, length_frameHeader]; omega),
    fieldAt_append_right _ _ _ _ (by rw [length_frameHeader]; omega), length_frameHeader, Nat.add_sub_cancel_left]

theorem length_buildFrame : (buildFrame k epoch unit body).length = 12 + body.length := by
  rw [buildFrame_eq, List.length_append, List.length_append, length_frameHeader, length_leBytes]
  omega

theorem fieldAt_frameHeader_code : fieldAt (frameHeader k epoch unit) 0 1 = frameCode k := by
  cases k <;> rfl

theorem fieldAt_frameHeader_length : fieldAt (frameHeader k epoch unit) 6 2 = frameLength k := by
  rw [frameHeader, fieldAt_append_right _ _ _ _ (by simp)]
  refine (fieldAt_leBytes 2 (frameLength k)).trans ?_
  cases k <;> rfl

theorem fieldAt_frameHeader_epoch : fieldAt (frameHeader k epoch unit) 2 2 = epoch.toNat := by
  rw [frameHeader, List.append_assoc, List.append_assoc, fieldAt_append_right _ _ _ _ (by simp),
    fieldAt_append_left _ _ _ _ (by simp)]
  exact fieldAt_leBytes_toNat 2 epoch rfl

theorem fieldAt_frameHeader_unit : fieldAt (frameHeader k epoch unit) 4 1 = unit.toNat := by
  simp [frameHeader, leBytes, fieldAt, leNat]

/-- A frame of the length of its kind, with epoch 0 where R42 asks for it, passes the checks. -/
theorem frameGood_buildFrame (length : body.length + 12 = frameLength k) (zero : k = .join ∨ k = .accept → epoch = 0) :
    frameGood (buildFrame k epoch unit body) = true := by
  rw [frameGood, crcGood_buildFrame, Bool.true_and, formGood_iff]
  refine ⟨k, ?_, ?_, ?_, fun h => ?_⟩
  · rw [fieldAt_buildFrame_header _ _ _ _ _ _ (by decide), fieldAt_frameHeader_code]
  · rw [fieldAt_buildFrame_header _ _ _ _ _ _ (by decide), fieldAt_frameHeader_length]
  · rw [length_buildFrame, ← length, Nat.add_comm]
  · rw [fieldAt_buildFrame_header _ _ _ _ _ _ (by decide), fieldAt_frameHeader_epoch, zero h]
    rfl

theorem frameEpoch_buildFrame : frameEpoch (buildFrame k epoch unit body) = epoch := by
  rw [frameEpoch, u16At, fieldAt_buildFrame_header _ _ _ _ _ _ (by decide), fieldAt_frameHeader_epoch,
    BitVec.ofNat_toNat, BitVec.setWidth_eq]

theorem frameSender_buildFrame : frameSender (buildFrame k epoch unit body) = unit := by
  rw [frameSender, byteAt, fieldAt_buildFrame_header _ _ _ _ _ _ (by decide), fieldAt_frameHeader_unit,
    BitVec.ofNat_toNat, BitVec.setWidth_eq]

end

/-- A value whose bytes stand in the body reads back. -/
theorem read_buildFrame {w : Nat} {k : FrameKind} {epoch : BitVec 16} {unit : BitVec 8} {body : List Byte}
    (off n : Nat) (x : BitVec w) (width : w = 8 * n) (inside : off + n ≤ body.length)
    (bytes : (body.drop off).take n = leBytes n x.toNat) :
    BitVec.ofNat w (fieldAt (buildFrame k epoch unit body) (8 + off) n) = x := by
  have whole : fieldAt (leBytes n x.toNat) 0 n = x.toNat := fieldAt_leBytes_toNat n x width
  rw [fieldAt, List.drop_zero, List.take_of_length_le (by simp)] at whole
  rw [fieldAt_buildFrame_body _ _ _ _ _ _ inside, fieldAt, bytes, whole, BitVec.ofNat_toNat, BitVec.setWidth_eq]

section
variable (epoch : BitVec 16) (unit : BitVec 8)

theorem joinFields_buildFrame (call last : BitVec 16) : joinFields (buildFrame .join epoch unit
    (leBytes 2 call.toNat ++ leBytes 2 last.toNat ++ leBytes 2 Config.protocolVersion.toNat ++ leBytes 2 0)) =
      ⟨unit, call, last, Config.protocolVersion⟩ := by
  rw [joinFields, JoinFields.mk.injEq]
  exact ⟨frameSender_buildFrame .., read_buildFrame 0 2 call rfl (by simp) rfl, read_buildFrame 2 2 last rfl (by simp) rfl,
    read_buildFrame 4 2 Config.protocolVersion rfl (by simp) rfl⟩

theorem acceptFields_buildFrame (new call echo last : BitVec 16) : acceptFields (buildFrame .accept epoch unit
    (leBytes 2 new.toNat ++ leBytes 2 call.toNat ++ leBytes 2 echo.toNat ++ leBytes 2 last.toNat)) =
      ⟨unit, new, call, echo, last⟩ := by
  rw [acceptFields, AcceptFields.mk.injEq]
  exact ⟨frameSender_buildFrame .., read_buildFrame 0 2 new rfl (by simp) rfl, read_buildFrame 2 2 call rfl (by simp) rfl,
    read_buildFrame 4 2 echo rfl (by simp) rfl, read_buildFrame 6 2 last rfl (by simp) rfl⟩

/-- The number that a frame carries stands first in its body. -/
theorem frameSeq_buildFrame (k : FrameKind) (seq : BitVec 32) (post : List Byte) :
    frameSeq (buildFrame k epoch unit (leBytes 4 seq.toNat ++ post)) = seq :=
  read_buildFrame 0 4 seq rfl (by simp) rfl

end

theorem take_drop_last (pre last : List Byte) {off n : Nat} (h : pre.length = off) (g : last.length = n) :
    ((pre ++ last).drop off).take n = last := by
  rw [List.drop_left' h, List.take_of_length_le g.le]

theorem leBytes_one_ofNat (v : Nat) : leBytes 1 (BitVec.ofNat 8 v).toNat = leBytes 1 v := by
  simp [leBytes, ← BitVec.toNat_inj]

/-- The offset of a WRITE or BLOCK frame, behind its number and its peer index (R41). -/
theorem framePosition_buildFrame (k : FrameKind) (epoch : BitVec 16) (unit : BitVec 8) (seq peer position : Nat)
    (post : List Byte) : framePosition (buildFrame k epoch unit
      (leBytes 4 seq ++ leBytes 1 peer ++ leBytes 3 0 ++ leBytes 4 position ++ post)) = position % 2 ^ 32 := by
  have inside : 8 + 4 ≤ (leBytes 4 seq ++ leBytes 1 peer ++ leBytes 3 0 ++ leBytes 4 position ++ post).length := by
    simp
    omega
  exact (fieldAt_buildFrame_body k epoch unit _ 8 4 inside).trans (leNat_leBytes 4 position)

/-- The control frames pass the checks of R42 and carry their epoch and the unit that sends them. -/
theorem header_controlBytes (unit : BitVec 8) (f : ControlFrame)
    (zero : (∃ call last, f.body = .join call last) ∨ (∃ e c o l, f.body = .accept e c o l) → f.epoch = 0) :
    frameGood (controlBytes unit f) = true ∧ frameEpoch (controlBytes unit f) = f.epoch ∧
      frameSender (controlBytes unit f) = unit := by
  have built (k : FrameKind) (body : List Byte) (length : body.length + 12 = frameLength k)
      (zero : k = .join ∨ k = .accept → f.epoch = 0) : frameGood (buildFrame k f.epoch unit body) = true ∧
        frameEpoch (buildFrame k f.epoch unit body) = f.epoch ∧ frameSender (buildFrame k f.epoch unit body) = unit :=
    ⟨frameGood_buildFrame _ _ _ _ length zero, frameEpoch_buildFrame .., frameSender_buildFrame ..⟩
  unfold controlBytes
  cases h : f.body with
  | join call last => exact built .join _ (by simp [frameLength]) fun _ => zero (.inl ⟨_, _, h⟩)
  | accept e c o l => exact built .accept _ (by simp [frameLength]) fun _ => zero (.inr ⟨_, _, _, _, h⟩)
  | part seq => exact built .part _ (by simp [frameLength]) (by simp)
  | ack seq => exact built .ack _ (by simp [frameLength]) (by simp)
  | retry seq => exact built .retry _ (by simp [frameLength]) (by simp)
  | reject seq peer reason => exact built .reject _ (by simp [frameLength]) (by simp)

/-- So do the frames of records. -/
theorem header_recordBytes (unit : BitVec 8) (epoch : BitVec 16) (buffers : Vector (Option BlockData) 4) (r : Replayed) :
    frameGood (recordBytes unit epoch buffers r) = true ∧ frameEpoch (recordBytes unit epoch buffers r) = epoch ∧
      frameSender (recordBytes unit epoch buffers r) = unit ∧ frameSeq (recordBytes unit epoch buffers r) = r.seq := by
  have built (k : FrameKind) (post : List Byte) (length : post.length + 16 = frameLength k)
      (record : ¬(k = .join ∨ k = .accept)) :
      frameGood (buildFrame k epoch unit (leBytes 4 r.seq.toNat ++ post)) = true ∧
        frameEpoch (buildFrame k epoch unit (leBytes 4 r.seq.toNat ++ post)) = epoch ∧
        frameSender (buildFrame k epoch unit (leBytes 4 r.seq.toNat ++ post)) = unit ∧
        frameSeq (buildFrame k epoch unit (leBytes 4 r.seq.toNat ++ post)) = r.seq :=
    ⟨frameGood_buildFrame _ _ _ _ (by rw [List.length_append, length_leBytes, ← length]; omega) fun h => absurd h record,
      frameEpoch_buildFrame .., frameSender_buildFrame .., frameSeq_buildFrame ..⟩
  unfold recordBytes
  cases r.record.body with
  | write e peer line mask data n =>
    simp only [List.append_assoc]
    exact built .write _ (by simp [frameLength]) (by simp)
  | block e peer block buffer =>
    simp only [List.append_assoc]
    exact built .block _ (by simp [frameLength]) (by simp)
  | note tag payload =>
    simp only [List.append_assoc]
    exact built .note _ (by simp [frameLength]) (by simp)

end Sys2Proof.Machine

namespace Sys2Proof.Proofs

open Sys2Proof.Machine

/-- Settles O8: by the checks of a delivered frame, and by the sorting of those that only a session takes. -/
theorem framesThatAreNotTaken : Obligations.FramesThatAreNotTaken := by
  refine ⟨fun c bytes s arrival => ?_, fun c bytes s arrival delivered other => ?_, fun rest s delivered disabled => ?_,
    fun rest s delivered out => ?_⟩
  · obtain ⟨handle, delivery⟩ := exec_frame arrival
    rw [delivery]
    exact ⟨frameGood_iff bytes, fun come bad => by rw [deliver_of_bad come bad],
      fun carrier dropped => by rw [deliver_of_none carrier dropped]⟩
  · obtain ⟨handle, delivery⟩ := exec_session_frame arrival
    rw [delivery, deliver_of_delivered s bytes _ delivered, sortSession, if_neg other]
  · rw [exec_join_of_delivered delivered, disabled]
  · rw [exec_accept_of_delivered delivered]
    cases state : s.session.state with
    | calling => exact absurd state out
    | disabled | up | closing => rfl

/-- Settles O9: the header by the form of every frame, and each field by the bytes before it. -/
theorem builtFramesReadBack : Obligations.BuiltFramesReadBack := by
  refine ⟨fun unit f zero => ?_, fun unit epoch buffers r => ?_⟩
  · have allowed : (∃ call last, f.body = .join call last) ∨ (∃ e c o l, f.body = .accept e c o l) → f.epoch = 0 := by
      rintro (⟨_, _, h⟩ | ⟨_, _, _, _, h⟩)
      · rwa [h] at zero
      · rwa [h] at zero
    obtain ⟨good, epoch, sender⟩ := header_controlBytes unit f allowed
    refine ⟨good, epoch, sender, ?_⟩
    unfold controlBytes
    cases f.body with
    | join call last => exact joinFields_buildFrame ..
    | accept e c o l => exact acceptFields_buildFrame ..
    | part seq => exact read_buildFrame 0 4 seq rfl (by simp) rfl
    | ack seq => exact read_buildFrame 0 4 seq rfl (by simp) rfl
    | retry seq => exact read_buildFrame 0 4 seq rfl (by simp) rfl
    | reject seq peer reason =>
      have read : (byteAt (buildFrame .reject f.epoch unit (leBytes 4 seq.toNat ++
          [peer, BitVec.ofNat 8 (rejectReasonCode reason)] ++ leBytes 2 0)) 13) = BitVec.ofNat 8 (rejectReasonCode reason) :=
        read_buildFrame 5 1 _ rfl (by simp) (by cases reason <;> rfl)
      refine ⟨read_buildFrame 0 4 seq rfl (by simp) rfl, read_buildFrame 4 1 peer rfl (by simp) ?_, ?_⟩
      · simp [leBytes]
      · rw [read]
        cases reason <;> rfl
  · obtain ⟨good, sent, sender, seq⟩ := header_recordBytes unit epoch buffers r
    refine ⟨good, sent, sender, seq, ?_⟩
    unfold recordBytes
    cases r.record.body with
    | write e peer line mask data n =>
      show Inbound.write _ _ _ _ = _
      rw [Inbound.write.injEq]
      exact ⟨read_buildFrame 4 1 _ rfl (by simp) (leBytes_one_ofNat _).symm,
        framePosition_buildFrame .write epoch unit _ _ line (leBytes 8 mask.toNat ++ lineBytes data),
        read_buildFrame 12 8 mask rfl (by simp) rfl, read_buildFrame 20 64 data rfl (by simp) rfl⟩
    | block e peer block buffer =>
      show Inbound.block _ _ _ = _
      rw [Inbound.block.injEq]
      exact ⟨read_buildFrame 4 1 _ rfl (by simp) (leBytes_one_ofNat _).symm, framePosition_buildFrame .block epoch unit _ _ block _,
        read_buildFrame 12 4096 _ rfl (by simp) (take_drop_last _ _ (by simp) (by simp))⟩
    | note tag payload =>
      show Inbound.note _ _ = _
      rw [Inbound.note.injEq]
      exact ⟨read_buildFrame 4 2 tag rfl (by simp) rfl, read_buildFrame 8 16 payload rfl (by simp) rfl⟩

end Sys2Proof.Proofs
end

section
/-! PROOFS. Carrier reports (R53), an ACCEPT taken in CALLING (R48), the expiries of the timers (R46, R69, R78, R123,
R133, R163), and the transmit arbiter (R60 to R64). -/

namespace Sys2Proof.Machine

/-! ## Carrier reports (R53) -/

section
variable {s : State}

theorem exec_carrierUp_of_raised (started : s.session.transceiver = true) (absent : s.session.carrier = false) :
    exec .carrierUp s = .next (raiseCarrier s) :=
  congrArg _ (if_pos ⟨started, absent⟩)

theorem exec_carrierDown_of_present (present : s.session.carrier = true) : exec .carrierDown s = .next (dropCarrier s) :=
  congrArg _ (if_pos present)

theorem raiseCarrier_of_not_calling (h : s.session.state ≠ .calling) :
    raiseCarrier s = { s with session := { s.session with carrier := true } } := if_neg h

theorem raiseCarrier_of_calling (h : s.session.state = .calling) : raiseCarrier s = { s with
    session := { s.session with carrier := true, joinTimer := some (s.ev.timeBase + s.params.joinInterval) }
    tx := { s.tx with control := s.tx.control ++ [⟨0, .join s.session.call s.session.lastEpoch⟩] } } := by
  rw [raiseCarrier, if_pos h]
  rfl

theorem dropCarrier_of_disabled (h : s.session.state = .disabled) : dropCarrier s = { s with
    session := { s.session with carrier := false, dropped := true }, tx := { s.tx with control := [] } } := by
  rw [dropCarrier, h]
  rfl

theorem dropCarrier_of_calling (h : s.session.state = .calling) : dropCarrier s = { s with
    session := { s.session with carrier := false, dropped := true, joinTimer := none }
    tx := { s.tx with control := [] } } := by
  rw [dropCarrier, h]
  rfl

end

/-! ## An ACCEPT taken in CALLING (R48) -/

theorem exec_accept_of_calling {rest : List Byte} {s : State} (h : Delivered s (frameOf .accept rest))
    (calling : s.session.state = .calling) : exec (.accept rest) s = .next
      (if acceptValid s (acceptFields (frameOf .accept rest)) then takeAccept s (acceptFields (frameOf .accept rest))
        else s) := by
  rw [exec_accept_of_delivered h, calling]

theorem acceptValid_iff (s : State) (a : AcceptFields) : acceptValid s a = true ↔
    a.sender ≠ s.loader.prom.unitId ∧ a.echo = s.session.call ∧ a.epoch = nextEpoch s.session.lastEpoch a.last := by
  simp [acceptValid, and_assoc]

theorem answerMatches_iff (s : State) (a : AcceptFields) : answerMatches s a = true ↔
    ∃ x, s.session.answer = some x ∧ x.epoch = a.epoch ∧ x.echo = a.call := by
  unfold answerMatches
  cases s.session.answer with
  | none => simp
  | some x => simp

/-- The state in which a part enters UP, with the session as it then stands and the control frames that wait (R48). -/
def enteredUp (s : State) (session : Session) (control : List ControlFrame) : State := { s with
  session := session
  tx :=
    { control := control, replay := [], next := 1, highest := 0, cursor := none, timer := none, timeouts := 0,
      syncRun := 0, suspended := false, lossClaim := none }
  rx :=
    { expected := 1, accepted := false, retrySent := false, deferred := none, ackPoint := 0, unacked := 0,
      ackTimer := none, carried := (s.apply.queue.filter fun en => en.last).length, compareDue := false } }

theorem enterUp_eq (s : State) (epoch : BitVec 16) : enterUp s epoch =
    emit (enteredUp s { s.session with state := .up, epoch := epoch, lastEpoch := epoch, joinTimer := none } s.tx.control)
      (.sessionUp epoch s.session.peerUnit s.session.peerCall s.session.call) := rfl

theorem takeAccept_of_sent {s : State} {a : AcceptFields} (h : answerMatches s a = true) : takeAccept s a =
    emit (enteredUp s { s.session with
        state := .up, epoch := a.epoch, lastEpoch := a.epoch, joinTimer := none, peerUnit := a.sender, peerCall := a.call }
      s.tx.control) (.sessionUp a.epoch a.sender a.call s.session.call) := by
  rw [takeAccept, if_pos h, enterUp_eq]
  rfl

theorem takeAccept_of_not_sent {s : State} {a : AcceptFields} (h : answerMatches s a = false) : takeAccept s a =
    emit (enteredUp s { s.session with
        state := .up, epoch := a.epoch, lastEpoch := a.epoch, joinTimer := none, peerUnit := a.sender, peerCall := a.call
        answer := some ⟨a.epoch, a.call, s.session.lastEpoch⟩ }
      (s.tx.control ++ [⟨0, .accept a.epoch s.session.call a.call s.session.lastEpoch⟩]))
      (.sessionUp a.epoch a.sender a.call s.session.call) := by
  rw [takeAccept, if_neg (by simp [h]), enterUp_eq]
  rfl

/-! ## Sequenced records (R75) -/

section
variable {s : State} {seq : BitVec 32} {rec : Inbound}

theorem receiveRecord_of_expected (h : seq = s.rx.expected) : receiveRecord s seq rec = inOrder s seq rec := if_pos h

theorem receiveRecord_of_below (below : seqBelow seq s.rx.expected = true) :
    receiveRecord s seq rec = generateAck (count s .duplicates) := by
  have other : seq ≠ s.rx.expected := fun e => by simp [e, seqBelow_irrefl] at below
  rw [receiveRecord, if_neg other, if_pos below]

theorem receiveRecord_of_above (above : seqBelow s.rx.expected seq = true) : receiveRecord s seq rec = gapRecord s := by
  have other : seq ≠ s.rx.expected := fun e => by simp [e, seqBelow_irrefl] at above
  rw [receiveRecord, if_neg other, if_neg (by simp [seqBelow_asymm _ _ above]), if_pos above]

theorem gapRecord_of_first (sent : s.rx.retrySent = false) (deferred : s.rx.deferred = none) :
    gapRecord s = { count s .gaps with
      tx := { s.tx with control := s.tx.control ++ [⟨s.session.epoch, .retry s.rx.expected⟩] }
      rx := { s.rx with retrySent := true } } := by
  rw [gapRecord, if_pos ⟨sent, deferred⟩]
  rfl

theorem gapRecord_of_drawn (drawn : s.rx.retrySent = true ∨ s.rx.deferred ≠ none) : gapRecord s = s :=
  if_neg fun ⟨sent, deferred⟩ => drawn.elim (fun h => by simp [sent] at h) fun h => h deferred

end

/-! ## Timers -/

section
variable {s : State} {x : BitVec 32}

theorem exec_joinTimerExpiry_of_timer (h : s.session.joinTimer = some x) (calling : s.session.state = .calling) :
    exec .joinTimerExpiry s = .next (if s.session.carrier then sendJoin (reach s x)
      else (reach s x).modSession fun y => { y with joinTimer := none }) := by
  simp only [exec, execJoinTimerExpiry, h, if_pos calling]

theorem exec_replayTimerExpiry_of_timer (h : s.tx.timer = some x) :
    exec .replayTimerExpiry s = .next (replayExpired (reach s x)) := by
  simp only [exec, execReplayTimerExpiry, h]

theorem exec_ackDelayTimerExpiry_of_timer (h : s.rx.ackTimer = some x) (session : inSession s = true) :
    exec .ackDelayTimerExpiry s = .next (generateAck (reach s x)) := by
  simp only [exec, execAckDelayTimerExpiry, h, if_pos session]

theorem exec_holdLimitExpiry_of_timer (h : s.mem.holdTimer = some x) (full : s.mem.hold = .syncFull) :
    exec .holdLimitExpiry s = .next ((endHold (count (reach s x) .holdExpiries)).modMem fun m =>
      { m with limitExpired := true }) := by
  simp only [exec, execHoldLimitExpiry, h, if_pos full]

theorem exec_quietTimerExpiry_of_timer {e : RegionIx} (h : ((s.apply.reports)[e]).timer = some x) :
    exec (.quietTimerExpiry e) s = .next ((reach s x).modApply fun a =>
      { a with reports := setAt a.reports e { (a.reports)[e] with timer := none } }) := by
  simp only [exec, execQuietTimerExpiry, h]

theorem exec_attnDelayExpiry_of_timer (h : s.ev.attnTimer = some x) :
    exec .attnDelayExpiry s = .next ((reach s x).modEv fun e =>
      { e with attnTimer := none, attn := e.attn || decide (0 < unreleased e) }) := by
  simp only [exec, execAttnDelayExpiry, h]

/-- Behind an expiry only the time base has moved. -/
theorem reach_eq (s : State) (x : BitVec 32) :
    reach s x = { s with ev := { s.ev with timeBase := (reach s x).ev.timeBase } } := by
  unfold reach
  split
  · rfl
  · rfl

theorem replayExpired_of_limit (h : s.params.retryLimit.toNat < s.tx.timeouts + 1) : replayExpired s = { s with
    tx := { s.tx with timeouts := s.tx.timeouts + 1, timer := none, suspended := true, lossClaim := some .retryLimit } } := by
  rw [replayExpired, if_pos (by exact h)]
  rfl

theorem replayExpired_of_room (h : s.tx.timeouts + 1 ≤ s.params.retryLimit.toNat) : replayExpired s = { s with
    tx := { s.tx with
      timeouts := s.tx.timeouts + 1, cursor := s.tx.replay.head?.map Replayed.seq
      timer := some (s.ev.timeBase + s.params.replayTimeout) } } := by
  rw [replayExpired, if_neg (by exact h.not_gt)]
  rfl

end

/-! ## The transmit arbiter (R60) -/

section
variable {s : State}

theorem exec_transmit_of_carrier (h : s.session.carrier = true) :
    exec .transmitArbiterChoice s = .next (transmitChoice s) := congrArg _ (if_pos h)

theorem transmitChoice_of_control {f : ControlFrame} {rest : List ControlFrame} (h : s.tx.control = f :: rest) :
    transmitChoice s = { s with
      tx := { s.tx with control := rest }
      out := { s.out with toLink := s.out.toLink ++ [controlBytes s.loader.prom.unitId f] } } := by
  unfold transmitChoice
  rw [h]
  rfl

theorem transmitChoice_of_suspended (empty : s.tx.control = []) (h : s.tx.suspended = true) : transmitChoice s = s := by
  unfold transmitChoice
  rw [empty]
  exact if_pos h

theorem transmitChoice_of_cursor {n : BitVec 32} {r : Replayed} (empty : s.tx.control = []) (on : s.tx.suspended = false)
    (cursor : s.tx.cursor = some n) (found : (s.tx.replay.find? fun r => r.seq == n) = some r) :
    transmitChoice s = retransmit s r := by
  unfold transmitChoice
  rw [empty]
  dsimp only
  rw [if_neg (by simp [on]), cursor]
  dsimp only
  rw [found]

theorem transmitChoice_of_no_cursor (empty : s.tx.control = []) (on : s.tx.suspended = false)
    (cursor : s.tx.cursor = none) : transmitChoice s = transmitNew s := by
  unfold transmitChoice
  rw [empty]
  dsimp only
  rw [if_neg (by simp [on]), cursor]

theorem nextAfter_append (r : Replayed) (after : List Replayed) : ∀ before : List Replayed,
    (∀ x ∈ before, x.seq ≠ r.seq) → nextAfter r.seq (before ++ r :: after) = after.head?.map Replayed.seq
  | [], _ => if_pos rfl
  | a :: before, h => by
    obtain ⟨first, rest⟩ := List.forall_mem_cons.mp h
    rw [List.cons_append, nextAfter, if_neg first, nextAfter_append r after before rest]

/-- The queue of R61. -/
theorem chosenQueue_eq_some {q : QueueClass} {r : Record} {rest : List Record} (head : s.capture.queueOf q = r :: rest)
    (h : q = .async ↔ s.capture.sync = [] ∨ (s.tx.syncRun = 8 ∧ s.capture.async ≠ [])) : chosenQueue s = some q := by
  unfold chosenQueue
  cases q with
  | sync =>
    have sync : s.capture.sync = r :: rest := head
    have turn : ¬(s.tx.syncRun = 8 ∧ s.capture.async ≠ []) := fun g => by simpa using h.mpr (.inr g)
    rw [if_neg (by simp [sync]), if_neg fun ⟨run, waits⟩ => turn ⟨run, by simpa using waits⟩]
  | async =>
    have async : s.capture.async = r :: rest := head
    split
    · rw [if_neg (by simp [async])]
    next waits =>
      obtain empty | ⟨run, _⟩ := h.mp rfl
      · exact absurd (by simp [empty]) waits
      · rw [if_pos ⟨run, by simp [async]⟩]

theorem transmitNew_of_none (h : inSession s = false ∨ Config.replaySlots ≤ s.tx.replay.length ∨
    (s.capture.sync = [] ∧ s.capture.async = [])) : transmitNew s = s := by
  unfold transmitNew
  split
  next open' =>
    obtain ⟨session, room⟩ := open'
    obtain out | full | ⟨sync, async⟩ := h
    · simp [out] at session
    · exact absurd full room.not_ge
    · simp [chosenQueue, sync, async]
  · rfl

theorem transmitNew_of_head {q : QueueClass} {r : Record} {rest : List Record} (session : inSession s = true)
    (room : s.tx.replay.length < Config.replaySlots) (chosen : chosenQueue s = some q)
    (head : s.capture.queueOf q = r :: rest) : transmitNew s = firstTransmit s q r := by
  unfold transmitNew
  rw [if_pos ⟨session, room⟩, chosen]
  dsimp only
  rw [head]

/-- A freed SYNC slot ends a SYNC_FULL hold (R24). -/
theorem slotFreed_eq (s : State) (q : QueueClass) : slotFreed s q = { s with
    mem := if q = .sync ∧ s.mem.hold = .syncFull then { s.mem with hold := .none, holdTimer := none } else s.mem } := by
  cases q
  · rw [slotFreed, endHoldOf_eq]
    simp
  · simp [slotFreed]

/-- A first transmission, in one piece (R61, R62). -/
theorem transmitWork_eq (s : State) (q : QueueClass) (r : Record) : transmitWork s q r = { s with
    capture := s.capture.setQueue q (s.capture.queueOf q).tail
    tx := { s.tx with
      next := seqSucc s.tx.next, highest := s.tx.next, replay := s.tx.replay ++ [⟨s.tx.next, r⟩]
      timer := if s.tx.replay = [] then some (s.ev.timeBase + s.params.replayTimeout) else s.tx.timer
      syncRun := if q = .async then 0 else min 8 (s.tx.syncRun + 1) }
    out := { s.out with toLink := s.out.toLink ++ [frameBytes s ⟨s.tx.next, r⟩] }
    mem := if q = .sync ∧ s.mem.hold = .syncFull then { s.mem with hold := .none, holdTimer := none } else s.mem
    stats := (if r.kind = .block then count (count s .recordsSent) .blocksSent else count s .recordsSent).stats } := by
  have run : (match q with
      | .sync => min 8 (s.tx.syncRun + 1)
      | .async => 0) = if q = .async then 0 else min 8 (s.tx.syncRun + 1) := by cases q <;> rfl
  have timer : (if s.tx.replay.isEmpty = true then some (replayExpiry s) else s.tx.timer) =
      if s.tx.replay = [] then some (s.ev.timeBase + s.params.replayTimeout) else s.tx.timer := by
    simp only [List.isEmpty_iff]
    rfl
  rw [← run, ← timer, transmitWork, popQueue, slotFreed_eq]
  split
  · rfl
  · rfl

end

end Sys2Proof.Machine

namespace Sys2Proof.Proofs

open Sys2Proof.Machine

/-- Settles O14: by the flag, and by the session state. -/
theorem carrierReports : Obligations.CarrierReports := by
  intro s
  refine ⟨fun started absent out => ?_, fun started absent calling => ?_, fun present => ?_, fun absent => ?_,
    fun present disabled => ?_, fun present calling => ?_⟩
  · rw [exec_carrierUp_of_raised started absent, raiseCarrier_of_not_calling out]
  · rw [exec_carrierUp_of_raised started absent, raiseCarrier_of_calling calling]
  · exact congrArg _ (if_neg fun h => by simp [present] at h)
  · exact congrArg _ (if_neg (by simp [absent]))
  · rw [exec_carrierDown_of_present present, dropCarrier_of_disabled disabled]
  · rw [exec_carrierDown_of_present present, dropCarrier_of_calling calling]

/-- Settles O12: by the validity of the ACCEPT, and by whether its answer was sent. -/
theorem acceptInCalling : Obligations.AcceptInCalling := by
  intro rest s delivered calling a valid sent
  have valid_iff : acceptValid s a = true ↔ valid := acceptValid_iff s a
  have sent_iff : answerMatches s a = true ↔ sent := answerMatches_iff s a
  rw [exec_accept_of_calling delivered calling]
  refine ⟨fun invalid => ?_, fun answer frames good was wasNot => ?_⟩
  · rw [if_neg (mt valid_iff.mp invalid)]
  · rw [if_pos (valid_iff.mpr good)]
    by_cases h : sent
    · obtain ⟨rfl, rfl⟩ := was h
      rw [List.append_nil, takeAccept_of_sent (sent_iff.mpr h)]
      rfl
    · obtain ⟨rfl, rfl⟩ := wasNot h
      rw [takeAccept_of_not_sent (Bool.eq_false_iff.mpr (mt sent_iff.mp h))]
      rfl

/-- Settles O17: by where the number lies, and in order by the room of the apply queue. -/
theorem duplicateGapAndDeferred : Obligations.DuplicateGapAndDeferred := by
  intro c bytes seq rec s session record current
  rw [exec_record c bytes seq rec s session record current]
  refine ⟨fun below => ?_, fun above sent deferred => ?_, fun above drawn => ?_, fun expected little => ?_⟩
  · rw [receiveRecord_of_below below]
    rfl
  · rw [receiveRecord_of_above above, gapRecord_of_first sent deferred]
  · rw [receiveRecord_of_above above, gapRecord_of_drawn drawn]
  · rw [receiveRecord_of_expected expected, inOrder, if_neg (by exact little.not_ge)]
    rfl

/-- Settles O22: each expiry by its timer, behind the move of the time base. -/
theorem timerExpiries : Obligations.TimerExpiries := by
  refine ⟨fun s => ⟨fun x timer calling carrier => ?_, fun x timer calling absent => ?_, fun x timer past => ?_,
    fun x timer room => ?_, fun x timer session => ?_, fun stopped => ?_, fun stopped => ?_, fun stopped => ?_⟩,
    fun e s => ⟨fun x timer full => ?_, fun x n report => ?_, fun x timer => ?_, fun stopped => ?_, fun stopped => ?_,
      fun stopped => ?_⟩⟩
  · rw [exec_joinTimerExpiry_of_timer timer calling, if_pos carrier, reach_eq]
    rfl
  · rw [exec_joinTimerExpiry_of_timer timer calling, if_neg (by simp [absent]), reach_eq]
    rfl
  · rw [exec_replayTimerExpiry_of_timer timer, reach_eq, replayExpired_of_limit (by exact past)]
  · rw [exec_replayTimerExpiry_of_timer timer, reach_eq, replayExpired_of_room (by exact room)]
  · rw [exec_ackDelayTimerExpiry_of_timer timer session, reach_eq]
    rfl
  · simp only [exec, execJoinTimerExpiry, stopped]
  · simp only [exec, execReplayTimerExpiry, stopped]
  · simp only [exec, execAckDelayTimerExpiry, stopped]
  · rw [exec_holdLimitExpiry_of_timer timer full, reach_eq]
    rfl
  · have running : ((s.apply.reports)[e]).timer = some x := by rw [report]
    rw [exec_quietTimerExpiry_of_timer running, reach_eq]
    simp only [State.modApply, report]
  · refine ⟨_, exec_attnDelayExpiry_of_timer timer, ?_, ((reach_frame s x).mono rfl).then (modEv_frame _ _) rfl⟩
    rw [reach_eq]
    rfl
  · simp only [exec, execHoldLimitExpiry, stopped]
  · simp only [exec, execQuietTimerExpiry, stopped]
  · simp only [exec, execAttnDelayExpiry, stopped]

/-- Settles O21: by what the Link Transmitter has to send, in the order of R60; the record of a first transmission stands
in the replay list, so no drain test passes. -/
theorem transmitArbiter : Obligations.TransmitArbiter := by
  refine ⟨fun s => ⟨fun absent => ?_, fun f rest carrier waits => ?_, fun carrier empty suspended => ?_,
    fun before r after carrier empty on cursor split apart => ?_, fun carrier empty cursor nothing => ?_⟩,
    fun q r rest s carrier empty on cursor session room turn head => ?_⟩
  · exact congrArg _ (if_neg (by simp [absent]))
  · rw [exec_transmit_of_carrier carrier, transmitChoice_of_control waits]
  · rw [exec_transmit_of_carrier carrier, transmitChoice_of_suspended empty suspended]
  · have found : (s.tx.replay.find? fun x => x.seq == r.seq) = some r := by
      rw [split, List.find?_append, List.find?_eq_none.mpr (by simpa using apart)]
      simp
    rw [exec_transmit_of_carrier carrier, transmitChoice_of_cursor empty on cursor found, ← nextAfter_append r after before apart,
      ← split]
    rfl
  · rw [exec_transmit_of_carrier carrier]
    cases suspended : s.tx.suspended with
    | true => rw [transmitChoice_of_suspended empty suspended]
    | false => rw [transmitChoice_of_no_cursor empty suspended cursor, transmitNew_of_none nothing]
  · have sent : exec .transmitArbiterChoice s = .next (transmitWork s q r) := by
      rw [exec_transmit_of_carrier carrier, transmitChoice_of_no_cursor empty on cursor,
        transmitNew_of_head session room (chosenQueue_eq_some head turn) head, firstTransmit_eq,
        drainTest_of_replay _ (by rw [transmitWork_eq]; simp)]
    rw [transmitWork_eq, head, List.tail_cons] at sent
    refine ⟨_, sent, rfl, rfl, rfl, rfl, rfl, ?_⟩
    constructor <;> intro out <;> first | rfl | exact absurd (by decide) out

end Sys2Proof.Proofs
end

section
/-! PROOFS. Address classes and the overlap rule (R6, R16), and the requests that are passed on, captured or answered by
the part (R25, R26, R122, R131, R138, R142). -/

namespace Sys2Proof.Machine

/-! ## Classes (R16) -/

theorem entryHolds_iff (en : Entry) (a : Nat) : entryHolds en a = true ↔
    en.state ≠ .free ∧ en.base.toNat ≤ a ∧ a < en.base.toNat + 2 ^ en.sizeExp := by
  simp only [entryHolds, Bool.and_eq_true, bne_iff_ne, decide_eq_true_eq, and_assoc, ne_eq]
  rfl

theorem regionAt_eq_none {s : State} {a : Nat} (h : ∀ e, entryHolds (s.entry e) a = false) : regionAt s a = none :=
  List.find?_eq_none.mpr fun e _ => by simp [h e]

/-- The first index that a test picks. -/
theorem find?_finRange_eq_some {n : Nat} {p : Fin n → Bool} {i : Fin n} (picks : p i = true)
    (first : ∀ j, j < i → p j = false) : (List.finRange n).find? p = some i := by
  obtain ⟨before, after, split⟩ := List.append_of_mem (List.mem_finRange i)
  have sorted : (before ++ i :: after).Pairwise (· < ·) := split ▸ List.pairwise_lt_finRange n
  refine List.find?_eq_some_iff_append.mpr ⟨picks, before, after, split, fun j m => ?_⟩
  have below : j < i := (List.pairwise_append.mp sorted).2.2 j m i (List.mem_cons_self ..)
  simp [first j below]

/-- The first entry that holds the line. -/
theorem regionAt_eq_some {s : State} {a : Nat} {e : RegionIx} (holds : entryHolds (s.entry e) a = true)
    (first : ∀ e', e' < e → entryHolds (s.entry e') a = false) : regionAt s a = some e :=
  find?_finRange_eq_some holds first

section
variable {s : State} {a : Nat}

theorem classify_of_control (h : controlBase s ≤ a ∧ a < controlBase s + 4096) : classify s a = .control := if_pos h

theorem classify_of_ring (h : ¬(controlBase s ≤ a ∧ a < controlBase s + 4096))
    (g : s.ev.ringBase.toNat ≤ a ∧ a < ringEnd s) : classify s a = .ring := by
  rw [classify, if_neg h, if_pos g]

theorem classify_of_regionAt (h : ¬(controlBase s ≤ a ∧ a < controlBase s + 4096))
    (g : ¬(s.ev.ringBase.toNat ≤ a ∧ a < ringEnd s)) : classify s a =
      (regionAt s a).elim .unwatched AddrClass.region := by
  rw [classify, if_neg h, if_neg g]
  cases regionAt s a <;> rfl

end

/-! ## The overlap rule (R6) -/

theorem rangesMeet_iff (lo hi b bEnd : Nat) : rangesMeet lo hi b bEnd = true ↔ lo < bEnd ∧ b < hi := by
  simp [rangesMeet]

theorem meetsRegion_iff (s : State) (lo hi : Nat) : meetsRegion s lo hi = true ↔ ∃ e, (s.entry e).state ≠ .free ∧
    (lo < (s.entry e).base.toNat + 2 ^ (s.entry e).sizeExp ∧ (s.entry e).base.toNat < hi) := by
  simp [meetsRegion, entryList, rangesMeet_iff, entryEnd]

theorem meetsWriteOut_iff (s : State) (lo hi : Nat) : meetsWriteOut s lo hi = true ↔ ∃ w, s.cmd.writeOut = some w ∧
    (lo < w.dest + (if w.isSnapshot then 1088 else 128) ∧ w.dest < hi) := by
  unfold meetsWriteOut
  cases s.cmd.writeOut with
  | none => simp
  | some w => simp [rangesMeet_iff, writeOutBytes]

theorem meetsOldEntries_iff (s : State) (lo hi : Nat) : meetsOldEntries s lo hi = true ↔
    ∃ it ∈ s.ev.list, it.current = false ∧ (lo < it.slot.toNat + 32 ∧ it.slot.toNat < hi) := by
  simp [meetsOldEntries, rangesMeet_iff]

/-! ## A grant that issues the head -/

theorem responses_of_granted {s : State} {req : SysRequest} (g : Granted s req) : s.mem.responses.length < 16 :=
  ((waitingHead_eq_some s req).mp g.1).2.1

theorem hold_of_granted {s : State} {req : SysRequest} (g : Granted s req) : s.mem.hold = .none :=
  ((waitingHead_eq_some s req).mp g.1).1

/-- What `Issued` says is about the Memory Path alone. -/
theorem issued_of_mem {s t u v : State} {req : SysRequest} {region : Option RegionIx} (h : t.mem = s.mem)
    (g : v.mem = u.mem) (i : Issued t u req region) : Issued s v req region := by
  unfold Issued at i ⊢
  rwa [g, ← h]

/-- A grant that issues its request is the arbiter's last choice. -/
theorem exec_of_issued {s t : State} {req : SysRequest} {region : Option RegionIx} (g : Granted s req)
    (grant : grantHead s req = t) (issued : Issued s t req region) : exec .memoryPortArbiter s = .next t := by
  obtain ⟨p, _, mem⟩ := issued
  rw [← grant] at mem ⊢
  exact exec_granted s req g (by rw [mem]; simp)

/-- A grant that leaves the requests outstanding as they are is followed by another choice. -/
theorem exec_of_unissued {s u : State} {req : SysRequest} (g : Granted s req) (grant : grantHead s req = u)
    (outstanding : u.mem.outstanding = s.mem.outstanding) :
    exec .memoryPortArbiter s = exec .memoryPortArbiter u := by
  rw [← grant] at outstanding ⊢
  exact exec_grantedAgain s req g (by rw [outstanding])

/-- What the injected sources wait with. -/
theorem grantedSource_congr {s t : State} (apply : t.apply.queue = s.apply.queue) (resync : t.resync = s.resync)
    (ev : t.ev.list = s.ev.list ∧ t.ev.writeOutLines = s.ev.writeOutLines)
    (outstanding : t.mem.outstanding = s.mem.outstanding) (pointer : t.mem.pointer = s.mem.pointer) :
    grantedSource t = grantedSource s := by
  obtain ⟨list, lines⟩ := ev
  have waiting (i : Injected) : injectedWaiting t i = injectedWaiting s i := by
    unfold injectedWaiting injectedRoom injectedOutstanding
    rw [outstanding]
    cases i
    case apply => rw [hasRequest, hasRequest, apply]
    case resync => rw [hasRequest, hasRequest, resync]
    case writer => rw [hasRequest, hasRequest, writerOutstanding, writerOutstanding, list, lines, outstanding]
  simp only [grantedSource, waiting, pointer]

/-- Behind a hold nothing more is granted, where no injected source waits. -/
theorem exec_of_held {u : State} (hold : u.mem.hold ≠ .none) (source : grantedSource u = none) :
    exec .memoryPortArbiter u = .next u :=
  exec_noneWaiting u (if_neg fun h => hold h.1) source

/-- With the head gone and none behind it, nothing more is granted, where no injected source waits. -/
theorem exec_of_absent {u : State} (head : u.mem.head = none) (source : grantedSource u = none) :
    exec .memoryPortArbiter u = .next u := by
  refine exec_noneWaiting u ?_ source
  unfold waitingHead
  split
  · exact head
  · rfl

theorem grantHead_of_malformed {s : State} {req : SysRequest} (h : malformed req = true) :
    grantHead s req = answerHead s req := if_pos h

theorem malformed_iff (req : SysRequest) : malformed req = true ↔ ∃ tag addr len, req = .read tag addr len ∧
    (len = 0 ∨ 64 < len ∨ 64 < addr.toNat % 64 + len) := by
  cases req with
  | read tag addr len => simp [malformed, or_assoc]
  | write => simp [malformed]

section
variable {s : State} {tag : BitVec 16} {addr : Addr} {mask : ByteMask} {data : Line} {len : Nat}

theorem grantHead_write (running : s.loader.loadState ≠ .bypass) : grantHead s (.write tag addr mask data) =
    presentWrite s (.write tag addr mask data) (lineOf addr) mask data := by
  rw [grantHead, if_neg (by simp [malformed]), if_neg running]
  rfl

theorem grantHead_read (running : s.loader.loadState ≠ .bypass) (formed : malformed (.read tag addr len) = false) :
    grantHead s (.read tag addr len) = presentRead s (.read tag addr len) (lineOf addr) := by
  rw [grantHead, if_neg (by simp [formed]), if_neg running]
  rfl

theorem presentWrite_of_region {req : SysRequest} {a : Nat} {e : RegionIx} (h : classify s a = .region e) :
    presentWrite s req a mask data = match (s.entry e).state with
      | .accepting | .failed | .releasing => refuseWrite s req e a
      | .mirrored => presentMirrored s req e a mask data
      | .lagging | .refused => markAddr (issueHead s req (some e)) e a
      | .draining | .free => issueHead s req none := by
  unfold presentWrite
  rw [h] <;> rfl

end

/-! ## Applies pending for a line (R124) -/

/-- An entry that applies to a line. -/
def AppliesTo (a : Addr) (en : ApplyEntry) : Prop := ∃ m d k, en.kind = .line a m d k

theorem waitFor_of_none {a : Addr} : ∀ {q : List ApplyEntry}, (∀ en ∈ q, ¬AppliesTo a en) → waitFor a q = 0
  | [], _ => rfl
  | en :: q, h => by
    obtain ⟨first, rest⟩ := List.forall_mem_cons.mp h
    rw [waitFor, waitFor_of_none rest]
    simp only [Nat.lt_irrefl, if_false]
    split
    next addr m d k kind =>
      exact if_neg fun same => first ⟨m, d, k, by rw [kind, same]⟩
    · rfl
    · rfl

/-- The wait reaches up to the youngest entry of the line. -/
theorem waitFor_append {a : Addr} {en : ApplyEntry} {later : List ApplyEntry} (applies : AppliesTo a en)
    (none : ∀ x ∈ later, ¬AppliesTo a x) : ∀ before : List ApplyEntry,
    waitFor a (before ++ en :: later) = before.length + 1
  | [] => by
    obtain ⟨m, d, k, kind⟩ := applies
    simp [waitFor, waitFor_of_none none, kind]
  | x :: before => by
    simp [waitFor, waitFor_append applies none before]

theorem toNat_lineOf (addr : Addr) : (BitVec.ofNat 40 (lineOf addr)).toNat = lineOf addr := by
  rw [BitVec.toNat_ofNat]
  exact Nat.mod_eq_of_lt (lt_of_le_of_lt (Nat.div_mul_le_self ..) addr.isLt)

theorem appliesTo_lineOf_iff (addr : Addr) (en : ApplyEntry) : AppliesTo (BitVec.ofNat 40 (lineOf addr)) en ↔
    ∃ a m d k, en.kind = .line a m d k ∧ a.toNat = lineOf addr := by
  constructor
  · rintro ⟨m, d, k, kind⟩
    exact ⟨_, m, d, k, kind, toNat_lineOf addr⟩
  · rintro ⟨a, m, d, k, kind, same⟩
    refine ⟨m, d, k, ?_⟩
    rwa [← same, BitVec.ofNat_toNat, BitVec.setWidth_eq]

end Sys2Proof.Machine

namespace Sys2Proof.Proofs

open Sys2Proof.Machine

/-- Settles O24: each class by the tests before it, and each comparison of the overlap rule by its ranges. -/
theorem classesAndOverlaps : Obligations.ClassesAndOverlaps := by
  intro s control ring ringEnd' holds inControl inRing meets meetsEntry meetsWriteOut' meetsOldSlot
  have holds_iff (e : RegionIx) (a : Nat) : entryHolds (s.entry e) a = true ↔ holds e a := entryHolds_iff ..
  refine ⟨fun a => ⟨fun h => classify_of_control h, fun h g => classify_of_ring h g, fun e h g here first => ?_,
    fun h g nowhere => ?_⟩, fun lo hi => ⟨?_, ?_, ?_⟩⟩
  · rw [classify_of_regionAt h g, regionAt_eq_some ((holds_iff e a).mpr here)
      fun e' below => Bool.eq_false_iff.mpr (mt (holds_iff e' a).mp (first e' below))]
    rfl
  · rw [classify_of_regionAt h g, regionAt_eq_none fun e => Bool.eq_false_iff.mpr (mt (holds_iff e a).mp (nowhere e))]
    rfl
  · simp only [openOverlaps, Bool.or_eq_true, or_assoc, meetsRegion_iff, meetsControl, meetsRing, rangesMeet_iff,
      meetsWriteOut_iff, meetsOldEntries_iff]
    rfl
  · simp only [ringOverlaps, Bool.or_eq_true, or_assoc, meetsRegion_iff, meetsControl, rangesMeet_iff, meetsWriteOut_iff]
    rfl
  · simp only [writeOutOverlaps, Bool.or_eq_true, or_assoc, meetsRegion_iff, meetsControl, meetsRing, rangesMeet_iff]
    rfl

/-- Settles O25: each of the requests is granted as it stands and issued; a malformed READ is answered, and with none
behind it and no injected source the arbiter then finds nothing. -/
theorem otherRequestsAreIssued : Obligations.OtherRequestsAreIssued := by
  intro req s granted
  have room := responses_of_granted granted
  refine ⟨malformed_iff req, fun formed passed => ?_, fun bad => ?_⟩
  · have issued : grantHead s req = issueHead s req none := by
      by_cases bypass : s.loader.loadState = .bypass
      · rw [grantHead, if_neg (by simp [formed]), if_pos bypass]
      obtain here | ⟨tag, addr, len, rfl, read⟩ | ⟨tag, addr, mask, data, rfl, write⟩ := passed
      · exact absurd here bypass
      · rw [grantHead_read bypass formed]
        unfold presentRead
        split
        next e region =>
          refine if_neg fun ⟨target, first, waits⟩ => ?_
          obtain source | presented | none := read
          · exact source e region target
          · simp [presented] at first
          · rw [waitFor_of_none fun en m applies => ?_] at waits
            · exact absurd waits (Nat.lt_irrefl 0)
            · obtain ⟨a, m', d, k, kind, same⟩ := (appliesTo_lineOf_iff addr en).mp applies
              exact none en m a m' d k kind same
        all_goals rfl
      · rw [grantHead_write bypass]
        obtain ring | unwatched | ⟨e, region, draining⟩ := write
        · rw [presentWrite, ring]
        · rw [presentWrite, unwatched]
        · rw [presentWrite_of_region region, draining]
    have done := issued_issueHead s req none room
    exact ⟨_, exec_of_issued granted issued done, done, issueHead_frame s req none⟩
  · have answered := grantHead_of_malformed (s := s) bad
    have again := exec_of_unissued granted answered rfl
    refine ⟨_, again, answered_answerHead s req room, (answerHead_frame s req).mono rfl, fun behind source => ?_⟩
    rw [again]
    refine exec_of_absent ?_ ((grantedSource_congr rfl rfl ⟨rfl, rfl⟩ rfl rfl).trans source)
    show s.mem.behind.head? = none
    rw [behind]
    rfl

end Sys2Proof.Proofs
end

section
/-! PROOFS. Writes of the masters that the capture takes, that mark a segment, or that go to the control page (R25, R26,
R80, R131, R142). -/

namespace Sys2Proof.Machine

/-! ## The merge (R26) -/

/-- A record takes a write to a line of a region: it is a WRITE of that line, not below the boundary, with room for one
more. -/
def Merges (s : State) (e : RegionIx) (line : Nat) (r : Record) (peer : RegionIx) (m : ByteMask) (d : Line) (n : Nat) :
    Prop :=
  r.body = .write e peer line m d n ∧ (s.capture.boundary = 0 ∨ capBelow r.cap s.capture.boundary = false) ∧ n < 255

section
variable {s : State} {e : RegionIx} {line : Nat} {mask : ByteMask} {data : Line} {r : Record}

theorem mergeInto_of_merges {peer : RegionIx} {m : ByteMask} {d : Line} {n : Nat} (h : Merges s e line r peer m d n) :
    mergeInto s.capture.boundary e line mask data r =
      some { r with body := .write e peer line (m ||| mask) (mergeLine d data mask) (n + 1) } := by
  obtain ⟨body, boundary, few⟩ := h
  rw [mergeInto, body]
  exact if_pos ⟨rfl, rfl, fun ⟨set, below⟩ => boundary.elim set (by simp [below]), few⟩

theorem mergeInto_eq_none (h : ∀ peer m d n, ¬Merges s e line r peer m d n) :
    mergeInto s.capture.boundary e line mask data r = none := by
  unfold mergeInto
  split
  next reg peer off m d n body =>
    refine if_neg fun ⟨region, same, boundary, few⟩ => h peer m d n ⟨by rw [body, region, same], ?_, few⟩
    by_cases zero : s.capture.boundary = 0
    · exact .inl zero
    · exact .inr (Bool.eq_false_iff.mpr fun below => boundary ⟨zero, below⟩)
  all_goals rfl

theorem tryMerge_of_tail {before : List Record} {r' : Record}
    (tail : s.capture.queueOf (s.entry e).queue = before ++ [r])
    (merged : mergeInto s.capture.boundary e line mask data r = some r') : tryMerge s e line mask data =
      some { s with capture := s.capture.setQueue (s.entry e).queue (before ++ [r']) } := by
  simp [tryMerge, tail, merged, State.modCapture]

theorem tryMerge_eq_none (h : ∀ r peer m d n, (s.capture.queueOf (s.entry e).queue).getLast? = some r →
    ¬Merges s e line r peer m d n) : tryMerge s e line mask data = none := by
  unfold tryMerge
  dsimp only
  split
  next r last => rw [mergeInto_eq_none fun peer m d n => h r peer m d n last]
  · rfl

end

/-! ## The capture of a write (R25) -/

section
variable {s : State} {e : RegionIx} {a : Nat} {mask : ByteMask} {data : Line}

theorem captureWrite_of_merge {before : List Record} {r : Record} {peer : RegionIx} {m : ByteMask} {d : Line} {n : Nat}
    (tail : s.capture.queueOf (s.entry e).queue = before ++ [r])
    (merges : Merges s e (lineOffset (s.entry e) a) r peer m d n) : captureWrite s e a mask data =
      some (count (count { s with
        capture := s.capture.setQueue (s.entry e).queue
          (before ++ [{ r with
            body := .write e peer (lineOffset (s.entry e) a) (m ||| mask) (mergeLine d data mask) (n + 1) }]) }
        .capturedWrites) .mergedWrites) := by
  simp only [captureWrite, tryMerge_of_tail tail (mergeInto_of_merges merges)]

theorem captureWrite_of_slot (alone : ∀ r peer m d n, (s.capture.queueOf (s.entry e).queue).getLast? = some r →
      ¬Merges s e (lineOffset (s.entry e) a) r peer m d n)
    (free : 0 < freeSlots s (s.entry e).queue) : captureWrite s e a mask data =
      some (count (appendRecord s (s.entry e).queue
        (.write e (s.entry e).peer (lineOffset (s.entry e) a) mask (underMask data mask) 1)) .capturedWrites) := by
  simp only [captureWrite, tryMerge_eq_none alone, if_pos free]

/-! ## A write into a MIRRORED region (R131 test 3) -/

theorem presentMirrored_of_captured {req : SysRequest} {t : State} (clear : inBlockRead s e a = false)
    (limit : s.mem.limitExpired = false ∨ (s.entry e).queue = .async)
    (captured : captureWrite s e a mask data = some t) :
    presentMirrored s req e a mask data = issueHead t req (some e) := by
  have within : ¬(s.mem.limitExpired ∧ (s.entry e).queue = .sync) := by
    rintro ⟨expired, sync⟩
    obtain running | async := limit
    · simp [running] at expired
    · simp [async] at sync
  rw [presentMirrored, if_neg (by simp [clear]), if_neg within, captured]

/-- A captured write is issued in the same action. -/
theorem captured_is_issued {tag : BitVec 16} {addr : Addr} {t : State} (granted : Granted s (.write tag addr mask data))
    (running : s.loader.loadState ≠ .bypass) (region : classify s (lineOf addr) = .region e)
    (mirrored : (s.entry e).state = .mirrored) (clear : inBlockRead s e (lineOf addr) = false)
    (limit : s.mem.limitExpired = false ∨ (s.entry e).queue = .async)
    (captured : captureWrite s e (lineOf addr) mask data = some t) :
    ∃ u, exec .memoryPortArbiter s = .next u ∧ Issued s u (.write tag addr mask data) (some e) ∧ SameBut [.mem] t u ∧
      SameBut [.mem, .capture, .stats] s u := by
  have frame := captureWrite_frame s t e (lineOf addr) mask data captured
  have mem : t.mem = s.mem := frame.mem (by decide)
  have issued := issued_of_mem mem rfl (issued_issueHead t (.write tag addr mask data) (some e)
    (by rw [mem]; exact responses_of_granted granted))
  have grant : grantHead s (.write tag addr mask data) = issueHead t (.write tag addr mask data) (some e) := by
    rw [grantHead_write running, presentWrite_of_region region, mirrored]
    exact presentMirrored_of_captured clear limit captured
  exact ⟨_, exec_of_issued granted grant issued, issued, issueHead_frame t _ _,
    (frame.mono rfl).then (issueHead_frame t _ _) rfl⟩

/-! ## A write into a LAGGING or REFUSED region (R80) -/

/-- The segment that a write of a line marks. -/
theorem markAddr_eq (s : State) (e : RegionIx) (a : Nat) : markAddr s e a =
    mark s e ((a - (s.entry e).base.toNat) / 64 / (segBytes (s.entry e).sizeExp / 64)) := rfl

theorem stats_mark (k : Nat) (markable : Machine.markable (s.entry e).state = true) : (mark s e k).stats =
    if k ∈ (s.entry e).dirty then s.stats else (count s .dirtyMarks).stats := by
  unfold mark
  by_cases dirty : k ∈ (s.entry e).dirty
  · simp [dirty]
  · rw [if_pos (by simp [markable, dirty]), if_neg dirty]
    rfl

/-! ## A write to the control page (R142) -/

theorem grantHead_control {tag : BitVec 16} {addr : Addr} (running : s.loader.loadState ≠ .bypass)
    (control : classify s (lineOf addr) = .control) : grantHead s (.write tag addr mask data) =
      presentControl s (.write tag addr mask data) mask data := by
  rw [grantHead_write running, presentWrite, control]

end

end Sys2Proof.Machine

namespace Sys2Proof.Proofs

open Sys2Proof.Machine

/-- Settles O26: by the merge into the tail, and by the free slot. -/
theorem mirroredWriteIsCaptured : Obligations.MirroredWriteIsCaptured := by
  intro tag addr mask data e q s req line qualifies granted running region mirrored queue clear limit
  subst queue
  refine ⟨fun before r peer m d n tail merges => ?_, fun alone free => ?_⟩
  · have captured := captureWrite_of_merge (mask := mask) (data := data) tail merges
    obtain ⟨t, run, issued, same, frame⟩ := captured_is_issued granted running region mirrored clear limit captured
    exact ⟨t, run, issued, same.capture (by decide), same.stats (by decide), frame⟩
  · have captured := captureWrite_of_slot (mask := mask) (data := data)
      (fun r peer m d n last => alone r peer m d n last) free
    obtain ⟨t, run, issued, same, frame⟩ := captured_is_issued granted running region mirrored clear limit captured
    exact ⟨t, run, issued, same.capture (by decide), same.stats (by decide), frame⟩

/-- Settles O27, by what a mark changes. -/
theorem laggingWriteIsMarked : Obligations.LaggingWriteIsMarked := by
  intro tag addr mask data e s req k granted running region state
  have markable : markable (s.entry e).state = true := by
    obtain lagging | refused := state
    · rw [lagging]
      rfl
    · rw [refused]
      rfl
  have grant : grantHead s req = mark (issueHead s req (some e)) e k := by
    rw [grantHead_write running, presentWrite_of_region region]
    obtain lagging | refused := state
    · rw [lagging]
      rfl
    · rw [refused]
      rfl
  have issued := issued_of_mem rfl ((mark_frame _ e k).mem (by decide))
    (issued_issueHead s req (some e) (responses_of_granted granted))
  refine ⟨_, exec_of_issued granted grant issued, issued, fun j => mem_dirty_mark (issueHead s req (some e)) e k j markable,
    (entry_mark (issueHead s req (some e)) e e k).1, fun i other => (entry_mark (issueHead s req (some e)) e i k).2 other,
    stats_mark (s := issueHead s req (some e)) k markable,
    ((issueHead_frame s req _).mono rfl).then (mark_frame _ e k) rfl⟩

/-- Settles O31: by the mask, and by whether the command queue holds eight lines. -/
theorem controlWrites : Obligations.ControlWrites := by
  intro tag addr mask data s req granted running control
  have room := responses_of_granted granted
  have grant : grantHead s req = presentControl s req mask data := grantHead_control running control
  refine ⟨fun full slot => ?_, fun full busy => ?_, fun part => ?_⟩
  · rw [presentControl, if_pos (show mask = fullMask from full),
      if_neg (show ¬Config.commandSlots ≤ s.cmd.queue.length from Nat.not_le.mpr slot)] at grant
    have issued := issued_issueHead (s.modCmd fun c => { c with queue := c.queue ++ [data] }) req none room
    exact ⟨_, exec_of_issued granted grant (issued_of_mem rfl rfl issued), issued_of_mem rfl rfl issued, rfl,
      ((modCmd_frame s _).mono rfl).then (issueHead_frame _ req none) rfl⟩
  · rw [presentControl, if_pos (show mask = fullMask from full),
      if_pos (show Config.commandSlots ≤ s.cmd.queue.length from busy)] at grant
    have again := exec_of_unissued granted grant rfl
    exact ⟨again, fun source => again.trans
      (exec_of_held (show HoldReason.commandFull ≠ .none by decide) ((grantedSource_congr rfl rfl ⟨rfl, rfl⟩ rfl rfl).trans source))⟩
  · rw [presentControl, if_neg (show mask ≠ fullMask from part)] at grant
    have issued := issued_issueHead (count s .controlErrors) req none room
    exact ⟨_, exec_of_issued granted grant (issued_of_mem rfl rfl issued), issued_of_mem rfl rfl issued, rfl,
      ((count_frame s _).mono rfl).then (issueHead_frame _ req none) rfl⟩

end Sys2Proof.Proofs
end

section
/-! PROOFS. A write that leaves its region lagging or is held, and the protection of the targets (R28, R29, R31, R122,
R123, R124, R131). -/

namespace Sys2Proof.Machine

/-! ## A claim to LAGGING (R8, R104) -/

/-- The entry lags, and its event is requested: what a claim does before the fences and the hold. -/
def laggingReported (s : State) (e : RegionIx) (c : RegionCause) : State :=
  emit (setEntry s e { s.entry e with state := .lagging }) (.regionState c e .source .mirrored .lagging)

section
variable (s : State) (e : RegionIx) (c : RegionCause) (f : FenceCause)

theorem claimLagging_eq : claimLagging s e c f = if (s.entry e).state = .mirrored then
    leftMirrored (failFences (laggingReported s e c) e f) e else s := rfl

theorem laggingReported_frame : SameBut [.regions, .ev, .stats] s (laggingReported s e c) :=
  ((setEntry_frame s e _).mono rfl).then (emit_frame _ _) rfl

theorem marks_laggingReported : MarksCounted s (laggingReported s e c) 0 :=
  MarksCounted.same (m := 0) ((setEntry_frame s e _).marks (by decide)) (marks_emit _ _)

theorem eventsOf_laggingReported (room : ringRoom s 1) : eventsOf (laggingReported s e c) =
    eventsOf s ++ [.regionState c e .source .mirrored .lagging] := eventsOf_emit _ _ room

theorem marks_claimLagging : MarksCounted s (claimLagging s e c f) 0 := by
  rw [claimLagging_eq]
  split
  · exact MarksCounted.same (MarksCounted.same (marks_laggingReported s e c) (marks_completeFences ..))
      ((leftMirrored_frame _ e).marks (by decide))
  · exact .of_stats rfl

end

theorem marks_mark {s : State} {e : RegionIx} (k : Nat) (markable : Machine.markable (s.entry e).state = true) :
    MarksCounted s (mark s e k) (if k ∈ (s.entry e).dirty then 0 else 1) := by
  by_cases dirty : k ∈ (s.entry e).dirty
  · rw [if_pos dirty]
    exact .of_stats (by rw [stats_mark k markable, if_pos dirty])
  · rw [if_neg dirty]
    unfold MarksCounted
    rw [stats_mark k markable, if_neg dirty, stats_count, if_pos rfl]
    exact ⟨rfl, fun c other _ => by rw [stats_count, if_neg other]⟩

section
variable {s : State} {e : RegionIx} (mirrored : (s.entry e).state = .mirrored) (cause : RegionCause) (f : FenceCause)
include mirrored

theorem claimLagging_of_mirrored :
    claimLagging s e cause f = leftMirrored (failFences (laggingReported s e cause) e f) e := if_pos mirrored

theorem fences_claimLagging : (claimLagging s e cause f).fences = s.fences.filter fun x => !x.covers e := by
  rw [claimLagging_of_mirrored mirrored, (leftMirrored_frame _ e).fences (by decide), failFences, fences_completeFences,
    (laggingReported_frame s e cause).fences (by decide)]

theorem eventsOf_claimLagging (room : ringRoom s (1 + s.fences.length)) : eventsOf (claimLagging s e cause f) =
    eventsOf s ++ .regionState cause e .source .mirrored .lagging ::
      (s.fences.filter fun x => x.covers e).map fun x => .fenceDone .notDurable f x.tag (some e) x.boundary := by
  have fences := (laggingReported_frame s e cause).fences (by decide)
  have after : ringRoom (laggingReported s e cause) s.fences.length := ringRoom_emit _ _ _ (by rwa [Nat.add_comm] at room)
  rw [claimLagging_of_mirrored mirrored, eventsOf, (leftMirrored_frame _ e).ev (by decide), ← eventsOf, failFences,
    eventsOf_completeFences _ _ _ _ _ (by rwa [fences]), fences,
    eventsOf_laggingReported s e cause (ringRoom_mono room (Nat.le_add_right ..))]
  exact List.append_assoc ..

end

theorem leftMirrored_of_unheld {s : State} (e : RegionIx) (h : s.mem.hold = .none) : leftMirrored s e = s :=
  if_neg fun ⟨held, _⟩ => by simp [h] at held

theorem mem_claimLagging_of_unheld {s : State} (e : RegionIx) (c : RegionCause) (f : FenceCause)
    (h : s.mem.hold = .none) : (claimLagging s e c f).mem = s.mem := by
  rw [claimLagging_eq]
  split
  · have mem : (failFences (laggingReported s e c) e f).mem = s.mem :=
      ((completeFences_frame _ _ _ _ _).mem (by decide)).trans ((laggingReported_frame s e c).mem (by decide))
    rw [leftMirrored_of_unheld e (mem ▸ h), mem]
  · rfl

/-- A mark and a claim to LAGGING, over a state with the regions, the fences and the events of `s`. -/
theorem lagged_claim {s u : State} {e : RegionIx} (k : Nat) (cause : RegionCause)
    (mirrored : (s.entry e).state = .mirrored) (regions : u.regions = s.regions) (fences : u.fences = s.fences)
    (ev : u.ev = s.ev) (marks : (u.stats)[statIx .dirtyMarks] = (s.stats)[statIx .dirtyMarks]) :
    Lagged s (claimLagging (mark u e k) e cause .regionLagging) e k cause := by
  have entry (i : RegionIx) : u.entry i = s.entry i := by
    unfold State.entry
    rw [regions]
  have markable : markable (u.entry e).state = true := by
    rw [entry, mirrored]
    rfl
  have marked : ((mark u e k).entry e).state = .mirrored := by
    rw [(entry_mark u e e k).1]
    exact (congrArg Entry.state (entry e)).trans mirrored
  have frame := mark_frame u e k
  have evMark : (mark u e k).ev = s.ev := (frame.ev (by decide)).trans ev
  have fencesMark : (mark u e k).fences = s.fences := (frame.fences (by decide)).trans fences
  refine ⟨?_, fun j => ?_, fun i other => ?_, ?_, ?_, fun room => ?_⟩
  · rw [entry_claimLagging, if_pos ⟨rfl, marked⟩, (entry_mark u e e k).1, entry]
  · rw [entry_claimLagging, if_pos ⟨rfl, marked⟩, ← entry]
    exact mem_dirty_mark u e k j markable
  · rw [entry_claimLagging, if_neg fun h => other h.1, (entry_mark u e i k).2 other, entry]
  · rw [(marks_claimLagging ..).1, (marks_mark k markable).1, marks, entry]
    split <;> simp
  · rw [fences_claimLagging marked, fencesMark]
  · have same : eventsOf (mark u e k) = eventsOf s := congrArg (fun v : EventWriter => v.list.map EventItem.event) evMark
    rw [eventsOf_claimLagging marked _ _ (by rwa [ringRoom, evMark, fencesMark]), fencesMark, same]

/-! ## A write issued uncaptured (R30, R31, R133) -/

/-- The segment that a write of a line marks. -/
def segmentOfLine (s : State) (e : RegionIx) (a : Nat) : Nat :=
  (a - (s.entry e).base.toNat) / 64 / (segBytes (s.entry e).sizeExp / 64)

section
variable {s u : State} {req : SysRequest} {e : RegionIx} {a : Nat} (cause : RegionCause)

/-- The write is issued over a state that differs from `s` in the counters only. -/
theorem issueUncaptured_eq (same : SameBut [.stats] s u) : issueUncaptured u req e a cause =
    claimLagging (mark (issueHead u req (some e)) e (segmentOfLine s e a)) e cause .regionLagging := by
  have entry : (issueHead u req (some e)).entry e = s.entry e :=
    ((issueHead_frame u req _).entry (by decide) e).trans (same.entry (by decide) e)
  rw [issueUncaptured, markAddr_eq, entry]
  rfl

theorem issued_issueUncaptured (same : SameBut [.stats] s u) (granted : Granted s req) :
    Issued s (issueUncaptured u req e a cause) req (some e) := by
  have mem : u.mem = s.mem := same.mem (by decide)
  have unheld : (issueHead u req (some e)).mem.hold = .none :=
    (congrArg MemPath.hold mem).trans (hold_of_granted granted)
  rw [issueUncaptured_eq cause same]
  refine issued_of_mem mem ?_ (issued_issueHead u req (some e) (by rw [mem]; exact responses_of_granted granted))
  rw [mem_claimLagging_of_unheld _ _ _ (by rwa [(mark_frame _ _ _).mem (by decide)]), (mark_frame _ _ _).mem (by decide)]

theorem lagged_issueUncaptured (same : SameBut [.stats] s u)
    (marks : (u.stats)[statIx .dirtyMarks] = (s.stats)[statIx .dirtyMarks]) (mirrored : (s.entry e).state = .mirrored) :
    Lagged s (issueUncaptured u req e a cause) e (segmentOfLine s e a) cause := by
  rw [issueUncaptured_eq cause same]
  have issue := issueHead_frame u req (some e)
  exact lagged_claim _ _ mirrored ((issue.regions (by decide)).trans (same.regions (by decide)))
    ((issue.fences (by decide)).trans (same.fences (by decide))) ((issue.ev (by decide)).trans (same.ev (by decide)))
    (by rwa [issue.stats (by decide)])

theorem stats_issueUncaptured (same : SameBut [.stats] s u) (mirrored : (s.entry e).state = .mirrored) (c : Stat)
    (mark : c ≠ .dirtyMarks) (lost : c ≠ .eventsLost) :
    ((issueUncaptured u req e a cause).stats)[statIx c] = (u.stats)[statIx c] := by
  have entry : (issueHead u req (some e)).entry e = s.entry e :=
    ((issueHead_frame u req _).entry (by decide) e).trans (same.entry (by decide) e)
  have markable : markable ((issueHead u req (some e)).entry e).state = true := by
    rw [entry, mirrored]
    rfl
  rw [issueUncaptured_eq cause same, (marks_claimLagging ..).2 c mark lost, (marks_mark _ markable).2 c mark lost]
  rfl

end

/-! ## The tests of a write into a MIRRORED region (R131) -/

section
variable {s : State} {e : RegionIx} {mask : ByteMask} {data : Line} {tag : BitVec 16} {addr : Addr}

theorem grantHead_mirrored (running : s.loader.loadState ≠ .bypass) (region : classify s (lineOf addr) = .region e)
    (mirrored : (s.entry e).state = .mirrored) : grantHead s (.write tag addr mask data) =
      presentMirrored s (.write tag addr mask data) e (lineOf addr) mask data := by
  rw [grantHead_write running, presentWrite_of_region region, mirrored]

section
variable {req : SysRequest} {a : Nat}

theorem presentMirrored_of_read (h : inBlockRead s e a = true) :
    presentMirrored s req e a mask data = holdHead s .blockRead := if_pos h

variable (clear : inBlockRead s e a = false)
include clear

theorem presentMirrored_of_expired (expired : s.mem.limitExpired = true) (sync : (s.entry e).queue = .sync) :
    presentMirrored s req e a mask data = issueUncaptured s req e a .holdExpired := by
  rw [presentMirrored, if_neg (by simp [clear]), if_pos ⟨expired, sync⟩]

variable (full : captureWrite s e a mask data = none)
include full

theorem presentMirrored_of_async (async : (s.entry e).queue = .async) :
    presentMirrored s req e a mask data = issueUncaptured s req e a .queueFull := by
  rw [presentMirrored, if_neg (by simp [clear]), if_neg fun h => by simp [async] at h, full, async]

variable (sync : (s.entry e).queue = .sync) (waits : s.mem.limitExpired = false)
include sync waits

theorem presentMirrored_of_sync : presentMirrored s req e a mask data =
    if s.params.holdLimit = 0 then issueUncaptured (count s .holdExpiries) req e a .holdExpired else holdSyncFull s := by
  rw [presentMirrored, if_neg (by simp [clear]), if_neg fun h => by simp [waits] at h, full, sync]

end

theorem inBlockRead_iff (s : State) (e : RegionIx) (a : Nat) : inBlockRead s e a = true ↔
    ∃ sg, s.resync.segment = some sg ∧ s.resync.block = .reading ∧ sg.region = e ∧
      (a - (s.entry e).base.toNat) / 64 / 64 = sg.nextBlock := by
  unfold inBlockRead
  cases s.resync.segment with
  | none => simp
  | some sg =>
    simp only [Bool.and_eq_true, decide_eq_true_eq, Option.some.injEq, exists_eq_left', and_assoc]
    rfl

end

/-- An event changes no counter but EVENTS_LOST. -/
theorem stats_emit (s : State) (ev : Event) {c : Stat} (lost : c ≠ .eventsLost) :
    ((emit s ev).stats)[statIx c] = (s.stats)[statIx c] := by
  unfold emit
  split
  · rfl
  · rw [stats_count, if_neg lost]
    rfl

/-! ## A write into a target range (R122, R123) -/

section
variable {s : State} {e : RegionIx} {a : Nat}

theorem refusalReport_of_quiet (quiet : ((s.apply.reports)[e]).timer = none) : refusalReport s e a =
    emit (s.modApply fun x => { x with reports := setAt x.reports e ⟨some (s.ev.timeBase + 1000), 0⟩ })
      (.targetWriteRefused e (BitVec.ofNat 40 a) ((s.apply.reports)[e]).unreported) := by
  unfold refusalReport
  simp only [quiet]
  rfl

theorem refusalReport_of_reported (reported : ((s.apply.reports)[e]).timer ≠ none) : refusalReport s e a =
    s.modApply fun x => { x with
      reports := setAt x.reports e
        ⟨((s.apply.reports)[e]).timer, min 65535 (((s.apply.reports)[e]).unreported + 1)⟩ } := by
  unfold refusalReport
  cases timer : ((s.apply.reports)[e]).timer with
  | none => exact absurd timer reported
  | some x => simp only [timer]

/-- A refusal's report changes the report of its entry only. -/
theorem apply_refusalReport (s : State) (e : RegionIx) (a : Nat) :
    ∃ r, (refusalReport s e a).apply = { s.apply with reports := setAt s.apply.reports e r } := by
  cases timer : ((s.apply.reports)[e]).timer with
  | none =>
    rw [refusalReport_of_quiet timer, (emit_frame _ _).apply (by decide)]
    exact ⟨_, rfl⟩
  | some x =>
    rw [refusalReport_of_reported (by rw [timer]; exact Option.some_ne_none x)]
    exact ⟨_, rfl⟩

theorem stats_refusalReport (c : Stat) (lost : c ≠ .eventsLost) :
    ((refusalReport s e a).stats)[statIx c] = (s.stats)[statIx c] := by
  cases timer : ((s.apply.reports)[e]).timer with
  | none =>
    rw [refusalReport_of_quiet timer, stats_emit _ _ lost]
    rfl
  | some x =>
    rw [refusalReport_of_reported (by rw [timer]; exact Option.some_ne_none x)]
    rfl

end

/-- What the part answers is said by the Memory Path and the outputs alone. -/
theorem answered_of_mem {s t u : State} {req : SysRequest} (mem : t.mem = s.mem) (out : t.out = s.out)
    (h : Answered t u req) : Answered s u req := by
  unfold Answered Returned at h ⊢
  rwa [← mem, ← out]

section
variable {s : State} {req : SysRequest} {e : RegionIx} {a : Nat}

theorem refuseWrite_eq : refuseWrite s req e a =
    answerHead (refusalReport (count s .targetWritesRefused) e a) req := rfl

theorem reported_frame : SameBut [.stats, .apply, .ev] s (refusalReport (count s .targetWritesRefused) e a) :=
  ((count_frame s _).mono rfl).then (refusalReport_frame _ e a) rfl

theorem answered_refuseWrite (granted : Granted s req) : Answered s (refuseWrite s req e a) req := by
  have frame := reported_frame (s := s) (e := e) (a := a)
  have mem := frame.mem (by decide)
  exact answered_of_mem mem (frame.out (by decide))
    (answered_answerHead _ req (by rw [mem]; exact responses_of_granted granted))

theorem presentWrite_of_target {mask : ByteMask} {data : Line} (region : classify s a = .region e)
    (target : roleOf (s.entry e).state = .target) : presentWrite s req a mask data = refuseWrite s req e a := by
  rw [presentWrite_of_region region]
  cases state : (s.entry e).state <;> rw [state] at target <;> first | rfl | exact absurd target (by decide)

/-- A read of a target is held at its first presentation while an apply of its line is pending. -/
theorem presentRead_of_pending {addr : Addr} {before after : List ApplyEntry} {en : ApplyEntry}
    (region : classify s (lineOf addr) = .region e) (target : roleOf (s.entry e).state = .target)
    (first : s.mem.presented = false) (queue : s.apply.queue = before ++ en :: after)
    (applies : AppliesTo (BitVec.ofNat 40 (lineOf addr)) en)
    (none : ∀ x ∈ after, ¬AppliesTo (BitVec.ofNat 40 (lineOf addr)) x) :
    presentRead s req (lineOf addr) =
      (holdHead s .applyPending).modMem fun m => { m with applyWait := before.length + 1 } := by
  unfold presentRead
  simp only [region, queue, waitFor_append applies none]
  exact if_pos ⟨target, first, Nat.succ_pos _⟩

end

end Sys2Proof.Machine

namespace Sys2Proof.Proofs

open Sys2Proof.Machine

/-- Settles O28, by the class of the region. -/
theorem uncapturedWriteLags : Obligations.UncapturedWriteLags := by
  intro tag addr mask data e s req k q cause granted running region mirrored clear full limit
  have grant : grantHead s req = presentMirrored s req e (lineOf addr) mask data :=
    grantHead_mirrored running region mirrored
  have frame (u : State) (same : SameBut [.stats] s u) (c : RegionCause) :
      SameBut [.mem, .regions, .stats, .ev, .fences] s (issueUncaptured u req e (lineOf addr) c) :=
    (same.mono rfl).then (issueUncaptured_frame u req e _ c) rfl
  cases queue : (s.entry e).queue with
  | sync =>
    obtain ⟨zero, waits⟩ := limit queue
    rw [presentMirrored_of_sync clear full queue waits, if_pos zero] at grant
    have same := count_frame s .holdExpiries
    have issued := issued_issueUncaptured (e := e) (a := lineOf addr) .holdExpired same granted
    have expired : cause = .holdExpired := if_pos queue
    rw [expired]
    refine ⟨_, exec_of_issued granted grant issued, issued, lagged_issueUncaptured _ same ?_ mirrored, ?_, ?_,
      frame _ same _⟩
    · rw [stats_count, if_neg (by decide)]
    · rw [stats_issueUncaptured _ same mirrored _ (by decide) (by decide), stats_count, if_pos rfl, if_pos queue]
    · rw [stats_issueUncaptured _ same mirrored _ (by decide) (by decide), stats_count, if_neg (by decide)]
  | async =>
    rw [presentMirrored_of_async clear full queue] at grant
    have same := SameBut.refl [.stats] s
    have issued := issued_issueUncaptured (e := e) (a := lineOf addr) .queueFull same granted
    have notSync : ¬q = .sync := fun h => QueueClass.noConfusion (queue.symm.trans h)
    have expired : cause = .queueFull := if_neg notSync
    rw [expired]
    refine ⟨_, exec_of_issued granted grant issued, issued, lagged_issueUncaptured _ same rfl mirrored, ?_, ?_,
      frame _ same _⟩
    · rw [stats_issueUncaptured _ same mirrored _ (by decide) (by decide), if_neg notSync]
      simp
    · rw [stats_issueUncaptured _ same mirrored _ (by decide) (by decide)]

/-- Settles O29, by the tests of R131 in their order. -/
theorem mirroredWriteIsHeld : Obligations.MirroredWriteIsHeld := by
  intro tag addr mask data e s req k heldAs granted running region mirrored
  have grant : grantHead s req = presentMirrored s req e (lineOf addr) mask data :=
    grantHead_mirrored running region mirrored
  refine ⟨inBlockRead_iff .., fun read => ?_, fun clear sync waits full limit => ?_, fun clear sync expired => ?_⟩
  · rw [presentMirrored_of_read read] at grant
    have again := exec_of_unissued granted grant rfl
    exact ⟨again, fun source => again.trans (exec_of_held (show HoldReason.blockRead ≠ .none by decide)
      ((grantedSource_congr rfl rfl ⟨rfl, rfl⟩ rfl rfl).trans source))⟩
  · rw [presentMirrored_of_sync clear full sync waits, if_neg limit] at grant
    have again := exec_of_unissued granted grant rfl
    exact ⟨again, fun source => again.trans (exec_of_held (show HoldReason.syncFull ≠ .none by decide)
      ((grantedSource_congr rfl rfl ⟨rfl, rfl⟩ rfl rfl).trans source))⟩
  · rw [presentMirrored_of_expired clear expired sync] at grant
    have same := SameBut.refl [.stats] s
    have issued := issued_issueUncaptured (e := e) (a := lineOf addr) .holdExpired same granted
    have frame := issueUncaptured_frame s req e (lineOf addr) .holdExpired
    exact ⟨_, exec_of_issued granted grant issued, issued, frame.capture (by decide),
      lagged_issueUncaptured _ same rfl mirrored,
      stats_issueUncaptured _ same mirrored _ (by decide) (by decide),
      stats_issueUncaptured _ same mirrored _ (by decide) (by decide), frame.mono rfl⟩

/-- Settles O30: the refused write by the quiet timer of its entry, the held read by the youngest apply of its line. -/
theorem targetsAreProtected : Obligations.TargetsAreProtected := by
  intro e s running target
  refine ⟨fun tag addr mask data granted region => ?_,
    fun tag addr len before en after granted formed region first queue applies alone => ?_⟩
  · have grant : grantHead s (.write tag addr mask data) = refuseWrite s (.write tag addr mask data) e (lineOf addr) := by
      rw [grantHead_write running, presentWrite_of_target region target]
    have answered := answered_refuseWrite (e := e) (a := lineOf addr) granted
    obtain ⟨p, _, _, mem⟩ := id answered
    have again := exec_of_unissued granted grant (by rw [mem]; rfl)
    have answer := answerHead_frame (refusalReport (count s .targetWritesRefused) e (lineOf addr))
      (.write tag addr mask data)
    obtain ⟨report, reported⟩ := apply_refusalReport (count s .targetWritesRefused) e (lineOf addr)
    have apply := (answer.apply (by decide)).trans reported
    refine ⟨_, again, answered, fun behind source => again.trans (exec_of_absent ?_ source), ?_, fun quiet room => ?_,
      fun reportedBefore => ?_, ?_, fun i other => ?_, fun c counted lost => ?_,
      (reported_frame.mono (ps := [.mem, .out, .stats, .apply, .ev]) rfl).then answer rfl⟩
    · rw [mem]
      exact congrArg List.head? behind
    · rw [refuseWrite_eq, answer.stats (by decide), stats_refusalReport _ (by decide), stats_count, if_pos rfl]
    · have quietReport := refusalReport_of_quiet (s := count s .targetWritesRefused) (a := lineOf addr) quiet
      constructor
      · rw [refuseWrite_eq, eventsOf, answer.ev (by decide), ← eventsOf, quietReport, eventsOf_emit]
        · rfl
        · exact room
      · rw [refuseWrite_eq, answer.apply (by decide), quietReport, (emit_frame _ _).apply (by decide)]
        exact (getElem_setAt ..).trans (if_pos rfl)
    · have countReport :=
        refusalReport_of_reported (s := count s .targetWritesRefused) (a := lineOf addr) reportedBefore
      constructor
      · rw [refuseWrite_eq, answer.ev (by decide), countReport]
        rfl
      · rw [refuseWrite_eq, answer.apply (by decide), countReport]
        exact (getElem_setAt ..).trans (if_pos rfl)
    · rw [refuseWrite_eq, apply]
      rfl
    · rw [refuseWrite_eq, apply]
      exact (getElem_setAt ..).trans (if_neg other)
    · rw [refuseWrite_eq, answer.stats (by decide)]
      rw [stats_refusalReport c lost, stats_count, if_neg counted]
  · have pending := presentRead_of_pending (req := .read tag addr len) region target first queue
      ((appliesTo_lineOf_iff addr en).mpr applies) fun x m applies' => by
        obtain ⟨a, m', d, k, kind, same⟩ := (appliesTo_lineOf_iff addr x).mp applies'
        exact alone x m a m' d k kind same
    have again := exec_of_unissued granted ((grantHead_read running formed).trans pending) rfl
    exact ⟨again, fun source => again.trans (exec_of_held (show HoldReason.applyPending ≠ .none by decide)
      ((grantedSource_congr rfl rfl ⟨rfl, rfl⟩ rfl rfl).trans source))⟩

end Sys2Proof.Proofs
end

section
/-! PROOFS. The choice of the memory-port arbiter and the requests of the injected sources (R86, R115, R136, R137, R138,
R139, R160, R166). -/

namespace Sys2Proof.Machine

/-! ## The issue point (R115) -/

/-- The oldest unissued line with a mask is issued. -/
theorem issueNext_append {en : ApplyEntry} {rest : List ApplyEntry} (unissued : en.issued = false)
    (active : en.passive = false) : ∀ {before : List ApplyEntry},
      (∀ x ∈ before, x.issued = true ∨ x.passive = true) →
      issueNext (before ++ en :: rest) = some (en, before ++ { en with issued := true } :: rest)
  | [], _ => by simp [issueNext, unissued, active]
  | x :: before, past => by
    obtain ⟨first, later⟩ := List.forall_mem_cons.mp past
    have gone : (!x.issued && !x.passive) = false := by
      obtain issued | passive := first
      · simp [issued]
      · simp [passive]
    simp [issueNext, gone, issueNext_append unissued active later]

theorem issueNext_isSome_iff : ∀ q : List ApplyEntry,
    (issueNext q).isSome = true ↔ ∃ en ∈ q, en.issued = false ∧ en.passive = false
  | [] => by simp [issueNext]
  | en :: rest => by
    have later := issueNext_isSome_iff rest
    unfold issueNext
    by_cases here : en.issued = false ∧ en.passive = false
    · simp [here]
    · rw [if_neg (by simpa using here)]
      simp only [List.exists_mem_cons_iff, here, false_or, ← later]
      split <;> simp [*]

theorem passive_line {en : ApplyEntry} {addr : Addr} {mask : ByteMask} {data : Line} {kind : RecordKind}
    (line : en.kind = .line addr mask data kind) : en.passive = (mask == 0) := by
  rw [ApplyEntry.passive, line]

/-! ## Who waits (R137, R138, R166) -/

theorem fromWriter_eq (r : MemRequest) : r.fromWriter =
    (r.source != .passThrough && r.source != .apply && r.source != .resync) := by
  unfold MemRequest.fromWriter
  cases r.source <;> rfl

theorem injectedRoom_iff (s : State) : injectedRoom s = true ↔
    (s.mem.outstanding.filter fun r => r.source != .passThrough).length < 16 := decide_eq_true_iff

theorem injectedRoom_of_full {s : State} (h : 16 ≤ (s.mem.outstanding.filter fun r => r.source != .passThrough).length) :
    injectedRoom s = false := Bool.eq_false_iff.mpr fun room => Nat.not_lt.mpr h ((injectedRoom_iff s).mp room)

theorem hasRequest_apply_iff (s : State) : hasRequest s .apply = true ↔
    ∃ en ∈ s.apply.queue, en.issued = false ∧ en.passive = false := issueNext_isSome_iff _

theorem hasRequest_resync_iff (s : State) : hasRequest s .resync = true ↔
    s.resync.block = .reading ∧ s.resync.issued < 64 := by
  simp [hasRequest]

theorem hasRequest_writer_iff (s : State) : hasRequest s .writer = true ↔
    (s.ev.list ≠ [] ∨ s.ev.writeOutLines ≠ []) ∧ (s.mem.outstanding.filter fun r =>
      r.source != .passThrough && r.source != .apply && r.source != .resync).length < 8 := by
  have same : writerOutstanding s = (s.mem.outstanding.filter fun r =>
      r.source != .passThrough && r.source != .apply && r.source != .resync).length :=
    congrArg List.length (List.filter_congr fun r _ => fromWriter_eq r)
  simp only [hasRequest, same, Bool.and_eq_true, Bool.or_eq_true, Bool.not_eq_true', List.isEmpty_eq_false_iff,
    decide_eq_true_eq]

theorem injectedWaiting_iff (s : State) (i : Injected) : injectedWaiting s i = true ↔ hasRequest s i = true ∧
    ((s.mem.outstanding.filter fun r => r.source != .passThrough).length < 16 ∨ Config.freeWaitsAtLimit = true) := by
  rw [injectedWaiting, Bool.and_eq_true, Bool.or_eq_true, injectedRoom_iff]

theorem mem_cycle (p i : Injected) : i ∈ [p, nextSource p, nextSource (nextSource p)] := by
  cases p <;> cases i <;> decide

theorem grantedSource_eq_none_iff (s : State) : grantedSource s = none ↔ ∀ i, injectedWaiting s i = false := by
  unfold grantedSource
  rw [List.find?_eq_none]
  exact ⟨fun h i => Bool.eq_false_iff.mpr (h i (mem_cycle _ i)), fun h i _ => by simp [h i]⟩

theorem grantedSource_eq_some_iff (s : State) (i : Injected) : grantedSource s = some i ↔
    ∃ before rest, [s.mem.pointer, nextSource s.mem.pointer, nextSource (nextSource s.mem.pointer)] = before ++ i :: rest ∧
      injectedWaiting s i = true ∧ ∀ j ∈ before, injectedWaiting s j = false := by
  unfold grantedSource
  rw [List.find?_eq_some_iff_append]
  simp only [Bool.not_eq_true']
  constructor
  · rintro ⟨waits, before, rest, cycle, none⟩
    exact ⟨before, rest, cycle, waits, none⟩
  · rintro ⟨before, rest, cycle, waits, none⟩
    exact ⟨waits, before, rest, cycle, none⟩

theorem grantedInjected_iff (s : State) (i : Injected) : GrantedInjected s i ↔ grantedSource s = some i ∧
    (s.mem.outstanding.filter fun r => r.source != .passThrough).length < 16 ∧
      (s.mem.run = 3 ∨ waitingHead s = none) := by
  rw [GrantedInjected, injectedRoom_iff, or_comm]

/-! ## The requests of the sources -/

/-- The tags of the sources lie in the range of R136, whatever the free base of the model is. -/
theorem sourceTag_toNat (i : Injected) : 16 ≤ (sourceTag i).toNat := by
  unfold sourceTag
  generalize Config.freeSourceBase + sourceIndex i = low
  revert low
  decide

theorem sourceTag_injective (i j : Injected) (h : sourceTag i = sourceTag j) : i = j := by
  unfold sourceTag at h
  revert h
  generalize Config.freeSourceBase = base
  revert base
  cases i <;> cases j <;> decide

section
variable {s : State}

/-- With 16 injected requests outstanding and none but injected sources to grant, nothing is issued. -/
theorem exec_of_full (full : 16 ≤ (s.mem.outstanding.filter fun r => r.source != .passThrough).length)
    (idle : waitingHead s = none) : exec .memoryPortArbiter s = .next s := by
  cases source : grantedSource s with
  | none => exact exec_noneWaiting s idle source
  | some i => exact exec_sourceWaits s i source (injectedRoom_of_full full) (.inl idle)

theorem exec_apply_granted (h : GrantedInjected s .apply) : exec .memoryPortArbiter s = .next (issueApply s) :=
  (exec_grantedInjected s .apply h).trans (congrArg _ (if_pos h.2.1))

theorem exec_resync_granted (h : GrantedInjected s .resync) : exec .memoryPortArbiter s = .next (issueResync s) :=
  (exec_grantedInjected s .resync h).trans (congrArg _ (if_pos h.2.1))

theorem exec_writer_granted (h : GrantedInjected s .writer) : exec .memoryPortArbiter s = .next (issueWriter s) :=
  (exec_grantedInjected s .writer h).trans (congrArg _ (if_pos h.2.1))

theorem issueApply_of_next {en : ApplyEntry} {q : List ApplyEntry} {addr : Addr} {mask : ByteMask} {data : Line}
    {kind : RecordKind} (next : issueNext s.apply.queue = some (en, q)) (line : en.kind = .line addr mask data kind) :
    issueApply s = issueInjected (s.modApply fun a => { a with queue := q }) .apply .apply (.write addr mask data) := by
  simp only [issueApply, next, line]

theorem issueResync_of_segment {sg : Segment} (h : s.resync.segment = some sg) : issueResync s =
    issueInjected (s.modResync fun r => { r with issued := r.issued + 1 }) .resync .resync
      (.read (BitVec.ofNat 40 ((s.entry sg.region).base.toNat + 4096 * sg.nextBlock + 64 * s.resync.issued)) 64) := by
  simp only [issueResync, h]

theorem issueWriter_of_entry {it : EventItem} {rest : List EventItem} (list : s.ev.list = it :: rest)
    (turn : s.ev.writeOutLines = [] ∨ s.ev.entriesNext = true) : issueWriter s =
      issueInjected (s.modEv fun e => { e with list := rest, entriesNext := false }) .writer
        (.writer (.entry it.current)) (entryWrite it) := by
  unfold issueWriter
  rw [list]
  cases lines : s.ev.writeOutLines with
  | nil => rfl
  | cons l lines' => exact if_pos (turn.resolve_left (by simp [lines]))

theorem issueWriter_of_writeOut {a : Addr} {l : Line} {rest : List (Addr × Line)}
    (lines : s.ev.writeOutLines = (a, l) :: rest) (turn : s.ev.list = [] ∨ s.ev.entriesNext = false) : issueWriter s =
      issueInjected (s.modEv fun e => { e with writeOutLines := rest, entriesNext := true }) .writer (.writer .writeOut)
        (.write a fullMask l) := by
  unfold issueWriter
  rw [lines]
  cases list : s.ev.list with
  | nil => rfl
  | cons it rest' => exact if_neg (by simp [turn.resolve_left (by simp [list])])

end

end Sys2Proof.Machine

namespace Sys2Proof.Proofs

open Sys2Proof.Machine

/-- Settles O32: who waits by the sources' requests and the limits, and each grant by the source's own request. -/
theorem arbiterGrants : Obligations.ArbiterGrants := by
  intro s injected ready waits after cycle issued
  have ready_iff (i : Injected) : hasRequest s i = true ↔ ready i := by
    cases i with
    | apply => exact hasRequest_apply_iff s
    | resync => exact hasRequest_resync_iff s
    | writer => exact hasRequest_writer_iff s
  have waits_iff (i : Injected) : injectedWaiting s i = true ↔ waits i := by
    rw [injectedWaiting_iff, ready_iff]
  have idle_iff (i : Injected) : injectedWaiting s i = false ↔ ¬waits i := by
    rw [Bool.eq_false_iff, ne_eq, waits_iff]
  have after_eq (i : Injected) : after i = nextSource i := by cases i <;> rfl
  have cycle_eq : cycle = [s.mem.pointer, nextSource s.mem.pointer, nextSource (nextSource s.mem.pointer)] := by
    simp only [cycle, after_eq]
  refine ⟨fun req => ?_, fun i => ?_, grantedInjected_iff s, exec_of_full, fun i req full request head run => ?_,
    fun req => ?_, fun i j => ?_, fun before en rest addr mask data kind granted queue past line masked unissued => ?_,
    fun sg granted segment => ?_, fun it rest granted list turn => ?_, fun a l rest granted lines turn => ?_,
    fun source idle => exec_noneWaiting s idle source⟩
  · rw [waitingHead_eq_some]
    exact ⟨fun ⟨hold, room, head⟩ => ⟨head, hold, room⟩, fun ⟨head, hold, room⟩ => ⟨hold, room, head⟩⟩
  · simp only [grantedSource_eq_some_iff, cycle_eq, waits_iff, idle_iff]
  · split
    next free =>
      cases source : grantedSource s with
      | none =>
        have idle := (grantedSource_eq_none_iff s).mp source i
        exact absurd ⟨request, .inr free⟩ ((idle_iff i).mp idle)
      | some j => exact exec_sourceWaits s j source (injectedRoom_of_full full) (.inr run)
    next free =>
      refine ⟨head, .inl ((grantedSource_eq_none_iff s).mpr fun j => (idle_iff j).mpr fun ⟨_, may⟩ => ?_)⟩
      exact may.elim (Nat.not_lt.mpr full) free
  · rw [Granted, grantedSource_eq_none_iff]
    simp only [idle_iff]
    rw [or_comm]
  · exact ⟨sourceTag_toNat i, sourceTag_injective i j⟩
  · have next := issueNext_append (rest := rest) unissued ((passive_line line).trans (by simpa using masked)) past
    rw [← queue] at next
    have issue := issueApply_of_next next line
    refine ⟨_, ⟨exec_apply_granted granted, ?_⟩, ?_, issueApply_frame s⟩
    · rw [issue]
      rfl
    · rw [issue]
      rfl
  · have issue := issueResync_of_segment segment
    refine ⟨_, ⟨exec_resync_granted granted, ?_⟩, ?_, issueResync_frame s⟩
    · rw [issue]
      rfl
    · rw [issue]
      rfl
  · have issue := issueWriter_of_entry list turn
    refine ⟨_, ⟨exec_writer_granted granted, ?_⟩, ?_, issueWriter_frame s⟩
    · rw [issue]
      rfl
    · rw [issue]
      rfl
  · have issue := issueWriter_of_writeOut lines turn
    refine ⟨_, ⟨exec_writer_granted granted, ?_⟩, ?_, issueWriter_frame s⟩
    · rw [issue]
      rfl
    · rw [issue]
      rfl

end Sys2Proof.Proofs
end

section
/-! PROOFS. Memory's answers to pass-through requests and to the Event Writer (R19, R33, R135, R136, R154, R160, R163). -/

namespace Sys2Proof.Machine

/-! ## The answer to a pass-through request -/

section
variable {s : State} {a : MemAnswer} {data : List Byte} {r : MemRequest} {rest : List MemRequest}

/-- The state with the request gone from those outstanding and another response list. -/
def responsesSet (s : State) (rest : List MemRequest) (list : List RespEntry) : State :=
  { s with mem := { s.mem with outstanding := rest, responses := list } }

theorem responsesSet_frame (s : State) (rest : List MemRequest) (list : List RespEntry) :
    SameBut [.mem] s (responsesSet s rest list) := by
  constructor <;> intro out <;> first | rfl | exact absurd (by decide) out

theorem exec_passThroughResponse (answers : Answers s a r rest) (source : r.source = .passThrough) :
    exec (.passThroughResponse a data) s = .next (if answerFits r.form data then
      passThroughAnswer (s.modMem fun m => { m with outstanding := rest }) r a.status data else s) := by
  simp only [exec, execPassThroughResponse,
    takeAnswer_of_answers s a r rest (fun x => x == .passThrough) answers (by simp [source])]

theorem answerOldest_append {status : Status} {after : List RespEntry} {x : RespEntry} (awaiting : x.ready = false) :
    ∀ {before : List RespEntry}, (∀ y ∈ before, y.ready = true) → answerOldest status data (before ++ x :: after) =
      before ++ { x with ready := true, status := status, data := data } :: after
  | [], _ => by simp [answerOldest, awaiting]
  | y :: before, ready => by
    obtain ⟨first, later⟩ := List.forall_mem_cons.mp ready
    simp [answerOldest, first, answerOldest_append awaiting later]

theorem oldestRegion_append {after : List RespEntry} {x : RespEntry} (awaiting : x.ready = false) :
    ∀ {before : List RespEntry}, (∀ y ∈ before, y.ready = true) → oldestRegion (before ++ x :: after) = x.region
  | [], _ => by simp [oldestRegion, awaiting]
  | y :: before, ready => by
    obtain ⟨first, later⟩ := List.forall_mem_cons.mp ready
    have same := oldestRegion_append (after := after) awaiting later
    simpa [oldestRegion, first] using same

section
variable {before after : List RespEntry} {x : RespEntry} {status : Status}
  (list : s.mem.responses = before ++ x :: after) (awaiting : x.ready = false) (ready : ∀ y ∈ before, y.ready = true)
include list awaiting ready

theorem oldestRegion_outstanding :
    oldestRegion (s.modMem fun m => { m with outstanding := rest }).mem.responses = x.region := by
  rw [← oldestRegion_append awaiting ready (after := after), ← list]
  rfl

theorem responsesSet_answerOldest : ((s.modMem fun m => { m with outstanding := rest }).modMem fun m =>
    { m with responses := answerOldest status data m.responses }) =
      responsesSet s rest (before ++ { x with ready := true, status := status, data := data } :: after) := by
  rw [← answerOldest_append awaiting ready, ← list]
  rfl

theorem passThroughAnswer_of_quiet (quiet : status = .ok ∨ x.region = none) :
    passThroughAnswer (s.modMem fun m => { m with outstanding := rest }) r status data = returnReady
      (responsesSet s rest (before ++ { x with ready := true, status := status, data := data } :: after)) := by
  unfold passThroughAnswer
  dsimp only
  rw [oldestRegion_outstanding list awaiting ready, responsesSet_answerOldest list awaiting ready]
  obtain rfl | none := quiet
  · rfl
  · rw [none]
    cases status <;> rfl

theorem passThroughAnswer_of_error {e : RegionIx} (region : x.region = some e) :
    passThroughAnswer (s.modMem fun m => { m with outstanding := rest }) r .error data = returnReady
      (writeError (responsesSet s rest (before ++ { x with ready := true, status := .error, data := data } :: after)) e
        (formLine r.form)) := by
  unfold passThroughAnswer
  dsimp only
  rw [oldestRegion_outstanding list awaiting ready, responsesSet_answerOldest list awaiting ready, region]

end

/-- What a return of responses leaves of a Memory Path in which a hold may have ended. -/
theorem returnReady_of_holdEnds {u : State} {list : List RespEntry} {p : Prop} (out : u.out = s.out)
    (hold : HoldEnds { s.mem with outstanding := rest, responses := list } u.mem p) :
    (returnReady u).mem.outstanding = rest ∧ (returnReady u).mem.head = s.mem.head ∧
      (returnReady u).mem.behind = s.mem.behind ∧
      HoldEnds { s.mem with outstanding := rest, responses := (returnReady u).mem.responses } (returnReady u).mem p ∧
      Returned s (returnReady u) list := by
  have returned := returned_returnReady s u out
  have mem : (returnReady u).mem = { u.mem with responses := (returnReady u).mem.responses } := rfl
  by_cases ends : p
  · have left := hold.1 ends
    rw [left] at returned mem
    refine ⟨by rw [mem], by rw [mem], by rw [mem], ⟨fun _ => mem, fun stays => absurd ends stays⟩, returned⟩
  · have left := hold.2 ends
    rw [left] at returned mem
    refine ⟨by rw [mem], by rw [mem], by rw [mem], ⟨fun now => absurd now ends, fun _ => mem⟩, returned⟩

/-! ## The error answer to a write kept with a region (R33) -/

theorem headRegion_mark (s : State) (e : RegionIx) (k : Nat) : headRegion (mark s e k) = headRegion s := by
  refine headRegion_congr (congrArg MemPath.head ((mark_frame s e k).mem (by decide))) fun i a => ?_
  rw [(entry_mark s e i k).1]
  rfl

/-- The mark and the claim end a hold on the region where it is MIRRORED. -/
theorem holdEnds_writeError (s : State) (e : RegionIx) (a : Nat) :
    HoldEnds s.mem (writeError s e a).mem ((s.entry e).state = .mirrored ∧ HeldOn s e) := by
  have mem : (markAddr s e a).mem = s.mem := (markAddr_frame s e a).mem (by decide)
  have region : headRegion (markAddr s e a) = headRegion s := headRegion_mark ..
  have state : ((markAddr s e a).entry e).state = (s.entry e).state := by
    rw [markAddr, (entry_mark s e e _).1]
  refine (mem ▸ holdEnds_claimLagging (markAddr s e a) e .writeError .regionLagging).congr ?_
  rw [HeldOn, HeldOn, mem, region, state]

theorem writeError_of_not_mirrored {e : RegionIx} (a : Nat) (h : (s.entry e).state ≠ .mirrored) :
    writeError s e a = markAddr s e a := by
  refine if_neg ?_
  rwa [markAddr, (entry_mark s e e _).1]

theorem markAddr_of_not_markable {e : RegionIx} (a : Nat) (h : markable (s.entry e).state = false) :
    markAddr s e a = s := if_neg (by simp [h])

/-- What `Lagged` says holds of a state that differs in the Memory Path and the outputs. -/
theorem Lagged.same {t u : State} {e : RegionIx} {k : Nat} {cause : RegionCause} (h : Lagged s t e k cause)
    (same : SameBut [.out, .mem] t u) : Lagged s u e k cause := by
  have entry (i : RegionIx) : u.entry i = t.entry i := same.entry (by decide) i
  unfold Lagged eventsOf at h ⊢
  simp only [entry, same.stats (by decide), same.fences (by decide), same.ev (by decide)]
  exact h

end

/-! ## The answer to a writer request -/

section
variable {s : State} {a : MemAnswer} {r : MemRequest} {rest : List MemRequest} {item : WriterItem}

theorem exec_writerResponse (answers : Answers s a r rest) (source : r.source = .writer item) :
    exec (.writerResponse a) s = .next (answerCounted
      (writerAnswer (s.modMem fun m => { m with outstanding := rest }) item a.status)) := by
  simp only [exec, execWriterResponse,
    takeAnswer_of_answers s a r rest isWriter answers (by rw [source]; rfl), source, injectedAnswered_eq]

theorem writeOutAnswered_of_last {w : WriteOut} {status : Status} (h : s.cmd.writeOut = some w) (last : w.left ≤ 1) :
    writeOutAnswered s status = emit { s with cmd := { s.cmd with writeOut := none } }
      (.commandDone .ok w.tag (if w.isSnapshot then 12 else 11) 0
        (if status = .error then w.errors + 1 else w.errors)) := by
  have zero : w.left - 1 = 0 := Nat.sub_eq_zero_of_le last
  simp only [writeOutAnswered, completeWriteOut, h, State.modCmd, zero, if_true]
  cases w.isSnapshot <;> rfl

theorem writeOutAnswered_of_more {w : WriteOut} {status : Status} (h : s.cmd.writeOut = some w) (more : 1 < w.left) :
    writeOutAnswered s status = { s with cmd := { s.cmd with
      writeOut := some { w with
        left := w.left - 1, errors := if status = .error then w.errors + 1 else w.errors } } } := by
  have left : ¬w.left - 1 = 0 := Nat.sub_ne_zero_of_lt more
  simp only [writeOutAnswered, completeWriteOut, h, State.modCmd, left, if_false]

end

/-- The Event Writer once W has moved past an answered entry, but for the test of the ATTN line. -/
def writeAdvanced (e : EventWriter) : EventWriter :=
  { e with write := (e.write + 1) % (2 * e.count), unwritten := e.unwritten - 1 }

/-- The state once memory has answered an entry of the current ring. -/
def entryAnswered (s : State) (rest : List MemRequest) : State :=
  { s with
    mem := { s.mem with outstanding := rest }
    ev := attnTest s.params (visible s.ev) (writeAdvanced s.ev) }

theorem writerAnswer_entry (s : State) (rest : List MemRequest) (status : Status) :
    writerAnswer (s.modMem fun m => { m with outstanding := rest }) (.entry true) status = entryAnswered s rest := rfl

theorem entryAnswered_frame (s : State) (rest : List MemRequest) : SameBut [.mem, .ev] s (entryAnswered s rest) := by
  constructor <;> intro out <;> first | rfl | exact absurd (by decide) out

/-! ## The ATTN test (R163) -/

section
variable (p : Params) (before : Nat) (e : EventWriter)

theorem attnTest_of_none (h : unreleased e = 0) : attnTest p before e = { e with attn := false, attnTimer := none } :=
  if_pos h

theorem attnTest_of_high (some : unreleased e ≠ 0) (high : p.attnThreshold.toNat ≤ visible e) :
    (attnTest p before e).attn = true ∧ (e.attn = false → (attnTest p before e).attnTimer = none) := by
  rw [attnTest, if_neg some, if_pos high]
  split
  next on => exact ⟨on, fun off => absurd (on.symm.trans off) (by decide)⟩
  next => exact ⟨rfl, fun _ => rfl⟩

theorem attnTest_of_low (some : unreleased e ≠ 0) (low : visible e < p.attnThreshold.toNat) :
    (attnTest p before e).attn = e.attn ∧
      (e.attn = false → before = 0 → 0 < visible e → p.attnDelay ≠ 0 → e.attnTimer = none →
        (attnTest p before e).attnTimer = .some (e.timeBase + p.attnDelay)) ∧
      (before ≠ 0 ∨ p.attnDelay = 0 ∨ e.attnTimer ≠ none → (attnTest p before e).attnTimer = e.attnTimer) := by
  rw [attnTest, if_neg some]
  split
  next on => exact ⟨rfl, fun off => absurd (on.symm.trans off) (by decide), fun _ => rfl⟩
  next =>
    rw [if_neg (Nat.not_le.mpr low)]
    split
    next starts =>
      obtain ⟨zero, _, delay, stopped⟩ := starts
      exact ⟨rfl, fun _ _ _ _ _ => rfl, fun h => h.elim (absurd zero) fun h => h.elim (absurd · delay) (absurd stopped)⟩
    next stays => exact ⟨rfl, fun _ zero seen delay stopped => absurd ⟨zero, seen, delay, stopped⟩ stays, fun _ => rfl⟩

end

end Sys2Proof.Machine

namespace Sys2Proof.Proofs

open Sys2Proof.Machine

/-- Settles O33: the answer that tells a region nothing, and the error answer by the state of the region. -/
theorem passThroughAnswers : Obligations.PassThroughAnswers := by
  refine ⟨fun a data s none => ?_, ?_⟩
  · simp only [exec, execPassThroughResponse,
      takeAnswer_of_noAnswer s a _ (fun x => x == .passThrough) none fun x h => by simpa using h]
  intro a data r rest before after x s fits answers source
  have fits_iff : answerFits r.form data = true ↔ fits := by
    simp only [fits, answerFits]
    cases r.form <;> simp
  refine ⟨fun misfit => ?_, fun fit list awaiting ready => ?_⟩
  · rw [exec_passThroughResponse answers source, if_neg (mt fits_iff.mp misfit)]
  have run := exec_passThroughResponse (data := data) answers source
  rw [if_pos (fits_iff.mpr fit)] at run
  have set := responsesSet_frame s rest (before ++ { x with ready := true, status := a.status, data := data } :: after)
  by_cases quiet : a.status = .ok ∨ x.region = none
  · rw [passThroughAnswer_of_quiet list awaiting ready quiet] at run
    have silent : ¬(a.status = .error ∧ ∃ e, x.region = some e ∧ (s.entry e).state = .mirrored ∧ HeldOn s e) := by
      rintro ⟨error, e, region, _⟩
      obtain ok | none := quiet
      · simp [ok] at error
      · simp [none] at region
    obtain ⟨outstanding, head, behind, hold, returned⟩ :=
      returnReady_of_holdEnds (s := s) (set.out (by decide)) (HoldEnds.of_eq rfl silent)
    refine ⟨_, run, outstanding, head, behind, hold, returned,
      fun _ => (set.mono rfl).then (returnReady_frame _) rfl, fun e error region => absurd quiet ?_⟩
    simp [error, region]
  · obtain ⟨error, ⟨e, region⟩⟩ : a.status = .error ∧ ∃ e, x.region = some e := by
      rw [not_or] at quiet
      obtain ⟨notOk, held⟩ := quiet
      refine ⟨?_, Option.ne_none_iff_exists'.mp held⟩
      cases status : a.status with
      | ok => exact absurd status notOk
      | error => rfl
    rw [error] at run set
    rw [passThroughAnswer_of_error list awaiting ready region] at run
    have told := writeError_frame (responsesSet s rest
      (before ++ { x with ready := true, status := .error, data := data } :: after)) e (formLine r.form)
    have back := returnReady_frame (writeError (responsesSet s rest
      (before ++ { x with ready := true, status := .error, data := data } :: after)) e (formLine r.form))
    obtain ⟨outstanding, head, behind, hold, returned⟩ :=
      returnReady_of_holdEnds (s := s) ((told.out (by decide)).trans (set.out (by decide)))
        (holdEnds_writeError (responsesSet s rest
          (before ++ { x with ready := true, status := .error, data := data } :: after)) e (formLine r.form))
    refine ⟨_, run, outstanding, head, behind, hold.congr ?_, ?_, fun h => absurd h quiet, fun i _ region' => ?_⟩
    · constructor
      · rintro ⟨mirrored, held⟩
        exact ⟨error, e, region, mirrored, held⟩
      · rintro ⟨_, i, region', mirrored, held⟩
        obtain rfl : e = i := Option.some.inj (region.symm.trans region')
        exact ⟨mirrored, held⟩
    · rw [error]
      exact returned
    obtain rfl : e = i := Option.some.inj (region.symm.trans region')
    intro k
    refine ⟨fun mirrored => ?_, fun behindState => ?_, fun unmarked => ?_, fun i other => ?_, ?_⟩
    · exact (lagged_claim (u := responsesSet s rest _) k .writeError mirrored rfl rfl rfl rfl).same back
    · have notMirrored : (s.entry e).state ≠ .mirrored := fun mirrored => by simp [mirrored] at behindState
      have markable : markable (s.entry e).state = true := by
        obtain state | state := behindState <;> rw [state] <;> rfl
      have marked := mark_frame (responsesSet s rest
        (before ++ { x with ready := true, status := .error, data := data } :: after)) e k
      rw [writeError_of_not_mirrored (s := responsesSet s rest _) _ notMirrored] at back ⊢
      refine ⟨⟨?_, fun j => ?_⟩, ?_, ?_⟩
      · rw [back.entry (by decide)]
        exact (entry_mark (responsesSet s rest _) e e k).1
      · rw [back.entry (by decide), or_comm]
        exact mem_dirty_mark (responsesSet s rest _) e k j markable
      · exact (back.ev (by decide)).trans (marked.ev (by decide))
      · rw [back.stats (by decide)]
        refine (marks_mark (s := responsesSet s rest _) k markable).1.trans ?_
        show (s.stats)[statIx .dirtyMarks] + BitVec.ofNat 64 (if k ∈ (s.entry e).dirty then 0 else 1) = _
        split <;> rfl
    · have notMirrored : (s.entry e).state ≠ .mirrored := fun mirrored => by simp [mirrored, markable] at unmarked
      rw [writeError_of_not_mirrored (s := responsesSet s rest _) _ notMirrored,
        markAddr_of_not_markable (s := responsesSet s rest _) _ unmarked]
      exact (set.mono rfl).then (returnReady_frame _) rfl
    · rw [back.entry (by decide), writeError, entry_claimLagging, if_neg fun h => other h.1]
      exact (entry_mark (responsesSet s rest _) e i k).2 other
    · exact ((set.mono rfl).then told rfl).then back rfl

/-- Settles O36: by the item that the request wrote. -/
theorem writerAnswers : Obligations.WriterAnswers := by
  refine ⟨fun a s none => ?_, ?_⟩
  · simp only [exec, execWriterResponse, takeAnswer_of_noAnswer s a _ isWriter none fun x h => by
      cases x <;> first | exact ⟨_, rfl⟩ | exact absurd h (by decide)]
  intro a r rest s answers leaves
  refine ⟨fun source => ?_, fun quiet => ?_, ?_⟩
  · have run := exec_writerResponse answers source
    rw [writerAnswer_entry] at run
    have seen : visible (entryAnswered s rest).ev = visible (writeAdvanced s.ev) := visible_attnTest ..
    refine ⟨_, run, attnTest_write .., attnTest_unwritten .., attnTest_produce .., attnTest_release .., attnTest_list ..,
      rfl, fun some high => ?_, fun some low => ?_, fun zero => ?_, entryAnswered_frame s rest⟩
    · exact attnTest_of_high s.params (visible s.ev) (writeAdvanced s.ev) some (seen ▸ high)
    · have test := attnTest_of_low s.params (visible s.ev) (writeAdvanced s.ev) some (seen ▸ low)
      rw [seen]
      exact test
    · have test := attnTest_of_none s.params (visible s.ev) (writeAdvanced s.ev) zero
      exact ⟨congrArg EventWriter.attn test, congrArg EventWriter.attnTimer test⟩
  · obtain source | ⟨source, writeOut⟩ := quiet
    · exact exec_writerResponse answers source
    · refine (exec_writerResponse answers source).trans ?_
      simp only [writerAnswer, writeOutAnswered, State.modMem_cmd, writeOut]
      rfl
  · intro w source writeOut errors
    have run := exec_writerResponse answers source
    refine ⟨fun more => run.trans ?_, fun last => run.trans ?_⟩
    · rw [writerAnswer, writeOutAnswered_of_more (s := s.modMem _) writeOut more]
      rfl
    · rw [writerAnswer, writeOutAnswered_of_last (s := s.modMem _) writeOut last]
      rfl

end Sys2Proof.Proofs
end

section
/-! PROOFS. The turns of the Resync Engine and the start of a block (R7, R83, R84, R85, R88). -/

namespace Sys2Proof.Machine

section
variable {s : State} {e : RegionIx}

/-! ## Who has the turn (R83) -/

theorem eligible?_eq_none (h : ∀ e, (s.entry e).state ≠ .lagging) : eligible? s = none :=
  List.find?_eq_none.mpr fun e _ => by simp [h e]

/-- The first LAGGING region from the turn pointer. -/
theorem eligible?_eq_some {d : Nat} (small : d < 32) (found : e = s.resync.turn + Fin.ofNat 32 d)
    (first : ∀ d', d' < d → (s.entry (s.resync.turn + Fin.ofNat 32 d')).state ≠ .lagging)
    (lagging : (s.entry e).state = .lagging) : eligible? s = some e := by
  have val : (Fin.ofNat 32 d).val = d := Nat.mod_eq_of_lt small
  have pick : entryList.find? ((fun e => (s.entry e).state == .lagging) ∘ fun i => s.resync.turn + i) =
      some (Fin.ofNat 32 d) := by
    refine find?_finRange_eq_some ?_ fun j below => ?_
    · show ((s.entry (s.resync.turn + Fin.ofNat 32 d)).state == .lagging) = true
      rw [← found, lagging]
      rfl
    · have same : Fin.ofNat 32 j.val = j := Fin.ext (Nat.mod_eq_of_lt j.isLt)
      have not := first j.val (val ▸ below)
      rw [same] at not
      simpa using not
  rw [eligible?, List.find?_map, pick, found]
  rfl

/-! ## The take of a segment (R84) -/

theorem takenSegment_eq {dirty : List Nat} (cursor : Nat) (some : dirty ≠ []) : takenSegment dirty cursor =
    .some ((dirty.find? fun j => cursor ≤ j).getD (dirty.headD 0)) := by
  unfold takenSegment
  cases dirty.find? fun j => cursor ≤ j with
  | some k => rfl
  | none =>
    cases dirty with
    | nil => exact absurd rfl some
    | cons k rest => rfl

/-- The segments to take from: the dirty ones, or the one at the cursor. -/
def toTake (en : Entry) : List Nat := if en.dirty = [] then [en.cursor] else en.dirty

theorem toTake_ne_nil (en : Entry) : toTake en ≠ [] := by
  unfold toTake
  split
  · exact List.cons_ne_nil _ _
  · assumption

section
variable (lagging : (s.entry e).state = .lagging)
include lagging

theorem entry_convergenceMark : (convergenceMark s e).entry e = { s.entry e with dirty := toTake (s.entry e) } := by
  unfold convergenceMark toTake
  by_cases clean : (s.entry e).dirty = []
  · have marks : (markable (s.entry e).state && !(s.entry e).dirty.contains (s.entry e).cursor) = true := by
      simp [lagging, markable, clean]
    rw [if_pos clean, if_pos clean, mark, if_pos marks, entry_count, entry_setEntry, if_pos rfl, clean]
    rfl
  · rw [if_neg clean, if_neg clean]

theorem marks_convergenceMark : MarksCounted s (convergenceMark s e) (if (s.entry e).dirty = [] then 1 else 0) := by
  unfold convergenceMark
  by_cases clean : (s.entry e).dirty = []
  · have marked := marks_mark (s := s) (e := e) (s.entry e).cursor (by rw [lagging]; rfl)
    rw [if_pos clean, if_pos clean]
    rwa [if_neg (by simp [clean])] at marked
  · rw [if_neg clean, if_neg clean]
    exact .of_stats rfl

end

theorem entry_convergenceMark_other {i : RegionIx} (other : i ≠ e) : (convergenceMark s e).entry i = s.entry i := by
  unfold convergenceMark
  split
  · exact (entry_mark s e i _).2 other
  · rfl

section
variable (s e) (k : Nat)

theorem entry_clearTaken : (clearTaken s e k).entry e = { s.entry e with
    dirty := (s.entry e).dirty.filter fun j => j ≠ k
    cursor := (k + 1) % segCount (s.entry e).sizeExp
    state := if ((s.entry e).dirty.filter fun j => j ≠ k) = [] then .mirrored else (s.entry e).state } := by
  unfold clearTaken
  dsimp only
  split
  next last =>
    rw [entry_emit, entry_setEntry, if_pos rfl]
  next more =>
    rw [entry_setEntry, if_pos rfl]

theorem entry_clearTaken_other {i : RegionIx} (other : i ≠ e) : (clearTaken s e k).entry i = s.entry i := by
  unfold clearTaken
  dsimp only
  split
  · rw [entry_emit, entry_setEntry, if_neg other]
  · rw [entry_setEntry, if_neg other]

theorem marks_clearTaken : MarksCounted s (clearTaken s e k) 0 := by
  unfold clearTaken
  dsimp only
  split
  · exact MarksCounted.same (m := 0) ((setEntry_frame s e _).marks (by decide)) (marks_emit _ _)
  · exact (setEntry_frame s e _).marks (by decide)

theorem eventsOf_clearTaken (last : ((s.entry e).dirty.filter fun j => j ≠ k) = []) (room : ringRoom s 1) :
    eventsOf (clearTaken s e k) = eventsOf s ++ [.regionState .converged e .source .lagging .mirrored] := by
  rw [clearTaken, if_pos last]
  exact eventsOf_emit _ _ room

theorem ev_clearTaken (more : ((s.entry e).dirty.filter fun j => j ≠ k) ≠ []) : (clearTaken s e k).ev = s.ev := by
  rw [clearTaken, if_neg more]
  rfl

end

/-- The entry once a segment has been taken from it. -/
theorem entry_segmentCleared (lagging : (s.entry e).state = .lagging) (k : Nat) :
    (clearTaken (convergenceMark s e) e k).entry e = { s.entry e with
      dirty := (toTake (s.entry e)).filter fun j => j ≠ k
      cursor := (k + 1) % segCount (s.entry e).sizeExp
      state := if ((toTake (s.entry e)).filter fun j => j ≠ k) = [] then .mirrored else .lagging } := by
  rw [entry_clearTaken, entry_convergenceMark lagging, ← lagging]

/-! ## A turn -/

/-- The segment has been taken, its first block in WAITING. -/
def segmentTaken (s : State) (e : RegionIx) (k : Nat) : State :=
  beginSegment (clearTaken (convergenceMark s e) e k) e k

theorem resyncTurnOf_of_not_ready (h : ¬(s.session.state = .up ∧ s.resync.segment = none ∧ s.resync.block = .idle)) :
    resyncTurnOf s = s := if_neg h

theorem resyncTurnOf_of_none (h : ∀ e, (s.entry e).state ≠ .lagging) : resyncTurnOf s = s := by
  simp only [resyncTurnOf, eligible?_eq_none h, ite_self]

theorem resyncTurnOf_of_eligible (up : s.session.state = .up) (none : s.resync.segment = none)
    (idle : s.resync.block = .idle) (eligible : eligible? s = some e) (lagging : (s.entry e).state = .lagging) :
    resyncTurnOf s = tryStart (segmentTaken s e
      (((toTake (s.entry e)).find? fun j => (s.entry e).cursor ≤ j).getD ((toTake (s.entry e)).headD 0))) := by
  have taken := takenSegment_eq (s.entry e).cursor (toTake_ne_nil (s.entry e))
  rw [resyncTurnOf, if_pos ⟨up, none, idle⟩, eligible]
  dsimp only
  rw [entry_convergenceMark lagging]
  dsimp only
  rw [taken]
  rfl

/-! ## The start of a block (R85) -/

theorem tryStart_of_not_waiting (h : s.resync.block ≠ .waiting) : tryStart s = s := by
  unfold tryStart
  split
  · exact if_neg fun ready => h ready.1
  · rfl

theorem tryStart_of_no_segment (h : s.resync.segment = none) : tryStart s = s := by
  unfold tryStart
  rw [h]

theorem freeBuffer?_eq_none {r : Resync} (h : ∀ b : Fin 4, (r.buffers)[b] ≠ none) : freeBuffer? r = none :=
  List.find?_eq_none.mpr fun b _ => by simpa using h b

theorem freeBuffer?_eq_some {r : Resync} {b : Fin 4} (free : (r.buffers)[b] = none)
    (first : ∀ c : Fin 4, c < b → (r.buffers)[c] ≠ none) : freeBuffer? r = some b :=
  find?_finRange_eq_some (by rw [free]; rfl) fun c below =>
    Bool.eq_false_iff.mpr fun h => first c below (Option.isNone_iff_eq_none.mp h)

theorem tryStart_of_no_buffer (h : freeBuffer? s.resync = none) : tryStart s = s := by
  unfold tryStart
  rw [h]
  split
  next b buffer => cases buffer
  next => rfl

theorem tryStart_of_buffer {sg : Segment} {b : Fin 4} (segment : s.resync.segment = some sg)
    (buffer : freeBuffer? s.resync = some b) : tryStart s =
      if s.resync.block = .waiting ∧ 0 < freeSlots s (s.entry sg.region).queue then
        s.modResync fun r => { r with
          block := .reading, issued := 0, taken := 0, reserved := some (b, (s.entry sg.region).queue),
          buffers := setAt r.buffers b (some 0) }
      else s := by
  unfold tryStart
  rw [segment, buffer]
  rfl

end

end Sys2Proof.Machine

namespace Sys2Proof.Proofs

open Sys2Proof.Machine

/-- Settles O37: when nothing is taken or started, the take of the region in turn, and the start by the free slots. -/
theorem resyncTurnAndBlockStart : Obligations.ResyncTurnAndBlockStart := by
  refine ⟨fun s h => congrArg Host.Outcome.next ?_, fun s h => congrArg Host.Outcome.next ?_, ?_, ?_⟩
  · obtain state | segment | block | none := h
    · exact resyncTurnOf_of_not_ready fun ready => state ready.1
    · exact resyncTurnOf_of_not_ready fun ready => segment ready.2.1
    · exact resyncTurnOf_of_not_ready fun ready => block ready.2.2
    · exact resyncTurnOf_of_none none
  · obtain block | segment | buffers := h
    · exact tryStart_of_not_waiting block
    · exact tryStart_of_no_segment segment
    · exact tryStart_of_no_buffer (freeBuffer?_eq_none buffers)
  · intro e k s up none idle ⟨d, small, found, first⟩ lagging dirty left taken
    have turn := resyncTurnOf_of_eligible up none idle (eligible?_eq_some small found first lagging) lagging
    have start := tryStart_frame (segmentTaken s e k)
    have begun := (beginSegment_frame (clearTaken (convergenceMark s e) e k) e k).mono (ps := [.resync]) rfl
    have after : SameBut [.resync] (clearTaken (convergenceMark s e) e k) (tryStart (segmentTaken s e k)) :=
      begun.trans start
    have mark := convergenceMark_frame s e
    have marked := entry_convergenceMark lagging
    have cleared := entry_segmentCleared lagging k
    have left_eq : ((convergenceMark s e).entry e).dirty.filter (fun j => j ≠ k) = left := by rw [marked]; rfl
    have evMark : (convergenceMark s e).ev = s.ev := mark.ev (by decide)
    refine ⟨segmentTaken s e k, _, congrArg Host.Outcome.next (turn.trans (by rw [taken]; rfl)), rfl, start, ?_, ?_, fun i other => ?_,
      fun last room => ?_, fun more => ?_, ?_, ?_⟩
    · have sameResync : (clearTaken (convergenceMark s e) e k).resync = s.resync :=
        ((clearTaken_frame _ e k).resync (by decide)).trans (mark.resync (by decide))
      show { (clearTaken (convergenceMark s e) e k).resync with
        turn := e + 1, block := .waiting
        segment := Option.some ⟨e, k, k * segBlocks ((clearTaken (convergenceMark s e) e k).entry e).sizeExp,
          ((clearTaken (convergenceMark s e) e k).entry e).state == RegionState.mirrored⟩ } = _
      rw [sameResync, cleared]
      have switch : ((if left = [] then RegionState.mirrored else .lagging) == .mirrored) = decide (left = []) := by
        by_cases last : left = [] <;> simp [last]
      rw [← switch]
      rfl
    · exact (after.entry (by decide) e).trans cleared
    · rw [after.entry (by decide), entry_clearTaken_other _ _ _ other, entry_convergenceMark_other other]
    · rw [eventsOf, after.ev (by decide), ← eventsOf, eventsOf_clearTaken _ _ _ (left_eq.trans last)]
      · rw [eventsOf, evMark]
        rfl
      · rwa [ringRoom, evMark]
    · rw [after.ev (by decide), ev_clearTaken _ _ _ fun h => more (left_eq.symm.trans h), evMark]
    · exact ((marks_convergenceMark lagging).same (marks_clearTaken ..)).same (after.marks (by decide))
    · exact ((mark.mono rfl).then (clearTaken_frame _ e k) rfl).then after rfl
  · intro sg b s waiting segment free first q
    have start := tryStart_of_buffer segment (freeBuffer?_eq_some free first)
    refine ⟨fun slot => congrArg Host.Outcome.next (start.trans (if_pos ⟨waiting, slot⟩)), fun full => congrArg Host.Outcome.next (start.trans (if_neg ?_))⟩
    exact fun ready => absurd full (Nat.pos_iff_ne_zero.mp ready.2)

end Sys2Proof.Proofs
end

section
/-! PROOFS. Memory's answers to resync reads: lines, blocks, the end of a segment, errors and responses discarded (R35,
R85, R86, R87, R90, R91, R96). -/

namespace Sys2Proof.Machine

section
variable {s : State} {a : MemAnswer} {data : Line} {r : MemRequest} {rest : List MemRequest}

theorem exec_resyncReadResponse (answers : Answers s a r rest) (source : r.source = .resync) :
    exec (.resyncReadResponse a data) s = .next (answerCounted
      (resyncResponse (s.modMem fun m => { m with outstanding := rest }) a.status data)) := by
  simp only [exec, execResyncReadResponse,
    takeAnswer_of_answers s a r rest (fun x => x == .resync) answers (by simp [source]), injectedAnswered_eq]

theorem resyncResponse_of_due {status : Status} (due : 0 < s.resync.toDiscard) : resyncResponse s status data =
    s.modResync fun r => { r with toDiscard := r.toDiscard - 1 } := if_pos due

section
variable {status : Status} (none : s.resync.toDiscard = 0)
include none

theorem resyncResponse_of_idle (idle : s.resync.block = .idle ∨ s.resync.block = .waiting) :
    resyncResponse s status data = s := by
  unfold resyncResponse
  rw [if_neg (by simp [none])]
  obtain block | block := idle <;> rw [block]

theorem resyncResponse_of_good (reading : s.resync.block = .reading) : resyncResponse s .ok data = goodRead s data := by
  unfold resyncResponse
  rw [if_neg (by simp [none]), reading]

theorem resyncResponse_of_bad (reading : s.resync.block = .reading) : resyncResponse s .error data = badRead s := by
  unfold resyncResponse
  rw [if_neg (by simp [none]), reading]

theorem resyncResponse_of_discarding (discarding : s.resync.block = .discarding) : resyncResponse s status data =
    if s.resync.taken + 1 = s.resync.issued then
      resyncTurnOf (endDiscarding (s.modResync fun r => { r with taken := r.taken + 1 }))
    else s.modResync fun r => { r with taken := r.taken + 1 } := by
  unfold resyncResponse
  rw [if_neg (by simp [none]), discarding]
  rfl

end

/-! ## A good response (R86) -/

/-- The Resync Engine once a good response has filled its line. -/
def lineFilled (r : Resync) (b : Fin 4) (d : BlockData) (data : Line) : Resync :=
  { r with taken := r.taken + 1, buffers := setAt r.buffers b (some (setBlockLine d r.taken data)) }

section
variable {sg : Segment} {b : Fin 4} {q : QueueClass} {d : BlockData} (segment : s.resync.segment = some sg)
  (reserved : s.resync.reserved = some (b, q)) (buffer : (s.resync.buffers)[b] = some d)
include segment reserved buffer

theorem goodRead_eq : goodRead s data = if s.resync.taken + 1 = 64 then
    finishBlock { s with resync := lineFilled s.resync b d data } sg b q
    else { s with resync := lineFilled s.resync b d data } := by
  have filled : (s.modResync fun r =>
      { r with buffers := setAt r.buffers b ((r.buffers[b]).map fun d => setBlockLine d r.taken data)
               taken := r.taken + 1 }) = { s with resync := lineFilled s.resync b d data } := by
    simp only [State.modResync, buffer]
    rfl
  unfold goodRead
  rw [segment, reserved]
  dsimp only
  rw [filled]
  rfl

end

/-! ## The end of a block (R35, R87) -/

/-- The state once the block's record stands in its queue, its block in a state. -/
def blockRecorded (s : State) (sg : Segment) (b : Fin 4) (q : QueueClass) (block : BlockState) : State :=
  { s with
    capture := { s.capture.setQueue q (s.capture.queueOf q ++
        [⟨s.capture.counter, .block sg.region (s.entry sg.region).peer sg.nextBlock b⟩]) with
      counter := capSucc s.capture.counter }
    resync := { s.resync with
      block := block, issued := 0, taken := 0, reserved := none
      segment := some { sg with nextBlock := sg.nextBlock + 1 } } }

section
variable {sg : Segment} {b : Fin 4} {q : QueueClass}

theorem finishBlock_of_more (more : sg.nextBlock + 1 < (sg.index + 1) * segBlocks (s.entry sg.region).sizeExp) :
    finishBlock s sg b q = tryStart (endHoldOf (blockRecorded s sg b q .waiting) .blockRead) := by
  unfold finishBlock
  simp only [more, decide_true, if_true]
  rfl

theorem finishBlock_of_last (last : (sg.index + 1) * segBlocks (s.entry sg.region).sizeExp ≤ sg.nextBlock + 1) :
    finishBlock s sg b q =
      endSegment (endHoldOf (blockRecorded s sg b q .idle) .blockRead) sg s.capture.counter := by
  unfold finishBlock
  simp only [Nat.not_lt.mpr last, decide_false, Bool.false_eq_true, if_false]
  rfl

end

theorem tryStart_buffer {b : Fin 4} {d : BlockData} (held : (s.resync.buffers)[b] = some d) :
    ((tryStart s).resync.buffers)[b] = some d := by
  cases segment : s.resync.segment with
  | none => rwa [tryStart_of_no_segment segment]
  | some sg =>
    cases free : freeBuffer? s.resync with
    | none => rwa [tryStart_of_no_buffer free]
    | some c =>
      rw [tryStart_of_buffer segment free]
      split
      · have empty : (s.resync.buffers)[c] = none := by simpa using List.find?_some free
        have other : b ≠ c := fun same => by simp [← same, held] at empty
        exact (getElem_setAt ..).trans ((if_neg other).trans held)
      · exact held

theorem tryStart_segment (s : State) : (tryStart s).resync.segment = s.resync.segment := by
  unfold tryStart
  split
  · split <;> rfl
  · rfl

theorem resyncTurnOf_buffer {b : Fin 4} {d : BlockData} (held : (s.resync.buffers)[b] = some d) :
    ((resyncTurnOf s).resync.buffers)[b] = some d := by
  unfold resyncTurnOf
  split
  · split
    next e eligible =>
      have mark := (convergenceMark_frame s e).resync (by decide)
      dsimp only
      split
      next k taken =>
        refine tryStart_buffer (s := beginSegment _ e k) ?_
        show ((clearTaken (convergenceMark s e) e k).resync.buffers)[b] = some d
        rwa [(clearTaken_frame _ e k).resync (by decide), mark]
      next => rwa [mark]
    · exact held
  · exact held

end

/-! ## The fences that a test keeps (R102, R103) -/

/-- The durability test by what keeps a fence waiting; outside UP it keeps every fence. -/
theorem fenceTest_keeps {s : State} {kept : Fence → Bool}
    (keeps : ∀ f, kept f = true ↔ s.session.state ≠ .up ∨ FenceWaits (heldRecords s) f) :
    (fenceTest s).fences = s.fences.filter kept ∧ (ringRoom s s.fences.length → eventsOf (fenceTest s) = eventsOf s ++
      (s.fences.filter fun f => !kept f).map fun f => .fenceDone .durable .none f.tag none f.boundary) := by
  by_cases up : s.session.state = .up
  · have kept_eq : kept = fun f => !fencePasses s f := funext fun f => by
      rw [Bool.eq_iff_iff, keeps, Bool.not_eq_true', fencePasses_eq_false_iff]
      simp [up]
    subst kept_eq
    refine ⟨fences_fenceTest s up, fun room => ?_⟩
    simpa only [Bool.not_not] using eventsOf_fenceTest s up room
  · have all (f : Fence) : kept f = true := (keeps f).mpr (.inl up)
    have kept_all : s.fences.filter kept = s.fences := List.filter_eq_self.mpr fun f _ => all f
    rw [fenceTest_of_not_up s up]
    simp [all, kept_all]

theorem SameBut.heldRecords {ps : List Part} {s t : State} (h : SameBut ps s t) (capture : Part.capture ∉ ps)
    (tx : Part.tx ∉ ps) : heldRecords t = heldRecords s := by
  unfold Machine.heldRecords
  rw [h.capture capture, h.tx tx]

/-! ## The end of a segment (R87, R90, R101) -/

/-- The state once the segment in progress has ended, but for the report to the fences. -/
def segmentClosed (s : State) (sg : Segment) : State :=
  { s with
    regions := setAt s.regions sg.region { s.entry sg.region with
      errorReported := (s.entry sg.region).errorReported.filter fun k => k ≠ sg.index }
    resync := { s.resync with segment := none } }

/-- The fences once the end of a region's switch segment is reported. -/
def switchTold (fences : List Fence) (e : RegionIx) (cap : BitVec 48) : List Fence :=
  fences.map fun f => { f with
    scope := f.scope.map fun x => if x.entry = e ∧ x.wait = .waiting then { x with wait := .upTo cap } else x }

/-- The state at whose turn the end of a segment leaves the Resync Engine. -/
def segmentEnded (s : State) (sg : Segment) (cap : BitVec 48) : State :=
  if sg.switch then fenceTest ((segmentClosed s sg).modFences fun fs => switchTold fs sg.region cap)
  else segmentClosed s sg

section
variable (s : State) (sg : Segment) (cap : BitVec 48)

theorem endSegment_eq : endSegment s sg cap = resyncTurnOf (segmentEnded s sg cap) := rfl

theorem segmentEnded_frame : SameBut [.fences, .ev, .stats] (segmentClosed s sg) (segmentEnded s sg cap) := by
  unfold segmentEnded
  split
  · exact ((modFences_frame _ _).mono rfl).then (fenceTest_frame _) rfl
  · exact .refl _ _

theorem segmentClosed_frame : SameBut [.regions, .resync] s (segmentClosed s sg) := by
  constructor <;> intro out <;> first | rfl | exact absurd (by decide) out

theorem entry_segmentClosed : (segmentClosed s sg).entry sg.region = { s.entry sg.region with
    errorReported := (s.entry sg.region).errorReported.filter fun k => k ≠ sg.index } :=
  (getElem_setAt ..).trans (if_pos rfl)

theorem entry_segmentClosed_other {i : RegionIx} (other : i ≠ sg.region) :
    (segmentClosed s sg).entry i = s.entry i := (getElem_setAt ..).trans (if_neg other)

theorem marks_segmentEnded : MarksCounted s (segmentEnded s sg cap) 0 := by
  have closed := (segmentClosed_frame s sg).marks (by decide)
  unfold segmentEnded
  split
  · exact (closed.same ((modFences_frame _ _).marks (by decide))).same (marks_fenceTest _)
  · exact closed

end

section
variable {s : State} {sg : Segment} {cap : BitVec 48}

theorem resync_segmentEnded : (segmentEnded s sg cap).resync = { s.resync with segment := none } :=
  (segmentEnded_frame s sg cap).resync (by decide)

theorem entry_segmentEnded : (segmentEnded s sg cap).entry sg.region = { s.entry sg.region with
    errorReported := (s.entry sg.region).errorReported.filter fun k => k ≠ sg.index } :=
  ((segmentEnded_frame s sg cap).entry (by decide) _).trans (entry_segmentClosed s sg)

theorem entry_segmentEnded_other {i : RegionIx} (other : i ≠ sg.region) :
    (segmentEnded s sg cap).entry i = s.entry i :=
  ((segmentEnded_frame s sg cap).entry (by decide) i).trans (entry_segmentClosed_other s sg other)

theorem segmentEnded_changes : SameBut [.regions, .resync, .fences, .ev, .stats] s (segmentEnded s sg cap) :=
  ((segmentClosed_frame s sg).mono rfl).then (segmentEnded_frame s sg cap) rfl

theorem segmentEnded_of_no_switch (none : sg.switch = false) : segmentEnded s sg cap = segmentClosed s sg :=
  if_neg (by simp [none])

theorem segmentEnded_of_switch (switch : sg.switch = true) : segmentEnded s sg cap =
    fenceTest ((segmentClosed s sg).modFences fun fs => switchTold fs sg.region cap) := if_pos switch

/-- The fences that the end of a switch segment completes. -/
theorem fences_segmentEnded {kept : Fence → Bool} (switch : sg.switch = true)
    (keeps : ∀ f, kept f = true ↔ s.session.state ≠ .up ∨ FenceWaits (heldRecords (segmentEnded s sg cap)) f) :
    (segmentEnded s sg cap).fences = (switchTold s.fences sg.region cap).filter kept ∧
      (ringRoom s s.fences.length → eventsOf (segmentEnded s sg cap) = eventsOf s ++
        ((switchTold s.fences sg.region cap).filter fun f => !kept f).map fun f =>
          .fenceDone .durable .none f.tag none f.boundary) := by
  rw [segmentEnded_changes.heldRecords (by decide) (by decide)] at keeps
  rw [segmentEnded_of_switch switch]
  obtain ⟨fences, events⟩ := fenceTest_keeps
    (s := (segmentClosed s sg).modFences fun fs => switchTold fs sg.region cap) keeps
  refine ⟨fences, fun room => events ?_⟩
  have length : (switchTold s.fences sg.region cap).length = s.fences.length := List.length_map ..
  exact length.symm ▸ room

end

/-! ## An error response (R91) -/

theorem resync_dropSegment (s : State) (sg : Segment) :
    (dropSegment s sg).resync = { s.resync with segment := none } := by
  unfold dropSegment
  dsimp only
  split
  · exact (failFences_frame _ _ _).resync (by decide)
  · rfl

section
variable (s : State) (sg : Segment)

theorem dropSegment_of_switch (switch : sg.switch = true) : dropSegment s sg =
    failFences (s.modResync fun r => { r with segment := none }) sg.region .resyncAbandoned := if_pos switch

theorem dropSegment_of_no_switch (none : sg.switch = false) : dropSegment s sg =
    s.modResync fun r => { r with segment := .none } := if_neg (by simp [none])

theorem fences_dropSegment : (dropSegment s sg).fences =
    if sg.switch then s.fences.filter fun f => !f.covers sg.region else s.fences := by
  cases switch : sg.switch with
  | true => rw [dropSegment_of_switch s sg switch, failFences, fences_completeFences]; rfl
  | false => rw [dropSegment_of_no_switch s sg switch]; rfl

theorem eventsOf_dropSegment (room : ringRoom s s.fences.length) : eventsOf (dropSegment s sg) = eventsOf s ++
    if sg.switch then (s.fences.filter fun f => f.covers sg.region).map fun f =>
      .fenceDone .notDurable .resyncAbandoned f.tag (some sg.region) f.boundary else [] := by
  cases switch : sg.switch with
  | true =>
    rw [dropSegment_of_switch s sg switch]
    exact eventsOf_completeFences (s.modResync _) _ _ _ _ room
  | false => rw [dropSegment_of_no_switch s sg switch]; exact (List.append_nil _).symm

variable (line : Nat)

theorem entry_reportReadError : (reportReadError s sg line).entry sg.region = { s.entry sg.region with
    errorReported := ((reportReadError s sg line).entry sg.region).errorReported } ∧
      sg.index ∈ ((reportReadError s sg line).entry sg.region).errorReported := by
  unfold reportReadError
  dsimp only
  split
  next reported => exact ⟨rfl, by simpa using reported⟩
  next =>
    rw [entry_emit, entry_setEntry, if_pos rfl]
    exact ⟨rfl, (mem_insertSeg ..).mpr (.inl rfl)⟩

theorem entry_reportReadError_other {i : RegionIx} (other : i ≠ sg.region) :
    (reportReadError s sg line).entry i = s.entry i := by
  unfold reportReadError
  dsimp only
  split
  · rfl
  · rw [entry_emit, entry_setEntry, if_neg other]

theorem marks_reportReadError : MarksCounted s (reportReadError s sg line) 0 := by
  unfold reportReadError
  dsimp only
  split
  · exact .of_stats rfl
  · exact MarksCounted.same (m := 0) ((setEntry_frame s _ _).marks (by decide)) (marks_emit _ _)

theorem ringRoom_reportReadError {n : Nat} (room : ringRoom s (n + 1)) : ringRoom (reportReadError s sg line) n := by
  unfold reportReadError
  dsimp only
  split
  · exact ringRoom_mono room (Nat.le_succ n)
  · exact ringRoom_emit _ _ _ room

theorem eventsOf_reportReadError (room : ringRoom s 1) : eventsOf (reportReadError s sg line) = eventsOf s ++
    if sg.index ∈ (s.entry sg.region).errorReported then []
    else [.resyncReadError sg.region sg.index sg.nextBlock line] := by
  unfold reportReadError
  dsimp only
  by_cases reported : sg.index ∈ (s.entry sg.region).errorReported
  · rw [if_pos (by simpa using reported), if_pos reported, List.append_nil]
  · rw [if_neg (by simpa using reported), if_neg reported]
    exact eventsOf_emit _ _ room

end

/-- The state with the request gone from those outstanding and one response more taken. -/
def responseTaken (s : State) (rest : List MemRequest) : State :=
  { s with
    mem := { s.mem with outstanding := rest }
    resync := { s.resync with taken := s.resync.taken + 1 } }

theorem responseTaken_frame (s : State) (rest : List MemRequest) :
    SameBut [.mem, .resync] s (responseTaken s rest) := by
  constructor <;> intro out <;> first | rfl | exact absurd (by decide) out

/-- The state once the block of an error response is released and its segment marked. -/
def readMarked (s : State) (rest : List MemRequest) (sg : Segment) : State :=
  mark (releaseBlock (responseTaken s rest)) sg.region sg.index

/-- The state at whose turn an error response leaves the Resync Engine. -/
def readFailed (s : State) (rest : List MemRequest) (sg : Segment) : State :=
  dropSegment (reportReadError (readMarked s rest sg) sg (64 * sg.nextBlock + s.resync.taken)) sg

section
variable {s : State} {rest : List MemRequest} {sg : Segment}

theorem badRead_of_segment (segment : s.resync.segment = some sg) :
    badRead (s.modMem fun m => { m with outstanding := rest }) = resyncTurnOf (readFailed s rest sg) := by
  have same : (s.modMem fun m => { m with outstanding := rest }).resync.segment = some sg := segment
  unfold badRead
  rw [same]
  rfl

theorem readMarked_frame : SameBut [.mem, .resync, .regions, .stats] s (readMarked s rest sg) :=
  (((responseTaken_frame s rest).mono rfl).then (releaseBlock_frame _) rfl).then (mark_frame _ _ _) rfl

theorem readFailed_frame : SameBut [.regions, .resync, .fences, .ev, .stats] (readMarked s rest sg)
    (readFailed s rest sg) :=
  ((reportReadError_frame _ _ _).mono rfl).then (dropSegment_frame _ _) rfl

theorem holdEnds_readMarked : HoldEnds { s.mem with outstanding := rest } (readMarked s rest sg).mem
    (ReleaseEndsHold s) := by
  rw [readMarked, (mark_frame _ _ _).mem (by decide)]
  exact holdEnds_releaseBlock (responseTaken s rest)

theorem resync_readFailed {b : Fin 4} {q : QueueClass} (reserved : s.resync.reserved = some (b, q)) :
    (readFailed s rest sg).resync = { s.resync with
      segment := none, block := .idle, issued := 0, taken := 0, reserved := none
      toDiscard := s.resync.toDiscard + (s.resync.issued - (s.resync.taken + 1))
      buffers := setAt s.resync.buffers b none } := by
  rw [readFailed, resync_dropSegment, (reportReadError_frame _ _ _).resync (by decide), readMarked,
    (mark_frame _ _ _).resync (by decide), resync_releaseBlock_of_some (s := responseTaken s rest) reserved]
  rfl

/-- The release of the block leaves the entries and the counters. -/
theorem entry_release (i : RegionIx) : (releaseBlock (responseTaken s rest)).entry i = s.entry i :=
  ((releaseBlock_frame _).entry (by decide) i).trans ((responseTaken_frame s rest).entry (by decide) i)

theorem entry_readMarked : (readMarked s rest sg).entry sg.region =
    { s.entry sg.region with dirty := ((readMarked s rest sg).entry sg.region).dirty } := by
  have marked := (entry_mark (releaseBlock (responseTaken s rest)) sg.region sg.region sg.index).1
  rw [entry_release] at marked
  exact marked

theorem entry_readFailed : (readFailed s rest sg).entry sg.region = { s.entry sg.region with
    dirty := ((readMarked s rest sg).entry sg.region).dirty
    errorReported := ((readFailed s rest sg).entry sg.region).errorReported } ∧
      sg.index ∈ ((readFailed s rest sg).entry sg.region).errorReported := by
  have same (i : RegionIx) := (dropSegment_frame
    (reportReadError (readMarked s rest sg) sg (64 * sg.nextBlock + s.resync.taken)) sg).entry (by decide) i
  obtain ⟨entry, reported⟩ := entry_reportReadError (readMarked s rest sg) sg (64 * sg.nextBlock + s.resync.taken)
  rw [readFailed, same]
  refine ⟨?_, reported⟩
  rw [entry, entry_readMarked]

theorem entry_readFailed_other {i : RegionIx} (other : i ≠ sg.region) :
    (readFailed s rest sg).entry i = s.entry i := by
  rw [readFailed, (dropSegment_frame _ _).entry (by decide), entry_reportReadError_other _ _ _ other, readMarked,
    (entry_mark _ _ i _).2 other, entry_release]

theorem dirty_readMarked (markable : Machine.markable (s.entry sg.region).state = true) (k : Nat) :
    k ∈ ((readMarked s rest sg).entry sg.region).dirty ↔ k = sg.index ∨ k ∈ (s.entry sg.region).dirty := by
  have entry : (releaseBlock (responseTaken s rest)).entry sg.region = s.entry sg.region := entry_release _
  rw [readMarked, mem_dirty_mark _ _ _ _ (by rwa [entry]), entry]

theorem marks_readFailed (markable : Machine.markable (s.entry sg.region).state = true) :
    MarksCounted s (readFailed s rest sg) (if sg.index ∈ (s.entry sg.region).dirty then 0 else 1) := by
  have entry : (releaseBlock (responseTaken s rest)).entry sg.region = s.entry sg.region := entry_release _
  have released : MarksCounted s (releaseBlock (responseTaken s rest)) 0 :=
    ((responseTaken_frame s rest).marks (by decide)).same ((releaseBlock_frame _).marks (by decide))
  have marked := marks_mark (s := releaseBlock (responseTaken s rest)) (e := sg.region) sg.index (by rwa [entry])
  rw [entry] at marked
  have failed : MarksCounted (releaseBlock (responseTaken s rest)) (readFailed s rest sg) _ :=
    (marked.same (marks_reportReadError _ sg _)).same (marks_dropSegment _ sg)
  have all := released.then failed
  rwa [Nat.zero_add] at all

theorem fences_readFailed : (readFailed s rest sg).fences =
    if sg.switch then s.fences.filter fun f => !f.covers sg.region else s.fences := by
  rw [readFailed, fences_dropSegment, (reportReadError_frame _ _ _).fences (by decide),
    readMarked_frame.fences (by decide)]

theorem eventsOf_readFailed (room : ringRoom s (1 + s.fences.length)) : eventsOf (readFailed s rest sg) = eventsOf s ++
    (if sg.index ∈ (s.entry sg.region).errorReported then []
      else [.resyncReadError sg.region sg.index sg.nextBlock (64 * sg.nextBlock + s.resync.taken)]) ++
    if sg.switch then (s.fences.filter fun f => f.covers sg.region).map fun f =>
      .fenceDone .notDurable .resyncAbandoned f.tag (some sg.region) f.boundary else [] := by
  have ev : (readMarked s rest sg).ev = s.ev := readMarked_frame.ev (by decide)
  have fences : (reportReadError (readMarked s rest sg) sg (64 * sg.nextBlock + s.resync.taken)).fences = s.fences :=
    ((reportReadError_frame _ _ _).fences (by decide)).trans (readMarked_frame.fences (by decide))
  have marked : ringRoom (readMarked s rest sg) (s.fences.length + 1) := by
    rwa [ringRoom, ev, Nat.add_comm s.fences.length]
  have reported := eventsOf_reportReadError (readMarked s rest sg) sg (64 * sg.nextBlock + s.resync.taken)
    (ringRoom_mono marked (Nat.le_add_left ..))
  rw [readFailed, eventsOf_dropSegment _ _ (by rw [fences]; exact ringRoom_reportReadError _ _ _ marked), reported, fences,
    entry_readMarked, eventsOf, ev]
  rfl

end

/-! ## The last response of a block (R35, R86) -/

/-- The state with the request gone from those outstanding and the last line of the block filled. -/
def blockFilled (s : State) (rest : List MemRequest) (b : Fin 4) (d : BlockData) (data : Line) : State :=
  { s with
    mem := { s.mem with outstanding := rest }
    resync := lineFilled s.resync b d data }

/-- The state once the block's record stands in its queue and a BLOCK_READ hold has ended. -/
def blockDone (s : State) (rest : List MemRequest) (sg : Segment) (b : Fin 4) (q : QueueClass) (d : BlockData)
    (data : Line) (block : BlockState) : State :=
  endHoldOf (blockRecorded (blockFilled s rest b d data) sg b q block) .blockRead

section
variable (s : State) (rest : List MemRequest) (sg : Segment) (b : Fin 4) (q : QueueClass) (d : BlockData) (data : Line)
  (block : BlockState)

theorem blockRecorded_frame : SameBut [.mem, .capture, .resync] s
    (blockRecorded (blockFilled s rest b d data) sg b q block) := by
  constructor <;> intro out <;> first | rfl | exact absurd (by decide) out

theorem blockDone_frame : SameBut [.mem, .capture, .resync] s (blockDone s rest sg b q d data block) :=
  (blockRecorded_frame ..).then (endHoldOf_frame _ _) rfl

theorem holdEnds_blockDone : HoldEnds { s.mem with outstanding := rest } (blockDone s rest sg b q d data block).mem
    (s.mem.hold = .blockRead) := holdEnds_endHoldOf (blockRecorded (blockFilled s rest b d data) sg b q block) .blockRead

theorem capture_blockDone : (blockDone s rest sg b q d data block).capture =
    { s.capture.setQueue q (s.capture.queueOf q ++
        [⟨s.capture.counter, .block sg.region (s.entry sg.region).peer sg.nextBlock b⟩]) with
      counter := capSucc s.capture.counter } := (endHoldOf_frame _ _).capture (by decide)

theorem resync_blockDone (last : s.resync.taken + 1 = 64) : (blockDone s rest sg b q d data block).resync =
    { s.resync with
      segment := some { sg with nextBlock := sg.nextBlock + 1 }, block := block, issued := 0, taken := 0, reserved := none
      buffers := setAt s.resync.buffers b (some (setBlockLine d 63 data)) } := by
  have taken : s.resync.taken = 63 := Nat.succ.inj last
  rw [← taken]
  exact (endHoldOf_frame _ _).resync (by decide)

theorem buffer_blockDone (last : s.resync.taken + 1 = 64) :
    ((blockDone s rest sg b q d data block).resync.buffers)[b] = some (setBlockLine d 63 data) := by
  rw [resync_blockDone s rest sg b q d data block last]
  exact (getElem_setAt ..).trans (if_pos rfl)

end

end Sys2Proof.Machine

namespace Sys2Proof.Proofs

open Sys2Proof.Machine

/-- Settles O35: by the responses due, the state of the block, the status, and whether the block and the segment end. -/
theorem resyncAnswers : Obligations.ResyncAnswers := by
  refine ⟨fun a data s none => ?_, ?_⟩
  · simp only [exec, execResyncReadResponse,
      takeAnswer_of_noAnswer s a _ (fun x => x == .resync) none fun x h => by simpa using h]
  intro a data r rest s answers source leaves
  have run := exec_resyncReadResponse (data := data) answers source
  have after {t : State} (h : resyncResponse (s.modMem fun m => { m with outstanding := rest }) a.status data = t) :
      leaves t := h ▸ run
  refine ⟨fun due => after (resyncResponse_of_due (s := s.modMem _) due),
    fun none idle => after (resyncResponse_of_idle (s := s.modMem _) none idle), ?_, ?_⟩
  · intro sg b q d none reading segment reserved buffer region turnOf
    have good : resyncResponse (s.modMem fun m => { m with outstanding := rest }) .ok data =
        if s.resync.taken + 1 = 64 then finishBlock (blockFilled s rest b d data) sg b q
        else blockFilled s rest b d data :=
      (resyncResponse_of_good (s := s.modMem _) none reading).trans
        (goodRead_eq (s := s.modMem _) segment reserved buffer)
    refine ⟨fun ok more => ?_, fun ok last => ?_, fun ok last ends => ?_, fun error markable => ?_⟩
    · rw [ok] at after
      exact after (good.trans (if_neg more))
    · rw [ok] at after
      have filled := after (good.trans (if_pos last))
      by_cases more : sg.nextBlock + 1 < (sg.index + 1) * segBlocks region.sizeExp
      · have done := blockDone_frame s rest sg b q d data .waiting
        have resync := resync_blockDone s rest sg b q d data .waiting last
        have finish : finishBlock (blockFilled s rest b d data) sg b q =
            tryStart (blockDone s rest sg b q d data .waiting) := finishBlock_of_more (s := blockFilled ..) more
        have start := tryStart_frame (blockDone s rest sg b q d data .waiting)
        rw [finish] at filled
        refine ⟨_, filled, ?_, ?_, ?_, fun _ => ⟨⟨_, rfl, resync, done⟩, ?_, ?_, ?_, ?_, ?_⟩,
          (done.mono rfl).then start rfl⟩
        · rw [start.mem (by decide)]
          exact holdEnds_blockDone ..
        · rw [start.capture (by decide)]
          exact capture_blockDone ..
        · exact tryStart_buffer (buffer_blockDone s rest sg b q d data .waiting last)
        · rw [tryStart_segment, resync]
        · exact (start.regions (by decide)).trans (done.regions (by decide))
        · exact (start.fences (by decide)).trans (done.fences (by decide))
        · exact (start.ev (by decide)).trans (done.ev (by decide))
        · exact (start.stats (by decide)).trans (done.stats (by decide))
      · have done := blockDone_frame s rest sg b q d data .idle
        have finish : finishBlock (blockFilled s rest b d data) sg b q = resyncTurnOf
            (segmentEnded (blockDone s rest sg b q d data .idle) sg s.capture.counter) :=
          finishBlock_of_last (s := blockFilled ..) (Nat.le_of_not_lt more)
        have ended := segmentEnded_changes (s := blockDone s rest sg b q d data .idle) (sg := sg)
          (cap := s.capture.counter)
        have turn := resyncTurnOf_frame (segmentEnded (blockDone s rest sg b q d data .idle) sg s.capture.counter)
        rw [finish] at filled
        refine ⟨_, filled, ?_, ?_, ?_, fun now => absurd now more,
          ((done.mono rfl).then ended rfl).then turn rfl⟩
        · rw [turn.mem (by decide), ended.mem (by decide)]
          exact holdEnds_blockDone ..
        · rw [turn.capture (by decide), ended.capture (by decide)]
          exact capture_blockDone ..
        · refine resyncTurnOf_buffer ?_
          rw [resync_segmentEnded]
          exact buffer_blockDone s rest sg b q d data .idle last
    · rw [ok] at after
      have filled := after (good.trans (if_pos last))
      have done := blockDone_frame s rest sg b q d data .idle
      have finish : finishBlock (blockFilled s rest b d data) sg b q = resyncTurnOf
          (segmentEnded (blockDone s rest sg b q d data .idle) sg s.capture.counter) :=
        finishBlock_of_last (s := blockFilled ..) ends
      have ended := segmentEnded_changes (s := blockDone s rest sg b q d data .idle) (sg := sg)
        (cap := s.capture.counter)
      have fences : (blockDone s rest sg b q d data .idle).fences = s.fences := done.fences (by decide)
      have ev : (blockDone s rest sg b q d data .idle).ev = s.ev := done.ev (by decide)
      have session : (blockDone s rest sg b q d data .idle).session = s.session := done.session (by decide)
      rw [finish] at filled
      refine ⟨_, ⟨⟨_, rfl, filled⟩, (done.mono rfl).then ended rfl⟩, ?_, ?_, ?_, ?_, ?_, fun i other => ?_,
        fun switch => ?_, fun switch => ⟨fun down => ?_, fun kept up keeps => ?_⟩⟩
      · rw [ended.mem (by decide)]
        exact holdEnds_blockDone ..
      · exact (done.marks (by decide)).same (marks_segmentEnded ..)
      · rw [ended.capture (by decide)]
        exact capture_blockDone ..
      · rw [resync_segmentEnded, resync_blockDone s rest sg b q d data .idle last]
      · rw [entry_segmentEnded, done.entry (by decide)]
      · rw [entry_segmentEnded_other other, done.entry (by decide)]
      · rw [segmentEnded_of_no_switch switch]
        exact ⟨fences, ev, done.stats (by decide)⟩
      · rw [segmentEnded_of_switch switch, fenceTest_of_not_up _ (show _ from session.symm ▸ down)]
        exact ⟨congrArg (fun fs => switchTold fs sg.region s.capture.counter) fences, ev⟩
      · obtain ⟨left, events⟩ := fences_segmentEnded (kept := kept) (s := blockDone s rest sg b q d data .idle)
          (cap := s.capture.counter) switch fun f => by rw [keeps, session]; simp [up]
        rw [fences] at left events
        refine ⟨left, fun room => ?_⟩
        rw [events (by rwa [ringRoom, ev]), eventsOf, ev]
        rfl
    · rw [error] at after
      have bad : resyncResponse (s.modMem fun m => { m with outstanding := rest }) .error data =
          resyncTurnOf (readFailed s rest sg) :=
        (resyncResponse_of_bad (s := s.modMem _) none reading).trans (badRead_of_segment segment)
      have failed := readFailed_frame (s := s) (rest := rest) (sg := sg)
      have marked := readMarked_frame (s := s) (rest := rest) (sg := sg)
      have resync := resync_readFailed (rest := rest) (sg := sg) reserved
      obtain ⟨entry, reported⟩ := entry_readFailed (s := s) (rest := rest) (sg := sg)
      refine ⟨readFailed s rest sg, ⟨⟨_, rfl, after bad⟩, (marked.mono rfl).then failed rfl⟩, ?_, ?_,
        marks_readFailed markable, ?_, ?_, ?_, ?_, ?_, fun k => ?_, reported, ?_, fun i other => entry_readFailed_other other,
        fun switch => ?_, fun switch => ?_, fun room => eventsOf_readFailed room⟩
      · exact (failed.capture (by decide)).trans (marked.capture (by decide))
      · rw [failed.mem (by decide)]
        exact holdEnds_readMarked
      · rw [resync, none, Nat.zero_add]
      · rw [resync]
      · rw [resync]
      · rw [resync]
      · rw [resync]
        exact (getElem_setAt ..).trans (if_pos rfl)
      · rw [entry]
        exact dirty_readMarked markable k
      · rw [entry]
      · rw [fences_readFailed, switch]
        rfl
      · rw [fences_readFailed, switch]
        rfl
  · intro b q none discarding reserved
    have discard := resyncResponse_of_discarding (s := s.modMem fun m => { m with outstanding := rest })
      (status := a.status) (data := data) none discarding
    refine ⟨fun more => after (discard.trans (if_neg more)), fun last => ?_⟩
    have ending : endDiscarding (responseTaken s rest) = releaseBlock (responseTaken s rest) :=
      if_pos ⟨discarding, last⟩
    have turn := after (discard.trans (if_pos last))
    refine ⟨releaseBlock (responseTaken s rest), ⟨_, rfl, ?_⟩, ?_, holdEnds_releaseBlock (responseTaken s rest),
      ((responseTaken_frame s rest).mono rfl).then (releaseBlock_frame _) rfl⟩
    · rw [← ending]
      exact turn
    · rw [resync_releaseBlock_of_some (s := responseTaken s rest) reserved]
      have due : s.resync.issued - (s.resync.taken + 1) = 0 := Nat.sub_eq_zero_of_le (Nat.le_of_eq last.symm)
      show { s.resync with
        block := .idle, issued := 0, taken := 0, reserved := Option.none
        toDiscard := s.resync.toDiscard + (s.resync.issued - (s.resync.taken + 1))
        buffers := setAt s.resync.buffers b Option.none } = _
      rw [due]
      rfl

end Sys2Proof.Proofs
end

section
/-! PROOFS. The events that the steps of a teardown request, counted against the room in the ring (R37, R55, R104, R105,
R159). -/

namespace Sys2Proof.Machine

/-! ## What a run of operations reports -/

/-- A fence is pending, known by its tag and its boundary. -/
def FenceKept (fences : List Fence) (f : Fence) : Prop := ∃ g ∈ fences, g.tag = f.tag ∧ g.boundary = f.boundary

/-- The events report that a fence failed. -/
def FenceFailed (more : List Event) (f : Fence) : Prop :=
  ∃ c e, Event.fenceDone .notDurable c f.tag e f.boundary ∈ more

/-- From `s` to `t` the events `more` are requested, of which `n` are not of fences that leave the list; a fence that
leaves it is reported as failed. -/
structure Reports (s t : State) (n : Nat) (more : List Event) : Prop where
  told : ∀ k, ringRoom s (more.length + k) → eventsOf t = eventsOf s ++ more ∧ ringRoom t k
  within : more.length + t.fences.length ≤ n + s.fences.length
  fences : ∀ f ∈ s.fences, FenceKept t.fences f ∨ FenceFailed more f

section
variable {s t u : State} {n m : Nat} {more next : List Event}

theorem Reports.quiet (ev : t.ev = s.ev) (fences : t.fences = s.fences) : Reports s t 0 [] := by
  refine ⟨fun k room => ⟨?_, ?_⟩, ?_, fun f mem => .inl ⟨f, fences ▸ mem, rfl, rfl⟩⟩
  · rw [eventsOf, eventsOf, ev, List.append_nil]
  · rw [ringRoom, ev]
    exact ringRoom_mono room (Nat.le_add_left ..)
  · rw [fences, List.length_nil]

theorem Reports.of_frame {ps : List Part} (h : SameBut ps s t) (ev : Part.ev ∉ ps) (fences : Part.fences ∉ ps) :
    Reports s t 0 [] := .quiet (h.ev ev) (h.fences fences)

theorem Reports.trans (h : Reports s t n more) (g : Reports t u m next) : Reports s u (n + m) (more ++ next) := by
  refine ⟨fun k room => ?_, ?_, fun f mem => ?_⟩
  · rw [List.length_append, Nat.add_assoc] at room
    obtain ⟨first, roomAfter⟩ := h.told _ room
    obtain ⟨second, left⟩ := g.told k roomAfter
    exact ⟨by rw [second, first, List.append_assoc], left⟩
  · have first := h.within
    have second := g.within
    rw [List.length_append]
    omega
  · obtain ⟨x, pending, tag, boundary⟩ | ⟨c, e, failed⟩ := h.fences f mem
    · obtain ⟨y, still, tag', boundary'⟩ | ⟨c, e, failed⟩ := g.fences x pending
      · exact .inl ⟨y, still, tag'.trans tag, boundary'.trans boundary⟩
      · exact .inr ⟨c, e, List.mem_append_right _ (tag ▸ boundary ▸ failed)⟩
    · exact .inr ⟨c, e, List.mem_append_left _ failed⟩

theorem Reports.mono (h : Reports s t n more) (le : n ≤ m) : Reports s t m more :=
  ⟨h.told, h.within.trans (Nat.add_le_add_right le _), h.fences⟩

/-- A quiet step behind a report. -/
theorem Reports.then {ps : List Part} (h : Reports s t n more) (g : SameBut ps t u) (ev : Part.ev ∉ ps)
    (fences : Part.fences ∉ ps) : Reports s u n more := by
  have both := h.trans (Reports.of_frame g ev fences)
  rwa [List.append_nil] at both

end

section
variable (s : State)

theorem reports_emit (ev : Event) : Reports s (emit s ev) 1 [ev] := by
  have fences : (emit s ev).fences = s.fences := (emit_frame s ev).fences (by decide)
  refine ⟨fun k room => ?_, by rw [fences]; rfl, fun f mem => .inl ⟨f, fences ▸ mem, rfl, rfl⟩⟩
  rw [List.length_singleton, Nat.add_comm] at room
  exact ⟨eventsOf_emit s ev (ringRoom_mono room (Nat.le_add_left ..)), ringRoom_emit s ev k room⟩

theorem ringRoom_foldl_emit {α : Type} (f : α → Event) : ∀ (l : List α) (s : State) (k : Nat),
    ringRoom s (l.length + k) → ringRoom (l.foldl (fun t x => emit t (f x)) s) k
  | [], s, k, room => by rwa [List.length_nil, Nat.zero_add] at room
  | a :: l, s, k, room => by
    rw [List.length_cons, Nat.add_right_comm] at room
    exact ringRoom_foldl_emit f l _ k (ringRoom_emit s (f a) _ room)

/-- The fences that a test picks fail. -/
theorem reports_completeFences (p : Fence → Bool) (c : FenceCause) (r : Option RegionIx) :
    Reports s (completeFences s p .notDurable c r) 0
      ((s.fences.filter p).map fun f => .fenceDone .notDurable c f.tag r f.boundary) := by
  have fences := fences_completeFences s p .notDurable c r
  refine ⟨fun k room => ⟨?_, ?_⟩, ?_, fun f mem => ?_⟩
  · refine eventsOf_foldl _ _ (s.modFences fun fs => fs.filter fun f => !p f) ?_
    rw [List.length_map] at room
    exact ringRoom_mono (s := s) room (Nat.le_add_right ..)
  · rw [List.length_map] at room
    exact ringRoom_foldl_emit _ _ (s.modFences fun fs => fs.filter fun f => !p f) k room
  · rw [fences, List.length_map, Nat.zero_add]
    exact Nat.le_of_eq (List.length_eq_length_filter_add p).symm
  · rw [fences]
    cases picks : p f with
    | true => exact .inr ⟨c, r, List.mem_map.mpr ⟨f, List.mem_filter.mpr ⟨mem, picks⟩, rfl⟩⟩
    | false => exact .inl ⟨f, List.mem_filter.mpr ⟨mem, by rw [picks]; rfl⟩, rfl, rfl⟩

theorem reports_leaveScopes (e : RegionIx) : Reports s (leaveScopes s e) 0 [] := by
  refine ⟨fun k room => ⟨(List.append_nil _).symm, ringRoom_mono (s := s) room (Nat.le_add_left ..)⟩, ?_, fun f mem => ?_⟩
  · exact Nat.le_of_eq (congrArg (0 + ·) (List.length_map ..))
  · exact .inl ⟨_, List.mem_map_of_mem mem, rfl, rfl⟩

theorem reports_done (r : CmdResult) (tag : BitVec 16) (code : Nat) (entry : BitVec 8) :
    Reports s (done s r tag code entry) 1 [.commandDone r tag (BitVec.ofNat 16 code) entry 0] := reports_emit s _

/-! ## The sweep (R10) -/

theorem reports_claimLagging (e : RegionIx) (c : RegionCause) (f : FenceCause) :
    ∃ more, Reports s (claimLagging s e c f) 1 more ∧
      ((s.entry e).state = .mirrored → .regionState c e .source .mirrored .lagging ∈ more) := by
  rw [claimLagging_eq]
  split
  · have set := Reports.of_frame (setEntry_frame s e { s.entry e with state := .lagging }) (by decide) (by decide)
    have told := set.trans (reports_emit _ (.regionState c e .source .mirrored .lagging))
    have failed := told.trans (reports_completeFences (laggingReported s e c) (fun x => x.covers e) f (some e))
    exact ⟨_, failed.then (leftMirrored_frame _ e) (by decide) (by decide), fun _ => List.mem_cons_self ..⟩
  next still => exact ⟨[], (Reports.quiet rfl rfl).mono (Nat.zero_le 1), fun mirrored => absurd mirrored still⟩

theorem reports_foldl_claimLagging (c : RegionCause) (f : FenceCause) : ∀ (l : List RegionIx) (s : State), l.Nodup →
    ∃ more, Reports s (l.foldl (fun t e => claimLagging t e c f) s) l.length more ∧
      ∀ e ∈ l, (s.entry e).state = .mirrored → .regionState c e .source .mirrored .lagging ∈ more
  | [], s, _ => ⟨[], .quiet rfl rfl, fun e mem => by cases mem⟩
  | e :: l, s, distinct => by
    obtain ⟨fresh, rest⟩ := List.nodup_cons.mp distinct
    obtain ⟨first, told, here⟩ := reports_claimLagging s e c f
    obtain ⟨later, toldLater, there⟩ := reports_foldl_claimLagging c f l (claimLagging s e c f) rest
    refine ⟨first ++ later, (told.trans toldLater).mono (Nat.le_of_eq (Nat.add_comm ..)), fun i mem mirrored => ?_⟩
    obtain rfl | mem := List.mem_cons.mp mem
    · exact List.mem_append_left _ (here mirrored)
    · have other : i ≠ e := fun same => fresh (same ▸ mem)
      refine List.mem_append_right _ (there i mem ?_)
      rwa [entry_claimLagging, if_neg fun h => other h.1]

theorem reports_sweep : ∃ more, Reports s (sweep s) 32 more ∧
    ∀ e, (s.entry e).state = .mirrored → .regionState .sessionDown e .source .mirrored .lagging ∈ more := by
  obtain ⟨more, told, all⟩ :=
    reports_foldl_claimLagging .sessionDown .sessionDown entryList s (List.nodup_finRange 32)
  exact ⟨more, told.mono (Nat.le_of_eq (List.length_finRange ..)), fun e => all e (List.mem_finRange e)⟩

theorem reports_lossState : ∃ more, Reports s (lossState s) 32 more ∧ ∀ e, s.session.state = .up →
    (s.entry e).state = .mirrored → .regionState .sessionDown e .source .mirrored .lagging ∈ more := by
  unfold lossState
  split
  · obtain ⟨more, told, all⟩ := reports_sweep (enterCalling s)
    have called := Reports.of_frame (enterCalling_frame s) (by decide) (by decide)
    exact ⟨_, (called.trans told).mono (Nat.le_refl 32), fun e _ => all e⟩
  next down =>
    exact ⟨[], (Reports.of_frame (enterDisabled_frame s) (by decide) (by decide)).mono (Nat.zero_le 32),
      fun e up => absurd up down⟩

/-! ## The conversion of a record (R12, R37) -/

theorem reports_completeClose (e : RegionIx) : ∃ more, Reports s (completeClose s e) 1 more ∧
    ∀ tag, (s.cmd.pendingClose)[e] = some tag → .commandDone .ok tag 5 (BitVec.ofNat 8 e.val) 0 ∈ more := by
  unfold completeClose
  split
  next tag pending =>
    have cleared := Reports.of_frame
      (modCmd_frame s fun c => { c with pendingClose := setAt c.pendingClose e none }) (by decide) (by decide)
    refine ⟨_, cleared.trans (reports_done _ .ok tag codeClose (BitVec.ofNat 8 e.val)), fun tag' pending' => ?_⟩
    obtain rfl : tag = tag' := Option.some.inj (pending.symm.trans pending')
    exact List.mem_singleton.mpr rfl
  next none =>
    exact ⟨[], (Reports.quiet rfl rfl).mono (Nat.zero_le 1), fun tag pending => by simp [none] at pending⟩

theorem reports_freeSource (e : RegionIx) :
    Reports s (freeSource s e) 1 [.regionState .drained e .source .draining .free] := by
  have zeroed := Reports.of_frame (setEntry_frame s e Entry.zero) (by decide) (by decide)
  have told := zeroed.trans (reports_emit _ (.regionState .drained e .source .draining .free))
  exact (told.trans (reports_leaveScopes _ e)).mono (Nat.le_refl 1)

theorem reports_drainEntry (e : RegionIx) : ∃ more, Reports s (drainEntry s e) 2 more ∧ (isDrained s e = true →
    .regionState .drained e .source .draining .free ∈ more ∧
      ∀ tag, (s.cmd.pendingClose)[e] = some tag → .commandDone .ok tag 5 (BitVec.ofNat 8 e.val) 0 ∈ more) := by
  unfold drainEntry
  split
  · obtain ⟨more, told, all⟩ := reports_completeClose (freeSource s e) e
    refine ⟨_, (reports_freeSource s e).trans told, fun _ => ⟨List.mem_cons_self .., fun tag pending => ?_⟩⟩
    refine List.mem_cons_of_mem _ (all tag ?_)
    rwa [(freeSource_frame s e).cmd (by decide)]
  next busy => exact ⟨[], (Reports.quiet rfl rfl).mono (Nat.zero_le 2), fun drained => absurd drained busy⟩

/-! ## The end of what is under way (R94, R104, R105) -/

theorem reports_dropSegment (sg : Segment) : ∃ more, Reports s (dropSegment s sg) 0 more := by
  have gone := Reports.of_frame (modResync_frame s fun r => { r with segment := none }) (by decide) (by decide)
  cases switch : sg.switch with
  | true =>
    rw [dropSegment_of_switch s sg switch]
    exact ⟨_, gone.trans (reports_completeFences _ _ _ _)⟩
  | false =>
    rw [dropSegment_of_no_switch s sg switch]
    exact ⟨_, gone⟩

theorem reports_resyncLeavesUp : ∃ more, Reports s (resyncLeavesUp s) 0 more := by
  have abandoned : ∃ more, Reports s (abandonSegment s true) 0 more := by
    unfold abandonSegment
    split
    next sg _ =>
      have released := (Reports.of_frame (releaseBlock_frame s) (by decide) (by decide)).then
        (mark_frame _ sg.region sg.index) (by decide) (by decide)
      obtain ⟨more, dropped⟩ := reports_dropSegment (mark (releaseBlock s) sg.region sg.index) sg
      exact ⟨_, released.trans dropped⟩
    next => exact ⟨[], .quiet rfl rfl⟩
  obtain ⟨more, told⟩ := abandoned
  exact ⟨more, told.then (releaseDiscarding_frame _) (by decide) (by decide)⟩

theorem reports_completeDisconnect : ∃ more, Reports s (completeDisconnect s) 1 more ∧
    ∀ tag, s.session.pendingDisconnect = some tag → .commandDone .ok tag 2 0 0 ∈ more := by
  unfold completeDisconnect
  split
  next tag pending =>
    have cleared := Reports.of_frame (modSession_frame s fun x => { x with pendingDisconnect := none })
      (by decide) (by decide)
    refine ⟨_, cleared.trans (reports_done _ .ok tag codeDisconnect 0), fun tag' pending' => ?_⟩
    obtain rfl : tag = tag' := Option.some.inj (pending.symm.trans pending')
    exact List.mem_singleton.mpr rfl
  next none =>
    exact ⟨[], (Reports.quiet rfl rfl).mono (Nat.zero_le 1), fun tag pending => by simp [none] at pending⟩

end

end Sys2Proof.Machine
end

section
/-! PROOFS. The conversion of the records that a loss takes: marks, freed buffers, regions that drain, and what is reported
(R12, R37, R72). -/

namespace Sys2Proof.Machine

/-! ## The test of R12 -/

theorem isDrained_iff (s : State) (e : RegionIx) : isDrained s e = true ↔
    (s.entry e).state = .draining ∧ ∀ r ∈ heldRecords s, r.region ≠ some e := by
  simp [isDrained, regionHasRecords]

section
variable (s : State) (e i : RegionIx)

theorem entry_completeClose : (completeClose s e).entry i = s.entry i := (completeClose_frame s e).entry (by decide) i

theorem pendingClose_completeClose : ((completeClose s e).cmd.pendingClose)[i] =
    if i = e then none else (s.cmd.pendingClose)[i] := by
  unfold completeClose
  split
  next tag pending =>
    rw [done, (emit_frame _ _).cmd (by decide), State.modCmd_cmd]
    exact getElem_setAt ..
  next none =>
    split
    next same => rw [same, none]
    next => rfl

theorem entry_freeSource : (freeSource s e).entry i = if i = e then Entry.zero else s.entry i := by
  show (emit (setEntry s e Entry.zero) _).entry i = _
  rw [entry_emit, entry_setEntry]

variable {s e}

theorem drainEntry_of_drained (h : isDrained s e = true) : drainEntry s e = completeClose (freeSource s e) e := if_pos h

theorem drainEntry_of_busy (h : ¬isDrained s e = true) : drainEntry s e = s := if_neg h

variable (s e)

theorem entry_drainEntry : (drainEntry s e).entry i = if i = e ∧ isDrained s e = true then Entry.zero else s.entry i := by
  by_cases drained : isDrained s e = true
  · rw [drainEntry_of_drained drained, entry_completeClose, entry_freeSource]
    simp only [drained, and_true]
  · rw [drainEntry_of_busy drained, if_neg fun h => drained h.2]

theorem pendingClose_drainEntry : ((drainEntry s e).cmd.pendingClose)[i] =
    if i = e ∧ isDrained s e = true then none else (s.cmd.pendingClose)[i] := by
  by_cases drained : isDrained s e = true
  · rw [drainEntry_of_drained drained, pendingClose_completeClose, (freeSource_frame s e).cmd (by decide)]
    simp only [drained, and_true]
  · rw [drainEntry_of_busy drained, if_neg fun h => drained h.2]

end

/-! ## What a record's conversion marks -/

/-- A record of the region lies in segment `k`, where the region is of size 2^n. -/
def InSegment (n : Nat) (e : RegionIx) (k : Nat) (r : Record) : Prop :=
  r.region = some e ∧ recordSegment n r = some k

/-- A mark that is made in a LAGGING region only. -/
theorem marked_of_lagging (s : State) (e i : RegionIx) (k : Nat) :
    ((s.entry i).state = .lagging →
      Marked s (if (s.entry e).state = .lagging then mark s e k else s) i .lagging (fun j => i = e ∧ j = k)) ∧
    ((s.entry i).state ≠ .lagging →
      (if (s.entry e).state = .lagging then mark s e k else s).entry i = s.entry i) := by
  by_cases lagging : (s.entry e).state = .lagging
  · rw [if_pos lagging]
    refine ⟨fun here => ⟨?_, fun j => ?_⟩, fun other => (entry_mark s e i k).2 fun same => other (same ▸ lagging)⟩
    · rw [← here]
      exact (entry_mark s e i k).1
    · by_cases same : i = e
      · subst same
        rw [mem_dirty_mark s i k j (by rw [here]; rfl), or_comm]
        simp
      · rw [(entry_mark s e i k).2 same]
        simp [same]
  · rw [if_neg lagging]
    refine ⟨fun here => ⟨?_, fun j => ?_⟩, fun _ => rfl⟩
    · rw [here.symm]
    · have other : i ≠ e := fun same => lagging (same ▸ here)
      simp [other]

/-- A record that names a segment marks it in its own region, and there only. -/
theorem marked_markRecord_of_region (s : State) (r : Record) (i e : RegionIx) (seg : Nat → Nat)
    (region : r.region = some e) (segment : ∀ n, recordSegment n r = some (seg n))
    (marks : markRecord s r =
      if (s.entry e).state = .lagging then mark s e (seg (s.entry e).sizeExp) else s) :
    ((s.entry i).state = .lagging →
      Marked s (markRecord s r) i .lagging fun k => InSegment (s.entry i).sizeExp i k r) ∧
    ((s.entry i).state ≠ .lagging → (markRecord s r).entry i = s.entry i) := by
  obtain ⟨marked, kept⟩ := marked_of_lagging s e i (seg (s.entry e).sizeExp)
  have named (k : Nat) : InSegment (s.entry i).sizeExp i k r ↔ i = e ∧ k = seg (s.entry e).sizeExp := by
    rw [InSegment, region, segment, Option.some_inj, Option.some_inj]
    exact ⟨fun ⟨same, at_⟩ => ⟨same.symm, by rw [same, at_]⟩, fun ⟨same, at_⟩ => ⟨same.symm, by rw [at_, same]⟩⟩
  rw [marks]
  refine ⟨fun here => ?_, kept⟩
  obtain ⟨state, dirty⟩ := marked here
  exact ⟨state, fun k => (dirty k).trans (or_congr_right (named k).symm)⟩

theorem marked_markRecord (s : State) (r : Record) (i : RegionIx) :
    ((s.entry i).state = .lagging →
      Marked s (markRecord s r) i .lagging fun k => InSegment (s.entry i).sizeExp i k r) ∧
    ((s.entry i).state ≠ .lagging → (markRecord s r).entry i = s.entry i) := by
  cases body : r.body with
  | write e p line m d n =>
    exact marked_markRecord_of_region s r i e (segOfLine · line) (by rw [Record.region, body])
      (fun n => by rw [recordSegment, body]) (by rw [markRecord, body])
  | block e p block b =>
    exact marked_markRecord_of_region s r i e (segOfBlock · block) (by rw [Record.region, body])
      (fun n => by rw [recordSegment, body]) (by rw [markRecord, body])
  | note tag payload =>
    have region : r.region = none := by rw [Record.region, body]
    have same : markRecord s r = s := by rw [markRecord, body]
    have outside (n k : Nat) : ¬InSegment n i k r := by
      rw [InSegment, region]
      exact fun inSegment => nomatch inSegment.1
    rw [same]
    exact ⟨fun here => ⟨here.symm ▸ rfl, fun _ => ⟨Or.inl, fun marked => marked.resolve_right (outside _ _)⟩⟩, fun _ => rfl⟩

/-! ## The conversion of records -/

/-- The region drains with the records that have gone: one of it was among them, and none is left (R12). -/
def Drains (s t : State) (gone : List Record) (e : RegionIx) : Prop :=
  (s.entry e).state = .draining ∧ (∃ r ∈ gone, r.region = some e) ∧ ∀ r ∈ heldRecords t, r.region ≠ some e

/-- From `s` to `t` the records `gone` have been converted at a loss (R37, R72). -/
structure Converted (s t : State) (gone : List Record) : Prop where
  held : (heldRecords s).Perm (gone ++ heldRecords t)
  lagging : ∀ e, (s.entry e).state = .lagging →
    Marked s t e .lagging fun k => ∃ r ∈ gone, InSegment (s.entry e).sizeExp e k r
  drained : ∀ e, Drains s t gone e → t.entry e = Entry.zero ∧ (t.cmd.pendingClose)[e] = none
  kept : ∀ e, (s.entry e).state ≠ .lagging → ¬Drains s t gone e → t.entry e = s.entry e
  closes : ∀ e, ¬Drains s t gone e → (t.cmd.pendingClose)[e] = (s.cmd.pendingClose)[e]
  buffers : ∀ b : Fin 4, (t.resync.buffers)[b] =
    if ∃ r ∈ gone, r.buffer = some b then none else (s.resync.buffers)[b]
  resync : t.resync = { s.resync with buffers := t.resync.buffers }
  reports : ∃ more, Reports s t (2 * gone.length) more ∧
    (∀ r ∈ gone, ∀ tag payload, r.body = .note tag payload → .commandDone .lost tag 7 0 0 ∈ more) ∧
    ∀ e, Drains s t gone e → .regionState .drained e .source .draining .free ∈ more ∧
      ∀ tag, (s.cmd.pendingClose)[e] = some tag → .commandDone .ok tag 5 (BitVec.ofNat 8 e.val) 0 ∈ more

/-! ### One record -/

/-- The record's mark is made, its buffer freed, and its NOTE reported as lost. -/
def recordLost (s : State) (r : Record) : State := loseNote (freeRecordBuffer (markRecord s r) r) r

section
variable (s : State) (r : Record)

theorem convertRecord_eq : convertRecord true s r = drainRegionOf (recordLost s r) r := rfl

theorem recordLost_frame : SameBut [.regions, .resync, .ev, .stats] s (recordLost s r) :=
  (((markRecord_frame s r).mono rfl).then (freeRecordBuffer_frame _ r) rfl).then (loseNote_frame _ r) rfl

theorem entry_recordLost (i : RegionIx) : (recordLost s r).entry i = (markRecord s r).entry i :=
  ((loseNote_frame _ r).entry (by decide) i).trans ((freeRecordBuffer_frame _ r).entry (by decide) i)

theorem resync_recordLost : (recordLost s r).resync = (freeRecordBuffer (markRecord s r) r).resync :=
  (loseNote_frame _ r).resync (by decide)

theorem buffers_recordLost (b : Fin 4) : ((recordLost s r).resync.buffers)[b] =
    if r.buffer = some b then none else (s.resync.buffers)[b] := by
  rw [resync_recordLost, buffers_freeRecordBuffer, (markRecord_frame s r).resync (by decide)]

/-- A NOTE is reported as lost; another record lies in a region, whose test may report two events. -/
theorem reports_recordLost : ∃ more, Reports s (recordLost s r) (if r.region = none then 1 else 0) more ∧
    ∀ tag payload, r.body = .note tag payload → .commandDone .lost tag 7 0 0 ∈ more := by
  have freed := (Reports.of_frame (markRecord_frame s r) (by decide) (by decide)).then (freeRecordBuffer_frame _ r)
    (by decide) (by decide)
  unfold recordLost loseNote
  split
  next tag payload body =>
    have region : r.region = none := by rw [Record.region, body]
    rw [if_pos region]
    refine ⟨_, freed.trans (reports_done _ .lost tag codeSendNote 0), fun tag' payload' body' => ?_⟩
    obtain ⟨rfl, rfl⟩ := RecordBody.note.inj (body.symm.trans body')
    exact List.mem_singleton.mpr rfl
  next body => exact ⟨[], freed.mono (Nat.zero_le _), fun tag payload note => by simp [body] at note⟩
  next body => exact ⟨[], freed.mono (Nat.zero_le _), fun tag payload note => by simp [body] at note⟩

theorem drainRegionOf_of_region {e : RegionIx} (h : r.region = some e) : drainRegionOf s r = drainEntry s e := by
  rw [drainRegionOf, h]

theorem drainRegionOf_of_none (h : r.region = none) : drainRegionOf s r = s := by
  rw [drainRegionOf, h]

theorem entry_drainRegionOf (i : RegionIx) : (drainRegionOf s r).entry i =
    if r.region = some i ∧ isDrained s i = true then Entry.zero else s.entry i := by
  cases region : r.region with
  | none => rw [drainRegionOf_of_none s r region, if_neg (by simp)]
  | some e =>
    rw [drainRegionOf_of_region s r region, entry_drainEntry]
    by_cases same : i = e
    · simp [same]
    · simp [same, Ne.symm same]

theorem pendingClose_drainRegionOf (i : RegionIx) : ((drainRegionOf s r).cmd.pendingClose)[i] =
    if r.region = some i ∧ isDrained s i = true then none else (s.cmd.pendingClose)[i] := by
  cases region : r.region with
  | none => rw [drainRegionOf_of_none s r region, if_neg (by simp)]
  | some e =>
    rw [drainRegionOf_of_region s r region, pendingClose_drainEntry]
    by_cases same : i = e
    · simp [same]
    · simp [same, Ne.symm same]

theorem reports_drainRegionOf : ∃ more, Reports s (drainRegionOf s r) (if r.region = none then 0 else 2) more ∧
    ∀ e, r.region = some e → isDrained s e = true → .regionState .drained e .source .draining .free ∈ more ∧
      ∀ tag, (s.cmd.pendingClose)[e] = some tag → .commandDone .ok tag 5 (BitVec.ofNat 8 e.val) 0 ∈ more := by
  cases region : r.region with
  | none =>
    rw [drainRegionOf_of_none s r region]
    exact ⟨[], .quiet rfl rfl, fun e h => by cases h⟩
  | some e =>
    rw [drainRegionOf_of_region s r region]
    obtain ⟨more, told, all⟩ := reports_drainEntry s e
    refine ⟨more, told, fun i same => ?_⟩
    obtain rfl : e = i := Option.some.inj same
    exact all

end

section
variable {s s' : State} {r : Record}

/-- The record drains its region where the test of R12 passes behind it. -/
theorem drains_iff (same : SameBut [.capture, .tx, .mem] s s') (e : RegionIx) :
    Drains s (convertRecord true s' r) [r] e ↔ r.region = some e ∧ isDrained (recordLost s' r) e = true := by
  have entry : s'.entry e = s.entry e := same.entry (by decide) e
  have state : ((recordLost s' r).entry e).state = .draining ↔ (s.entry e).state = .draining := by
    obtain ⟨marked, kept⟩ := marked_markRecord s' r e
    rw [entry_recordLost, ← entry]
    by_cases lagging : (s'.entry e).state = .lagging
    · rw [(marked lagging).1, lagging]
    · rw [kept lagging]
  have held : heldRecords (convertRecord true s' r) = heldRecords (recordLost s' r) :=
    (drainRegionOf_frame (recordLost s' r) r).heldRecords (by decide) (by decide)
  simp only [Drains, isDrained_iff, state, held, List.mem_singleton, exists_eq_left]
  exact and_left_comm

/-- The conversion of one record, which has left its queue or the replay list. -/
theorem converted_one (held : (heldRecords s).Perm (r :: heldRecords s')) (same : SameBut [.capture, .tx, .mem] s s') :
    Converted s (convertRecord true s' r) [r] := by
  have lost := recordLost_frame s' r
  have drain := drainRegionOf_frame (recordLost s' r) r
  have entry (e : RegionIx) : s'.entry e = s.entry e := same.entry (by decide) e
  have drains := drains_iff (r := r) same
  have converted : convertRecord true s' r = drainRegionOf (recordLost s' r) r := rfl
  have heldNow : heldRecords (convertRecord true s' r) = heldRecords s' :=
    (drain.heldRecords (by decide) (by decide)).trans (lost.heldRecords (by decide) (by decide))
  have resync : (convertRecord true s' r).resync = (recordLost s' r).resync := drain.resync (by decide)
  refine ⟨heldNow ▸ held, fun e lagging => ?_, fun e h => ?_, fun e notLagging h => ?_, fun e h => ?_, fun b => ?_, ?_, ?_⟩
  · have busy : ¬(r.region = some e ∧ isDrained (recordLost s' r) e = true) := fun h => by
      have draining := ((drains e).mpr h).1
      simp [lagging] at draining
    have marked := (marked_markRecord s' r e).1 ((congrArg Entry.state (entry e)).trans lagging)
    unfold Marked at marked ⊢
    rw [converted, entry_drainRegionOf, if_neg busy, entry_recordLost]
    rw [entry e] at marked
    simpa using marked
  · rw [drains] at h
    rw [converted, entry_drainRegionOf, pendingClose_drainRegionOf, if_pos h, if_pos h]
    exact ⟨rfl, rfl⟩
  · rw [drains] at h
    rw [converted, entry_drainRegionOf, if_neg h, entry_recordLost,
      (marked_markRecord s' r e).2 fun lagging => notLagging ((congrArg Entry.state (entry e)).symm.trans lagging), entry]
  · rw [drains] at h
    rw [converted, pendingClose_drainRegionOf, if_neg h, lost.cmd (by decide), same.cmd (by decide)]
  · rw [resync, buffers_recordLost, same.resync (by decide)]
    simp
  · rw [resync, resync_recordLost, resync_freeRecordBuffer, (markRecord_frame s' r).resync (by decide),
      same.resync (by decide)]
  · obtain ⟨first, told, note⟩ := reports_recordLost s' r
    obtain ⟨second, toldThen, drained⟩ := reports_drainRegionOf (recordLost s' r) r
    have all := ((Reports.of_frame same (by decide) (by decide)).trans told).trans toldThen
    refine ⟨_, all.mono ?_, fun x mem tag payload body => ?_, fun e h => ?_⟩
    · split <;> simp
    · obtain rfl := List.mem_singleton.mp mem
      exact List.mem_append_left _ (note tag payload body)
    · obtain ⟨region, drained'⟩ := (drains e).mp h
      obtain ⟨freed, closed⟩ := drained e region drained'
      refine ⟨List.mem_append_right _ freed, fun tag pending => List.mem_append_right _ (closed tag ?_)⟩
      rwa [lost.cmd (by decide), same.cmd (by decide)]

end

end Sys2Proof.Machine
end

section
/-! PROOFS. The teardown of a session (R10, R12, R37, R55, R72, R92, R94): runs of conversions, what is left of the regions,
the block buffers and what is reported. -/

namespace Sys2Proof.Machine

/-! ## Runs of conversions -/

theorem Converted.still {s t : State} (held : heldRecords t = heldRecords s) (same : SameBut [.capture, .tx, .mem] s t) :
    Converted s t [] := by
  have none (e : RegionIx) : ¬Drains s t [] e := fun ⟨_, ⟨r, mem, _⟩, _⟩ => by cases mem
  refine ⟨.of_eq held.symm, fun e lagging => ⟨?_, fun k => ?_⟩, fun e h => absurd h (none e),
    fun e _ _ => same.entry (by decide) e, fun e _ => by rw [same.cmd (by decide)], fun b => ?_, ?_,
    [], .of_frame same (by decide) (by decide), fun r mem => (by cases mem), fun e h => absurd h (none e)⟩
  · rw [same.entry (by decide), lagging.symm]
  · rw [same.entry (by decide)]
    simp
  · rw [same.resync (by decide)]
    simp
  · rw [same.resync (by decide)]

section
variable {s t u : State} {gone later : List Record}

/-- A region drains over two runs where it drains in the first or in the second. -/
theorem drains_append_iff (h : Converted s t gone) (g : Converted t u later) (e : RegionIx) :
    Drains s u (gone ++ later) e ↔ Drains s t gone e ∨ Drains t u later e := by
  have mem_held (r : Record) : r ∈ heldRecords t ↔ r ∈ later ∨ r ∈ heldRecords u := by
    rw [g.held.mem_iff, List.mem_append]
  constructor
  · rintro ⟨draining, ⟨r, mem, region⟩, alone⟩
    by_cases first : Drains s t gone e
    · exact .inl first
    have same := h.kept e (by simp [draining]) first
    refine .inr ⟨by rw [same, draining], ?_, alone⟩
    obtain here | there := List.mem_append.mp mem
    · by_contra noLater
      refine first ⟨draining, ⟨r, here, region⟩, fun x held ofRegion => ?_⟩
      obtain inLater | inHeld := (mem_held x).mp held
      · exact noLater ⟨x, inLater, ofRegion⟩
      · exact alone x inHeld ofRegion
    · exact ⟨r, there, region⟩
  · rintro (⟨draining, ⟨r, mem, region⟩, alone⟩ | ⟨draining, ⟨r, mem, region⟩, alone⟩)
    · exact ⟨draining, ⟨r, List.mem_append_left _ mem, region⟩, fun x held => alone x ((mem_held x).mpr (.inr held))⟩
    · have state : (s.entry e).state = .draining := by
        by_cases lagging : (s.entry e).state = .lagging
        · rw [(h.lagging e lagging).1] at draining
          cases draining
        by_cases first : Drains s t gone e
        · exact first.1
        · rwa [h.kept e lagging first] at draining
      exact ⟨state, ⟨r, List.mem_append_right _ mem, region⟩, alone⟩

theorem Converted.trans (h : Converted s t gone) (g : Converted t u later) : Converted s u (gone ++ later) := by
  have drains := drains_append_iff h g
  have notBoth {e : RegionIx} (first : Drains s t gone e) : ¬Drains t u later e := fun second => by
    have state := second.1
    rw [(h.drained e first).1] at state
    cases state
  refine ⟨?_, fun e lagging => ?_, fun e all => ?_, fun e notLagging none => ?_, fun e none => ?_, fun b => ?_, ?_, ?_⟩
  · rw [List.append_assoc]
    exact h.held.trans (g.held.append_left gone)
  · obtain ⟨first, marked⟩ := h.lagging e lagging
    have laggingStill : (t.entry e).state = .lagging := by rw [first]
    obtain ⟨second, markedThen⟩ := g.lagging e laggingStill
    refine ⟨?_, fun k => ?_⟩
    · rw [second, first]
    · have size : (t.entry e).sizeExp = (s.entry e).sizeExp := by rw [first]
      rw [markedThen, marked, size, or_assoc]
      simp only [List.mem_append, or_and_right, exists_or]
  · obtain first | second := (drains e).mp all
    · obtain ⟨zero, closed⟩ := h.drained e first
      have notLagging : (t.entry e).state ≠ .lagging := by
        rw [zero]
        decide
      exact ⟨(g.kept e notLagging (notBoth first)).trans zero, (g.closes e (notBoth first)).trans closed⟩
    · exact g.drained e second
  · rw [drains, not_or] at none
    have same := h.kept e notLagging none.1
    exact (g.kept e (by rwa [same]) none.2).trans same
  · rw [drains, not_or] at none
    exact (g.closes e none.2).trans (h.closes e none.1)
  · rw [g.buffers, h.buffers]
    simp only [List.mem_append, or_and_right, exists_or]
    by_cases here : ∃ r ∈ gone, r.buffer = some b <;> by_cases there : ∃ r ∈ later, r.buffer = some b <;> simp [here, there]
  · rw [g.resync, h.resync]
  · obtain ⟨first, told, notes, freed⟩ := h.reports
    obtain ⟨second, toldThen, notesThen, freedThen⟩ := g.reports
    refine ⟨first ++ second, (told.trans toldThen).mono (Nat.le_of_eq ?_), fun r mem tag payload body => ?_, fun e all => ?_⟩
    · rw [List.length_append, Nat.mul_add]
    · obtain here | there := List.mem_append.mp mem
      · exact List.mem_append_left _ (notes r here tag payload body)
      · exact List.mem_append_right _ (notesThen r there tag payload body)
    · by_cases here : Drains s t gone e
      · obtain ⟨event, closed⟩ := freed e here
        exact ⟨List.mem_append_left _ event, fun tag pending => List.mem_append_left _ (closed tag pending)⟩
      · obtain ⟨event, closed⟩ := freedThen e (((drains e).mp all).resolve_left here)
        refine ⟨List.mem_append_right _ event, fun tag pending => List.mem_append_right _ (closed tag ?_)⟩
        rwa [h.closes e here]

end

theorem converted_convertReplay : ∀ (rs : List Replayed) (s : State), s.tx.replay = rs →
    Converted s (convertReplay true rs s) (rs.map Replayed.record)
  | [], s, _ => .still rfl (.refl _ s)
  | r :: rs, s, replay => by
    have held : (heldRecords s).Perm (r.record :: heldRecords (s.modTx fun t => { t with replay := rs })) := by
      simp only [heldRecords, State.modTx_capture, State.modTx_tx, replay, List.map_cons]
      exact List.perm_middle
    have one := converted_one held ((modTx_frame s _).mono rfl)
    refine one.trans (converted_convertReplay rs _ ?_)
    rw [(convertRecord_frame true _ r.record).tx (by decide)]
    rfl

theorem converted_convertQueued : ∀ (rs : List (QueueClass × Record)) (s : State),
    (∀ q, s.capture.queueOf q = queued q rs) → Converted s (convertQueued true rs s) (rs.map Prod.snd)
  | [], s, _ => .still rfl (.refl _ s)
  | (q, r) :: rs, s, queues => by
    have head : s.capture.queueOf q = r :: queued q rs := by simpa [queued] using queues q
    have pop : heldRecords (popQueue s q) = heldRecords (s.modCapture fun c => c.setQueue q (c.queueOf q).tail) :=
      (slotFreed_frame _ q).heldRecords (by decide) (by decide)
    have free : heldRecords (freeRecordBuffer (s.modCapture fun c => c.setQueue q (c.queueOf q).tail) r) =
        heldRecords (s.modCapture fun c => c.setQueue q (c.queueOf q).tail) :=
      (freeRecordBuffer_frame _ r).heldRecords (by decide) (by decide)
    have held : (heldRecords s).Perm (r :: heldRecords (popQueue s q)) := by
      have gone := (drops_head head).held
      rwa [free, ← pop] at gone
    refine (converted_one held ((popQueue_frame s q).mono rfl)).trans (converted_convertQueued rs _ fun q' => ?_)
    rw [(convertRecord_frame true _ r).capture (by decide), capture_popQueue, queueOf_setQueue, head, queues q']
    by_cases same : q' = q
    · simp [same]
    · simp [queued, same, Ne.symm same]

theorem converted_convertQueues (s : State) : ∃ gone, Converted s (convertQueues true s) gone := by
  obtain ⟨sync, async⟩ := queued_mergeByCap (s.capture.sync.length + s.capture.async.length + 1) s.capture.sync
    s.capture.async (Nat.lt_succ_self _)
  refine ⟨_, converted_convertQueued _ s fun q => ?_⟩
  cases q
  · exact sync.symm
  · exact async.symm

theorem converted_replayList {s t : State} (held : heldRecords t = heldRecords s)
    (same : SameBut [.capture, .tx, .mem] s t) : ∃ gone, Converted s (convertReplay true t.tx.replay t) gone :=
  ⟨_, (Converted.still held same).trans (converted_convertReplay _ t rfl)⟩

theorem converted_lossTransmitter (s : State) (c : LossCause) : ∃ gone, Converted s (lossTransmitter s c) gone := by
  unfold lossTransmitter
  dsimp only
  split
  · exact converted_replayList rfl ((modTx_frame s _).mono rfl)
  · exact converted_replayList rfl (((clearControl_frame s).mono rfl).then (modTx_frame _ _) rfl)

/-- The records of a session that is lost are converted, and none is left. -/
theorem converted_lossRecords (s : State) (c : LossCause) :
    ∃ gone, Converted s (convertQueues true (lossTransmitter s c)) gone ∧ (heldRecords s).Perm gone ∧
      heldRecords (convertQueues true (lossTransmitter s c)) = [] := by
  obtain ⟨replayed, first⟩ := converted_lossTransmitter s c
  obtain ⟨queued, second⟩ := converted_convertQueues (lossTransmitter s c)
  have all := first.trans second
  have empty : heldRecords (convertQueues true (lossTransmitter s c)) = [] := by
    rw [heldRecords, capture_convertQueues, (convertQueues_frame true _).tx (by decide), tx_lossTransmitter]
    rfl
  have held := all.held
  rw [empty, List.append_nil] at held
  exact ⟨_, all, held, empty⟩

/-! ## The end of what is under way (R92, R94, R96) -/

section
variable (s : State)

/-- Where no block is in DISCARDING, nothing is left to release. -/
theorem releaseDiscarding_of_not {t : State} (h : t.resync.block ≠ .discarding) : releaseDiscarding t = t := if_neg h

theorem resyncLeavesUp_of_segment {sg : Segment} (segment : s.resync.segment = some sg) :
    resyncLeavesUp s = dropSegment (mark (releaseBlock s) sg.region sg.index) sg := by
  have abandoned : abandonSegment s true = dropSegment (mark (releaseBlock s) sg.region sg.index) sg := by
    rw [abandonSegment, segment]
    rfl
  rw [resyncLeavesUp, abandoned, releaseDiscarding_of_not]
  rw [dropSegment_block, (mark_frame _ _ _).resync (by decide), block_releaseBlock]
  decide

theorem resyncLeavesUp_of_none (none : s.resync.segment = none) : resyncLeavesUp s = releaseDiscarding s := by
  rw [resyncLeavesUp, abandonSegment, none]

theorem resync_resyncLeavesUp_of_underWay (h : UnderWay s) :
    (resyncLeavesUp s).resync = { (releaseBlock s).resync with segment := none } := by
  cases segment : s.resync.segment with
  | some sg =>
    rw [resyncLeavesUp_of_segment s segment, resync_dropSegment, (mark_frame _ _ _).resync (by decide)]
  | none =>
    have discarding : s.resync.block = .discarding := h.resolve_left fun h => h segment
    have gone : (releaseBlock s).resync.segment = none := (segment_releaseBlock s).trans segment
    rw [resyncLeavesUp_of_none s segment, releaseDiscarding, if_pos discarding, ← gone]

theorem resyncLeavesUp_of_idle (h : ¬UnderWay s) : resyncLeavesUp s = s := by
  obtain ⟨segment, block⟩ := not_or.mp h
  rw [resyncLeavesUp_of_none s (not_not.mp segment), releaseDiscarding_of_not block]

/-- What the end of a block frees. -/
theorem BuffersFreed.of_release {s t : State} {ends : Prop} (ended : ends)
    (resync : t.resync = { (releaseBlock s).resync with segment := none }) : BuffersFreed s t [] ends := by
  refine ⟨fun b => ?_, fun _ => ?_, fun stays => absurd ended stays⟩
  · rw [resync]
    cases reserved : s.resync.reserved with
    | none =>
      rw [resync_releaseBlock_of_none reserved]
      simp
    | some x =>
      obtain ⟨c, q⟩ := x
      rw [resync_releaseBlock_of_some reserved]
      have set := getElem_setAt s.resync.buffers c b none
      refine ⟨fun freed => set.trans (if_pos ?_), fun kept => set.trans (if_neg fun same => kept ?_)⟩
      · simpa [ended, eq_comm] using freed
      · exact .inr ⟨ended, q, by rw [same]⟩
  · rw [resync]
    cases reserved : s.resync.reserved with
    | none =>
      rw [resync_releaseBlock_of_none reserved]
      simp [reserved]
    | some x =>
      obtain ⟨c, q⟩ := x
      rw [resync_releaseBlock_of_some reserved]
      simp

theorem BuffersFreed.of_same {s t : State} {ends : Prop} (stays : ¬ends) (resync : t.resync = s.resync) :
    BuffersFreed s t [] ends := by
  unfold BuffersFreed
  rw [resync]
  simp [stays]

theorem buffersFreed_resyncLeavesUp : BuffersFreed s (resyncLeavesUp s) [] (UnderWay s) := by
  by_cases ends : UnderWay s
  · exact .of_release ends (resync_resyncLeavesUp_of_underWay s ends)
  · exact .of_same ends (congrArg State.resync (resyncLeavesUp_of_idle s ends))

theorem turn_resyncLeavesUp : (resyncLeavesUp s).resync.turn = s.resync.turn := by
  by_cases ends : UnderWay s
  · rw [resync_resyncLeavesUp_of_underWay s ends]
    cases reserved : s.resync.reserved with
    | none => rw [resync_releaseBlock_of_none reserved]
    | some x => rw [resync_releaseBlock_of_some (b := x.1) (q := x.2) reserved]
  · rw [resyncLeavesUp_of_idle s ends]

theorem entry_releaseBlock (e : RegionIx) : (releaseBlock s).entry e = s.entry e :=
  (releaseBlock_frame s).entry (by decide) e

/-- The segment in progress is marked where its region takes marks. -/
theorem marked_resyncLeavesUp (e : RegionIx) :
    (markable (s.entry e).state = true → Marked s (resyncLeavesUp s) e (s.entry e).state (InProgress s e)) ∧
    (markable (s.entry e).state = false → (resyncLeavesUp s).entry e = s.entry e) := by
  cases segment : s.resync.segment with
  | none =>
    have same : (resyncLeavesUp s).entry e = s.entry e := by
      rw [resyncLeavesUp_of_none s segment]
      exact (releaseDiscarding_frame s).entry (by decide) e
    refine ⟨fun _ => ⟨by rw [same], fun k => ?_⟩, fun _ => same⟩
    rw [same]
    simp [InProgress, segment]
  | some sg =>
    have same : (resyncLeavesUp s).entry e = (mark (releaseBlock s) sg.region sg.index).entry e := by
      rw [resyncLeavesUp_of_segment s segment]
      exact (dropSegment_frame _ _).entry (by decide) e
    by_cases here : e = sg.region
    · subst here
      refine ⟨fun markable => ⟨?_, fun k => ?_⟩, fun unmarked => ?_⟩
      · have marked := (entry_mark (releaseBlock s) sg.region sg.region sg.index).1
        rw [entry_releaseBlock] at marked
        rw [same]
        exact marked
      · rw [same, mem_dirty_mark _ _ _ _ (by rwa [entry_releaseBlock]), entry_releaseBlock, or_comm]
        simp [InProgress, segment, eq_comm]
      · rw [same, mark, if_neg (by simp [entry_releaseBlock, unmarked]), entry_releaseBlock]
    · have other : (resyncLeavesUp s).entry e = s.entry e := by
        rw [same, (entry_mark _ _ e _).2 here, entry_releaseBlock]
      refine ⟨fun _ => ⟨by rw [other], fun k => ?_⟩, fun _ => other⟩
      rw [other]
      simp [InProgress, segment, Ne.symm here]

end

end Sys2Proof.Machine
end

section
/-! PROOFS. What the teardown of a session leaves and reports (R55), and the losses that bring it about (R49, R52, R53,
R54). -/

namespace Sys2Proof.Machine

/-! ## Marks in sequence -/

section
variable {s t u : State} {e : RegionIx} {state state' : RegionState} {p q : Nat → Prop}

theorem Marked.trans (h : Marked s t e state p) (g : Marked t u e state' q) :
    Marked s u e state' (fun k => p k ∨ q k) := by
  obtain ⟨first, marked⟩ := h
  obtain ⟨second, markedThen⟩ := g
  refine ⟨by rw [second, first], fun k => ?_⟩
  rw [markedThen, marked, or_assoc]

theorem Marked.congr (h : Marked s t e state p) (same : ∀ k, p k ↔ q k) : Marked s t e state q :=
  ⟨h.1, fun k => (h.2 k).trans (or_congr_right (same k))⟩

/-- A change of the state alone marks nothing. -/
theorem Marked.of_entry (h : t.entry e = { s.entry e with state := state }) :
    Marked s t e state (fun _ => False) := by
  refine ⟨by rw [h], fun k => ?_⟩
  rw [h, or_false]

theorem Marked.of_same (h : t.entry e = s.entry e) (is : (s.entry e).state = state) :
    Marked s t e state (fun _ => False) := .of_entry (by rw [h, ← is])

end

/-! ## The steps of a teardown (R55) -/

/-- The state of a lost session once its records are converted. -/
def lossRecords (s : State) (c : LossCause) : State := convertQueues true (lossTransmitter (lossState s) c)

/-- The state of a lost session once what was under way has ended. -/
def lossWork (s : State) (c : LossCause) : State :=
  if s.session.state = .up then resyncLeavesUp (lossRecords s c) else lossRecords s c

section
variable (s : State) (c : LossCause) (part : BitVec 32) (e : RegionIx)

theorem lossWork_frame : SameBut [.session, .tx, .rx, .fences, .ev, .stats] (lossWork s c) (loseSession s c part) := by
  have body := (lossBody_frame s c part).mono (ps := [.session, .tx, .rx, .fences, .ev, .stats]) rfl
  rw [loseSession_eq]
  split
  · exact body.then (beginCalling_frame _) rfl
  · exact body

theorem entry_lossState : (lossState s).entry e =
    if s.session.state = .up ∧ (s.entry e).state = .mirrored then { s.entry e with state := .lagging }
    else s.entry e := by
  unfold lossState
  by_cases up : s.session.state = .up
  · have same : (enterCalling s).entry e = s.entry e := rfl
    rw [if_pos up, entry_sweep, same]
    simp only [up, true_and]
  · rw [if_neg up, if_neg fun h => up h.1]
    rfl

theorem heldRecords_lossState : heldRecords (lossState s) = heldRecords s :=
  (lossState_frame s).heldRecords (by decide) (by decide)

/-- The records that the session held are converted. -/
theorem converted_lossState : ∃ gone, Converted (lossState s) (lossRecords s c) gone ∧
    (∀ r, r ∈ gone ↔ r ∈ heldRecords s) ∧ gone.length = (heldRecords s).length ∧ heldRecords (lossRecords s c) = [] := by
  obtain ⟨gone, converted, held, empty⟩ := converted_lossRecords (lossState s) c
  rw [heldRecords_lossState] at held
  exact ⟨gone, converted, fun r => held.mem_iff.symm, held.length_eq.symm, empty⟩

theorem resync_lossRecords : (lossRecords s c).resync =
    { s.resync with buffers := (lossRecords s c).resync.buffers } := by
  obtain ⟨gone, converted, _⟩ := converted_lossState s c
  rw [converted.resync, (lossState_frame s).resync (by decide)]

theorem inProgress_lossRecords (k : Nat) : InProgress (lossRecords s c) e k ↔ InProgress s e k := by
  rw [InProgress, InProgress, resync_lossRecords]

theorem underWay_lossRecords : UnderWay (lossRecords s c) ↔ UnderWay s := by
  rw [UnderWay, UnderWay, resync_lossRecords]

variable {s c e}

theorem marked_lossWork (markable : Machine.markable ((lossRecords s c).entry e).state = true) :
    Marked (lossRecords s c) (lossWork s c) e ((lossRecords s c).entry e).state
      (fun k => s.session.state = .up ∧ InProgress s e k) := by
  unfold lossWork
  by_cases up : s.session.state = .up
  · rw [if_pos up]
    refine ((marked_resyncLeavesUp (lossRecords s c) e).1 markable).congr fun k => ?_
    rw [inProgress_lossRecords]
    simp [up]
  · rw [if_neg up]
    exact (Marked.of_same rfl rfl).congr fun k => by simp [up]

theorem entry_lossWork_of_unmarked (unmarked : markable ((lossRecords s c).entry e).state = false) :
    (lossWork s c).entry e = (lossRecords s c).entry e := by
  unfold lossWork
  split
  · exact (marked_resyncLeavesUp (lossRecords s c) e).2 unmarked
  · rfl

variable (s c)

/-! ## What is left of the regions -/

/-- The records of a LAGGING region, and of one that the sweep makes LAGGING, become marks. -/
theorem marked_of_lossState (lagging : ((lossState s).entry e).state = .lagging)
    (swept : Marked s (lossState s) e .lagging fun _ => False) : Marked s (lossWork s c) e .lagging
      (fun k => HoldsIn s e k ∨ (s.session.state = .up ∧ InProgress s e k)) := by
  obtain ⟨gone, converted, mem, _, _⟩ := converted_lossState s c
  have records := converted.lagging e lagging
  have stays : ((lossRecords s c).entry e).state = .lagging := by rw [records.1]
  have work := marked_lossWork (s := s) (c := c) (e := e) (by rw [stays]; rfl)
  rw [stays] at work
  have size : ((lossState s).entry e).sizeExp = (s.entry e).sizeExp := by rw [swept.1]
  refine ((swept.trans records).trans work).congr fun k => ?_
  rw [false_or, size]
  simp only [mem]
  rfl

theorem pendingClose_loseSession : (loseSession s c part).cmd.pendingClose = (lossRecords s c).cmd.pendingClose := by
  have work : (lossWork s c).cmd = (lossRecords s c).cmd := by
    unfold lossWork
    split
    · exact (resyncLeavesUp_frame _).cmd (by decide)
    · rfl
  rw [(lossWork_frame s c part).cmd (by decide), work]

theorem Marked.frame {ps : List Part} {s t u : State} {state : RegionState} {p : Nat → Prop} (h : Marked s t e state p)
    (same : SameBut ps t u) (regions : Part.regions ∉ ps) : Marked s u e state p := by
  unfold Marked at h ⊢
  rwa [same.entry regions]

/-- What the teardown leaves of a region, by its state. -/
theorem regionTornDown_loseSession : RegionTornDown s (loseSession s c part) e := by
  obtain ⟨gone, converted, mem, _, empty⟩ := converted_lossState s c
  have last := lossWork_frame s c part
  have entry : (loseSession s c part).entry e = (lossWork s c).entry e := last.entry (by decide) e
  have lossEntry := entry_lossState s e
  have drains : Drains (lossState s) (lossRecords s c) gone e ↔ (s.entry e).state = .draining ∧ Holds s e := by
    unfold Drains Holds
    rw [empty, lossEntry]
    simp only [mem, List.not_mem_nil, false_implies, implies_true, and_true]
    refine and_congr_left fun _ => ?_
    split
    next swept => simp [swept.2]
    next => rfl
  have closes (stays : ¬Drains (lossState s) (lossRecords s c) gone e) :
      ((loseSession s c part).cmd.pendingClose)[e] = (s.cmd.pendingClose)[e] := by
    rw [pendingClose_loseSession, converted.closes e stays, (lossState_frame s).cmd (by decide)]
  have same (notSwept : ¬(s.session.state = .up ∧ (s.entry e).state = .mirrored)) :
      (lossState s).entry e = s.entry e := by rw [lossEntry, if_neg notSwept]
  have kept (notSwept : ¬(s.session.state = .up ∧ (s.entry e).state = .mirrored))
      (notLagging : (s.entry e).state ≠ .lagging) (stays : ¬Drains (lossState s) (lossRecords s c) gone e) :
      (lossRecords s c).entry e = s.entry e :=
    (converted.kept e (by rwa [same notSwept]) stays).trans (same notSwept)
  have still (notSwept : ¬(s.session.state = .up ∧ (s.entry e).state = .mirrored))
      (notLagging : (s.entry e).state ≠ .lagging) (stays : ¬Drains (lossState s) (lossRecords s c) gone e)
      (unmarked : markable (s.entry e).state = false) : (loseSession s c part).entry e = s.entry e ∧
        ((loseSession s c part).cmd.pendingClose)[e] = (s.cmd.pendingClose)[e] := by
    have records := kept notSwept notLagging stays
    rw [entry, entry_lossWork_of_unmarked (by rwa [records]), records]
    exact ⟨rfl, closes stays⟩
  unfold RegionTornDown
  cases state : (s.entry e).state with
  | lagging =>
    have unswept := same (by simp [state])
    have lagging : ((lossState s).entry e).state = .lagging := by rw [unswept, state]
    exact ⟨(marked_of_lossState s c lagging (.of_same unswept state)).frame last (by decide),
      closes fun h => by simp [state] at drains; exact drains h⟩
  | mirrored =>
    have notDrains : ¬Drains (lossState s) (lossRecords s c) gone e := fun h => by
      have draining := (drains.mp h).1
      simp [state] at draining
    refine ⟨fun up => ⟨?_, closes notDrains⟩, fun down => ?_⟩
    · have swept : (lossState s).entry e = { s.entry e with state := .lagging } := by
        rw [lossEntry, if_pos ⟨up, state⟩]
      have marked := marked_of_lossState s c (e := e) (by rw [swept]) (.of_entry swept)
      exact (marked.congr fun k => by simp [up]).frame last (by decide)
    · have records := kept (fun h => down h.1) (by simp [state]) notDrains
      rw [entry, lossWork, if_neg down, records]
      exact ⟨rfl, closes notDrains⟩
  | refused =>
    have notDrains : ¬Drains (lossState s) (lossRecords s c) gone e := fun h => by
      have draining := (drains.mp h).1
      simp [state] at draining
    have records := kept (by simp [state]) (by simp [state]) notDrains
    have work := marked_lossWork (s := s) (c := c) (e := e) (by rw [records, state]; rfl)
    rw [records, state] at work
    refine ⟨(((Marked.of_same records state).trans work).congr fun k => ?_).frame last (by decide), closes notDrains⟩
    rw [false_or]
  | draining =>
    refine ⟨fun holds => ?_, fun none => ?_⟩
    · have drained := drains.mpr ⟨state, holds⟩
      obtain ⟨zero, closed⟩ := converted.drained e drained
      rw [entry, entry_lossWork_of_unmarked (by rw [zero]; rfl), zero, pendingClose_loseSession, closed]
      exact ⟨rfl, rfl⟩
    · exact still (by simp [state]) (by simp [state]) (fun h => none (drains.mp h).2) (by rw [state]; rfl)
  | free | accepting | failed | releasing =>
    exact still (by simp [state]) (by simp [state]) (fun h => by simp [state] at drains; exact drains h)
      (by rw [state]; rfl)

/-! ## What is left of the block buffers -/

/-- The buffers of records that have gone are freed before those of the block under way. -/
theorem BuffersFreed.after {s t u : State} {records : List Record} {ends : Prop}
    (resync : t.resync = { s.resync with buffers := t.resync.buffers })
    (freed : ∀ b : Fin 4, (t.resync.buffers)[b] = if ∃ r ∈ records, r.buffer = some b then none else (s.resync.buffers)[b])
    (h : BuffersFreed t u [] ends) : BuffersFreed s u records ends := by
  obtain ⟨buffers, gone, kept⟩ := h
  rw [resync] at gone kept
  have reserved : t.resync.reserved = s.resync.reserved := by rw [resync]
  refine ⟨fun b => ⟨fun free => ?_, fun held => ?_⟩, gone, kept⟩
  · by_cases block : ends ∧ ∃ q, s.resync.reserved = some (b, q)
    · exact (buffers b).1 (.inr (by rwa [reserved]))
    · have own : ∃ r ∈ records, r.buffer = some b := free.resolve_right block
      rw [(buffers b).2 (by rw [reserved]; simpa using block), freed, if_pos own]
  · obtain ⟨records', block⟩ := not_or.mp held
    rw [(buffers b).2 (by rw [reserved]; simpa using block), freed, if_neg records']

theorem buffersFreed_loseSession :
    BuffersFreed s (loseSession s c part) (heldRecords s) (s.session.state = .up ∧ UnderWay s) := by
  obtain ⟨gone, converted, mem, _, _⟩ := converted_lossState s c
  have work : BuffersFreed (lossRecords s c) (lossWork s c) [] (s.session.state = .up ∧ UnderWay s) := by
    unfold lossWork
    by_cases up : s.session.state = .up
    · rw [if_pos up]
      have freed := buffersFreed_resyncLeavesUp (lossRecords s c)
      rw [underWay_lossRecords] at freed
      simpa [up] using freed
    · rw [if_neg up]
      simp [BuffersFreed, up]
  have last : (loseSession s c part).resync = (lossWork s c).resync := (lossWork_frame s c part).resync (by decide)
  have all := BuffersFreed.after (s := s) (records := heldRecords s) (resync_lossRecords s c) (fun b => by
    rw [converted.buffers b, (lossState_frame s).resync (by decide)]
    simp only [mem]) work
  unfold BuffersFreed at all ⊢
  rwa [last]

theorem turn_loseSession : (loseSession s c part).resync.turn = s.resync.turn := by
  rw [(lossWork_frame s c part).resync (by decide), lossWork]
  split
  · rw [turn_resyncLeavesUp, resync_lossRecords]
  · rw [resync_lossRecords]

/-! ## What is reported -/

/-- The conversions and the end of what was under way leave the session and the receiver to the other steps. -/
theorem lossWork_changes : SameBut [.capture, .mem, .tx, .regions, .resync, .fences, .cmd, .ev, .stats]
    (lossState s) (lossWork s c) := by
  have records : SameBut [.capture, .mem, .tx, .regions, .resync, .fences, .cmd, .ev, .stats]
      (lossState s) (lossRecords s c) :=
    ((lossTransmitter_frame _ c).mono rfl).then (convertQueues_frame true _) rfl
  unfold lossWork
  split
  · exact records.then (resyncLeavesUp_frame _) rfl
  · exact records

theorem rx_lossWork : (lossWork s c).rx = s.rx :=
  ((lossWork_changes s c).rx (by decide)).trans ((lossState_frame s).rx (by decide))

theorem highest_lossWork : (lossWork s c).tx.highest = s.tx.highest := by
  have body : (lossBody s c 0).tx = (lossWork s c).tx := (lossBody_frame s c 0).tx (by decide)
  rw [← body, tx_lossBody]

theorem pendingDisconnect_lossWork :
    (lossWork s c).session.pendingDisconnect = s.session.pendingDisconnect := by
  rw [(lossWork_changes s c).session (by decide), session_lossState]
  split <;> rfl

/-- The state once the fences are failed and SESSION_DOWN is requested, with the DISCONNECT to complete. -/
def sessionReported (s : State) (c : LossCause) (part : BitVec 32) : State :=
  emit ((failAllFences (lossWork s c)).modRx fun r => { r with ackTimer := none })
    (.sessionDown c s.session.epoch s.tx.highest (if s.rx.accepted = true then seqPred s.rx.expected else 0) part)

theorem lossBody_eq : lossBody s c part = completeDisconnect (sessionReported s c part) := by
  have highest : (failAllFences (lossWork s c)).tx.highest = s.tx.highest := by
    rw [(failAllFences_frame _).tx (by decide), highest_lossWork]
  have rx : (failAllFences (lossWork s c)).rx = s.rx := by
    rw [(failAllFences_frame _).rx (by decide), rx_lossWork]
  unfold sessionReported
  rw [← highest, ← rx]
  rfl

theorem reports_sessionReported : ∃ more, Reports (lossWork s c) (sessionReported s c part) 1 more ∧
    .sessionDown c s.session.epoch s.tx.highest (if s.rx.accepted = true then seqPred s.rx.expected else 0) part ∈
      more := by
  have failed := (reports_completeFences (lossWork s c) (fun _ => true) .sessionDown none).then
    (modRx_frame _ fun r => { r with ackTimer := none }) (by decide) (by decide)
  exact ⟨_, failed.trans (reports_emit _ _), List.mem_append_right _ (List.mem_singleton.mpr rfl)⟩

theorem reports_lossWork : ∃ more, Reports s (lossWork s c) (32 + 2 * (heldRecords s).length) more ∧
    (∀ r ∈ heldRecords s, ∀ tag payload, r.body = .note tag payload → .commandDone .lost tag 7 0 0 ∈ more) ∧
    (∀ e, s.session.state = .up → (s.entry e).state = .mirrored →
      .regionState .sessionDown e .source .mirrored .lagging ∈ more) ∧
    ∀ e, (s.entry e).state = .draining → Holds s e → .regionState .drained e .source .draining .free ∈ more ∧
      ∀ tag, (s.cmd.pendingClose)[e] = some tag → .commandDone .ok tag 5 (BitVec.ofNat 8 e.val) 0 ∈ more := by
  obtain ⟨gone, converted, mem, length, empty⟩ := converted_lossState s c
  obtain ⟨swept, first, sweeps⟩ := reports_lossState s
  obtain ⟨lost, second, notes, drained⟩ := converted.reports
  obtain ⟨ended, third⟩ : ∃ more, Reports (lossRecords s c) (lossWork s c) 0 more := by
    unfold lossWork
    split
    · exact reports_resyncLeavesUp _
    · exact ⟨[], .quiet rfl rfl⟩
  rw [length] at second
  refine ⟨_, (first.trans second).trans third, fun r held tag payload body => ?_, fun e up mirrored => ?_,
    fun e draining holds => ?_⟩
  · exact List.mem_append_left _ (List.mem_append_right _ (notes r ((mem r).mpr held) tag payload body))
  · exact List.mem_append_left _ (List.mem_append_left _ (sweeps e up mirrored))
  · have same : (lossState s).entry e = s.entry e := by
      rw [entry_lossState, if_neg (by simp [draining])]
    obtain ⟨r, held, region⟩ := holds
    obtain ⟨event, closed⟩ := drained e ⟨by rw [same, draining], ⟨r, (mem r).mpr held, region⟩, by simp [empty]⟩
    refine ⟨List.mem_append_left _ (List.mem_append_right _ event),
      fun tag pending => List.mem_append_left _ (List.mem_append_right _ (closed tag ?_))⟩
    rwa [(lossState_frame s).cmd (by decide)]

theorem loseSession_reports : ∃ more, Reports s (loseSession s c part) (34 + 2 * (heldRecords s).length) more ∧
    .sessionDown c s.session.epoch s.tx.highest (if s.rx.accepted = true then seqPred s.rx.expected else 0) part ∈ more ∧
    (∀ r ∈ heldRecords s, ∀ tag payload, r.body = .note tag payload → .commandDone .lost tag 7 0 0 ∈ more) ∧
    (∀ e, s.session.state = .up → (s.entry e).state = .mirrored →
      .regionState .sessionDown e .source .mirrored .lagging ∈ more) ∧
    (∀ e, (s.entry e).state = .draining → Holds s e →
      .regionState .drained e .source .draining .free ∈ more ∧
      ∀ tag, (s.cmd.pendingClose)[e] = some tag → .commandDone .ok tag 5 (BitVec.ofNat 8 e.val) 0 ∈ more) ∧
    (∀ tag, s.session.pendingDisconnect = some tag → .commandDone .ok tag 2 0 0 ∈ more) := by
  obtain ⟨work, first, notes, sweeps, drained⟩ := reports_lossWork s c
  obtain ⟨down, second, told⟩ := reports_sessionReported s c part
  obtain ⟨closed, third, disconnect⟩ := reports_completeDisconnect (sessionReported s c part)
  have pending : (sessionReported s c part).session.pendingDisconnect = s.session.pendingDisconnect := by
    rw [sessionReported, (emit_frame _ _).session (by decide), State.modRx_session,
      (failAllFences_frame _).session (by decide), pendingDisconnect_lossWork]
  have body := (first.trans second).trans third
  rw [← lossBody_eq] at body
  have all : Reports s (loseSession s c part) (34 + 2 * (heldRecords s).length) ((work ++ down) ++ closed) := by
    rw [loseSession_eq]
    split
    · exact (body.then (beginCalling_frame _) (by decide) (by decide)).mono (by omega)
    · exact body.mono (by omega)
  have inWork {ev : Event} (h : ev ∈ work) : ev ∈ (work ++ down) ++ closed :=
    List.mem_append_left _ (List.mem_append_left _ h)
  refine ⟨_, all, List.mem_append_left _ (List.mem_append_right _ told),
    fun r held tag payload is => inWork (notes r held tag payload is), fun e up mirrored => inWork (sweeps e up mirrored),
    fun e draining holds => ?_, fun tag waits => List.mem_append_right _ (disconnect tag (pending.trans waits))⟩
  obtain ⟨event, close⟩ := drained e draining holds
  exact ⟨inWork event, fun tag pending => inWork (close tag pending)⟩

theorem lossReported_loseSession : LossReported s (loseSession s c part) c part := by
  obtain ⟨more, reports, down, notes, sweeps, drained, disconnect⟩ := loseSession_reports s c part
  have none : (loseSession s c part).fences = [] := (sessionEnded_loseSession s c part).1.2.2.2.1
  have within := reports.within
  rw [none, List.length_nil] at within
  intro room
  obtain ⟨events, _⟩ := reports.told 0 (ringRoom_mono room (by omega))
  refine ⟨more, events, down, notes, fun f pending => ?_, sweeps, drained, disconnect⟩
  obtain ⟨g, still, _⟩ | failed := reports.fences f pending
  · rw [none] at still
    cases still
  · exact failed

/-- What the teardown of a session leaves and reports. -/
theorem tornDown_loseSession : TornDown s (loseSession s c part) c part where
  session := (sessionEnded_loseSession s c part).1
  regions _ := regionTornDown_loseSession s c part
  buffers := buffersFreed_loseSession s c part
  turn := turn_loseSession s c part
  commands := (kept_loseSession s c part).2.2.2.cmd
  hold := holdEnds_loseSession s c part
  marks := (counting_loseSession s c part).counted
  events := lossReported_loseSession s c part

end

end Sys2Proof.Machine
end

section
/-! PROOFS. The losses that end a session: a PART, a loss claim, the carrier's drop and a new JOIN of the peer (R49, R52,
R53, R54). -/

namespace Sys2Proof.Machine

/-! ## What every loss leaves -/

section
variable (s : State) (c : LossCause) (part : BitVec 32)

theorem session_loseSession : (loseSession s c part).session = lostSession s s.session := (kept_loseSession s c part).1

theorem rx_loseSession : (loseSession s c part).rx = { s.rx with ackTimer := none } := (kept_loseSession s c part).2.1

theorem lossClaim_loseSession : (loseSession s c part).tx.lossClaim = s.tx.lossClaim := (kept_loseSession s c part).2.2.1

theorem clock_loseSession : (loseSession s c part).ev.timeBase = s.ev.timeBase := (kept_loseSession s c part).2.2.2.clock

theorem inSession_lostSession (x : Session) :
    (lostSession s x).state ≠ .up ∧ (lostSession s x).state ≠ .closing := by
  unfold lostSession
  split <;> exact ⟨by simp, by simp⟩

theorem inSession_of_lost {t : State} {x : Session} (h : t.session = lostSession s x) : inSession t = false := by
  have ended := inSession_lostSession s x
  rw [← h] at ended
  simpa [inSession] using ended

variable {c}

theorem control_loseSession (drop : c ≠ .disconnected) : (loseSession s c part).tx.control =
    if s.session.state = .up ∧ s.session.carrier = true then
      [⟨0, .join (loseSession s c part).session.call (loseSession s c part).session.lastEpoch⟩] else [] := by
  rw [(sessionEnded_loseSession s c part).2.2.1, if_neg drop, List.nil_append]

theorem control_loseSession_of_absent (drop : c ≠ .disconnected) (absent : s.session.carrier = false) :
    (loseSession s c part).tx.control = [] := by
  rw [control_loseSession s part drop, if_neg (by simp [absent])]

end

/-- A teardown does not see the loss claim that brought it about. -/
theorem TornDown.of_unclaimed {s t : State} {c : LossCause} {part : BitVec 32}
    (h : TornDown (s.modTx fun x => { x with lossClaim := none }) t c part) : TornDown s t c part :=
  ⟨h.session, h.regions, h.buffers, h.turn, h.commands, h.hold, h.marks, h.events⟩

/-- A teardown does not see the carrier flag. -/
theorem TornDown.of_dropped {s t : State} {c : LossCause} {part : BitVec 32}
    (h : TornDown (s.modSession fun x => { x with carrier := false, dropped := true }) t c part) : TornDown s t c part :=
  ⟨h.session, h.regions, h.buffers, h.turn, h.commands, h.hold, h.marks, h.events⟩

/-! ## The commands that bring a loss -/

section
variable {s : State}

theorem exec_part_of_current {rest : List Byte} (h : Current s (frameOf .part rest)) :
    exec (.part rest) s = .next (loseSession s .peerLeft (frameSeq (frameOf .part rest))) :=
  congrArg Host.Outcome.next (deliver_of_current s _ _ h)

theorem exec_lossClaim_of_session {cause : LossCause} (claim : s.tx.lossClaim = some cause)
    (session : inSession s = true) :
    exec .lossClaim s = .next (loseSession (s.modTx fun x => { x with lossClaim := none }) cause 0) := by
  simp only [exec, execLossClaim, claim, if_pos session]

theorem exec_lossClaim_of_idle {cause : LossCause} (claim : s.tx.lossClaim = some cause)
    (idle : inSession s = false) : exec .lossClaim s = .next { s with tx := { s.tx with lossClaim := none } } := by
  simp only [exec, execLossClaim, claim, idle]
  rfl

theorem state_of_inSession (session : inSession s = true) : s.session.state = .up ∨ s.session.state = .closing := by
  simpa [inSession] using session

theorem dropCarrier_of_session (session : inSession s = true) : dropCarrier s =
    loseSession (s.modSession fun x => { x with carrier := false, dropped := true }) .carrier 0 := by
  unfold dropCarrier
  obtain up | closing := state_of_inSession session
  · rw [up]
  · rw [closing]

theorem exec_ack_of_lost {rest : List Byte} (dropped : s.session.dropped = true)
    (good : frameGood (frameOf .ack rest) = true) (ended : inSession s = false) :
    exec (.ack rest) s = .next (count s .framesStale) := by
  refine congrArg Host.Outcome.next ((deliver_of_delivered s _ _ ⟨.inr dropped, good⟩).trans (if_neg fun h => ?_))
  simp [ended] at h

end

/-! ## A session with nothing in flight (R55) -/

section
variable {s : State}

theorem sweep_of_unmirrored (unmirrored : ∀ e, (s.entry e).state ≠ .mirrored) : sweep s = s := by
  have each : ∀ l : List RegionIx, l.foldl (fun t e => claimLagging t e .sessionDown .sessionDown) s = s := by
    intro l
    induction l with
    | nil => rfl
    | cons e l ih => rw [List.foldl_cons, claimLagging_eq, if_neg (unmirrored e), ih]
  exact each entryList

theorem lossState_of_unmirrored (unmirrored : ∀ e, (s.entry e).state ≠ .mirrored) :
    SameBut [.session] s (lossState s) := by
  unfold lossState
  split
  · rw [sweep_of_unmirrored (s := enterCalling s) unmirrored]
    exact enterCalling_frame s
  · exact modSession_frame s _

theorem convertQueues_of_empty {l : Bool} (sync : s.capture.sync = []) (async : s.capture.async = []) :
    convertQueues l s = s := by
  rw [convertQueues, sync, async]
  rfl

theorem lossTransmitter_of_empty (c : LossCause) (replay : s.tx.replay = []) : SameBut [.tx] s (lossTransmitter s c) := by
  have cleared : SameBut [.tx] s (if c = .disconnected then s else clearControl s) := by
    split
    · exact .refl _ s
    · exact modTx_frame s _
  have empty : (if c = .disconnected then s else clearControl s).tx.replay = [] := by
    split
    · exact replay
    · exact replay
  unfold lossTransmitter
  simp only [State.modTx_tx, empty]
  exact cleared.then (modTx_frame _ _) rfl

theorem lossRecords_of_empty (c : LossCause) (state : SameBut [.session] s (lossState s))
    (sync : s.capture.sync = []) (async : s.capture.async = []) (replay : s.tx.replay = []) :
    SameBut [.session, .tx] s (lossRecords s c) := by
  have transmitter := lossTransmitter_of_empty (s := lossState s) c (by rwa [state.tx (by decide)])
  have both := (state.mono (ps := [.session, .tx]) rfl).then transmitter rfl
  have capture : (lossTransmitter (lossState s) c).capture = s.capture := both.capture (by decide)
  have records : lossRecords s c = lossTransmitter (lossState s) c :=
    convertQueues_of_empty (by rw [capture, sync]) (by rw [capture, async])
  rwa [records]

/-- With nothing held and nothing under way a loss changes the session and the transmitter alone, until it is
reported. -/
theorem lossWork_of_nothing (c : LossCause) (unmirrored : ∀ e, (s.entry e).state ≠ .mirrored)
    (sync : s.capture.sync = []) (async : s.capture.async = []) (replay : s.tx.replay = [])
    (segment : s.resync.segment = none) (block : s.resync.block = .idle) :
    SameBut [.session, .tx] s (lossWork s c) := by
  have idle : ¬UnderWay (lossRecords s c) := by
    rw [underWay_lossRecords, UnderWay, segment, block]
    simp
  unfold lossWork
  rw [resyncLeavesUp_of_idle _ idle, ite_self]
  exact lossRecords_of_empty c (lossState_of_unmirrored unmirrored) sync async replay

/-- Nor does it change anything else where the session has drained. -/
theorem lossWork_of_drained (c : LossCause) (closing : s.session.state = .closing)
    (sync : s.capture.sync = []) (async : s.capture.async = []) (replay : s.tx.replay = []) :
    SameBut [.session, .tx] s (lossWork s c) := by
  have down : s.session.state ≠ .up := by simp [closing]
  have state : SameBut [.session] s (lossState s) := by
    rw [lossState, if_neg down]
    exact modSession_frame s _
  rw [lossWork, if_neg down]
  exact lossRecords_of_empty c state sync async replay

theorem completeDisconnect_of_none (none : s.session.pendingDisconnect = none) : completeDisconnect s = s := by
  rw [completeDisconnect, none]

theorem failAllFences_of_none (none : s.fences = []) : failAllFences s = s := by
  have kept : (s.modFences fun fs => fs.filter fun _ => !true) = s := by
    show { s with fences := s.fences.filter fun _ => !true } = s
    rw [none, List.filter_nil, ← none]
  rw [failAllFences, completeFences, none]
  exact kept

theorem stats_emit_of_room {ev : Event} (room : ringRoom s 1) : (emit s ev).stats = s.stats := by
  rw [emit_of_room s ev room]
  rfl

/-- A loss that finds nothing to end is reported by SESSION_DOWN alone. -/
theorem loseSession_of_nothing (c : LossCause) (part : BitVec 32) (unmirrored : ∀ e, (s.entry e).state ≠ .mirrored)
    (sync : s.capture.sync = []) (async : s.capture.async = []) (replay : s.tx.replay = [])
    (segment : s.resync.segment = none) (block : s.resync.block = .idle) (fences : s.fences = [])
    (disconnect : s.session.pendingDisconnect = none) (room : ringRoom s 1) :
    eventsOf (loseSession s c part) = eventsOf s ++ [.sessionDown c s.session.epoch s.tx.highest
      (if s.rx.accepted = true then seqPred s.rx.expected else 0) part] ∧
    (loseSession s c part).regions = s.regions ∧ (loseSession s c part).stats = s.stats := by
  have work := lossWork_of_nothing c unmirrored sync async replay segment block
  have before : SameBut [.session, .tx, .rx] s
      ((failAllFences (lossWork s c)).modRx fun r => { r with ackTimer := none }) := by
    rw [failAllFences_of_none (by rw [work.fences (by decide), fences])]
    exact (work.mono rfl).then (modRx_frame _ _) rfl
  have room' : ringRoom ((failAllFences (lossWork s c)).modRx fun r => { r with ackTimer := none }) 1 := by
    rwa [ringRoom, before.ev (by decide)]
  have pending : (sessionReported s c part).session.pendingDisconnect = none := by
    rw [sessionReported, (emit_frame _ _).session (by decide), State.modRx_session,
      (failAllFences_frame _).session (by decide), pendingDisconnect_lossWork, disconnect]
  have body : lossBody s c part = sessionReported s c part := by
    rw [lossBody_eq, completeDisconnect_of_none pending]
  have last : SameBut [.session, .tx] (sessionReported s c part) (loseSession s c part) := by
    rw [loseSession_eq, body]
    split
    · exact beginCalling_frame _
    · exact .refl _ _
  refine ⟨?_, ?_, ?_⟩
  · rw [eventsOf, last.ev (by decide), ← eventsOf, sessionReported, eventsOf_emit _ _ room', eventsOf,
      before.ev (by decide), ← eventsOf]
  · rw [last.regions (by decide), sessionReported, (emit_frame _ _).regions (by decide), before.regions (by decide)]
  · rw [last.stats (by decide), sessionReported, stats_emit_of_room room', before.stats (by decide)]

end

/-! ## A JOIN taken in a session (R49) -/

section
variable {s : State} {j : JoinFields}

theorem exec_join_of_session {rest : List Byte} (h : Delivered s (frameOf .join rest)) (session : inSession s = true) :
    exec (.join rest) s = .next (joinInSession s (joinFields (frameOf .join rest))) := by
  refine congrArg Host.Outcome.next ((deliver_of_delivered s _ _ h).trans ?_)
  obtain up | closing := state_of_inSession session
  · rw [up]
  · rw [closing]

theorem joinInSession_of_refused {cause : RefusalCause} (h : joinRefusal s j = some cause) :
    joinInSession s j = refuseJoin s j cause := by
  simp only [joinInSession, h]

theorem joinInSession_of_current (h : joinRefusal s j = none)
    (current : j.sender = s.session.peerUnit ∧ j.call = s.session.peerCall) : joinInSession s j = sendAnswer s := by
  simp only [joinInSession, h, if_pos current]

theorem joinInSession_of_up (h : joinRefusal s j = none)
    (current : ¬(j.sender = s.session.peerUnit ∧ j.call = s.session.peerCall)) (up : s.session.state = .up) :
    joinInSession s j = joinInCalling (loseSession s .peerRejoined 0) j := by
  simp only [joinInSession, h, if_neg current, if_pos up]

theorem joinInSession_of_closing (h : joinRefusal s j = none)
    (current : ¬(j.sender = s.session.peerUnit ∧ j.call = s.session.peerCall)) (closing : s.session.state = .closing) :
    joinInSession s j = loseSession s .peerRejoined 0 := by
  simp only [joinInSession, h, if_neg current, closing, reduceCtorEq, if_false]

theorem sendAnswer_of_answer {a : Answer} (h : s.session.answer = some a) : sendAnswer s = { s with
    tx := { s.tx with control := s.tx.control ++ [⟨0, .accept a.epoch s.session.call a.echo a.last⟩] } } := by
  rw [sendAnswer, h]
  rfl

/-- A teardown does not see the answer to a JOIN behind it. -/
theorem TornDown.of_answered {t : State} {c : LossCause} {part : BitVec 32} (h : TornDown s t c part) (j : JoinFields) :
    TornDown s (answerJoin t j) c part :=
  ⟨h.session, h.regions, h.buffers, h.turn, h.commands, h.hold, h.marks, h.events⟩

end

end Sys2Proof.Machine

namespace Sys2Proof.Proofs

open Sys2Proof.Machine

/-- Settles O13: each of the three comes down to the teardown, of the state without the claim or the carrier. -/
theorem lossTearsTheSessionDown : Obligations.LossTearsTheSessionDown := by
  refine ⟨fun rest s current => ?_, fun cause s claim => ⟨exec_lossClaim_of_idle claim, fun session => ?_⟩,
    fun s present session => ?_, fun rest s current _ unmirrored sync async replay segment block fences none room => ?_⟩
  · exact ⟨_, exec_part_of_current current, tornDown_loseSession .., session_loseSession .., rx_loseSession ..,
      lossClaim_loseSession .., control_loseSession s _ (by decide), loseSession_frame ..⟩
  · refine ⟨_, exec_lossClaim_of_session claim session, (tornDown_loseSession ..).of_unclaimed,
      lossClaim_loseSession .., session_loseSession .., rx_loseSession .., fun kept => control_loseSession _ _ kept, ?_⟩
    exact ((modTx_frame s _).mono rfl).then (loseSession_frame ..) rfl
  · have lost : exec .carrierDown s = .next (dropCarrier s) := exec_carrierDown_of_present present
    rw [dropCarrier_of_session session] at lost
    have ended := session_loseSession (s.modSession fun x => { x with carrier := false, dropped := true }) .carrier 0
    refine ⟨_, lost, (tornDown_loseSession ..).of_dropped, control_loseSession_of_absent _ _ (by decide) rfl, ended,
      rx_loseSession .., lossClaim_loseSession .., fun rest good => exec_ack_of_lost ?_ good (inSession_of_lost _ ended), ?_⟩
    · rw [ended, lostSession]
      split <;> rfl
    · exact ((modSession_frame s _).mono rfl).then (loseSession_frame ..) rfl
  · exact ⟨_, exec_part_of_current current,
      loseSession_of_nothing _ _ unmirrored sync async replay segment block fences none room⟩

/-- Settles O11: a JOIN is refused, answered again, or ends the session, and from UP it is then answered in CALLING. -/
theorem joinInSession : Obligations.JoinInSession := by
  intro rest s delivered session
  have joined := exec_join_of_session delivered session
  intro j refused cause current call last e
  refine ⟨fun refuse reported => ?_, fun refuse reported => ?_, fun accepts same a answer => ?_,
    fun accepts other closing => ?_, fun accepts other up => ?_⟩
  · rw [joined, joinInSession_of_refused (joinRefusal_of_refused s j refuse), refuseJoin_of_reported s j _ reported]
  · rw [joined, joinInSession_of_refused (joinRefusal_of_refused s j refuse), refuseJoin_of_unreported s j _ reported]
  · rw [joined, joinInSession_of_current (joinRefusal_of_not_refused s j accepts) same, sendAnswer_of_answer answer]
  · refine ⟨_, joined.trans (congrArg _ (joinInSession_of_closing (joinRefusal_of_not_refused s j accepts) other closing)),
      tornDown_loseSession .., ?_, session_loseSession .., rx_loseSession .., lossClaim_loseSession ..,
      loseSession_frame ..⟩
    rw [control_loseSession s _ (by decide), if_neg (by simp [closing])]
  · have lost := session_loseSession s .peerRejoined 0
    have calls : (loseSession s .peerRejoined 0).session.call = call := by rw [lost, lostSession, if_pos up]
    have epoch : (loseSession s .peerRejoined 0).session.lastEpoch = last := by rw [lost, lostSession, if_pos up]
    have answers : exec (.join rest) s = .next (answerJoin (loseSession s .peerRejoined 0) j) := by
      rw [joined, joinInSession_of_up (joinRefusal_of_not_refused s j accepts) other up, joinInCalling_of_not_refused]
      rwa [(loseSession_frame s .peerRejoined 0).loader (by decide)]
    refine ⟨_, answers, (tornDown_loseSession s .peerRejoined 0).of_answered j, ?_, ?_, rx_loseSession ..,
      lossClaim_loseSession .., ?_, ?_⟩
    · rw [answerJoin_eq, epoch, lost, clock_loseSession, (loseSession_frame s .peerRejoined 0).params (by decide)]
      rfl
    · rw [answerJoin_eq, lost, lostSession, if_pos up]
    · rw [answerJoin_eq, calls, epoch, control_loseSession s _ (by decide), calls, epoch]
      simp only [up, true_and]
      rfl
    · exact (loseSession_frame s .peerRejoined 0).then (answerJoin_frame _ _) rfl

end Sys2Proof.Proofs
end

section
/-! PROOFS. The take of a line and the commands that the take alone decides: SEND_NOTE, SET_PARAMETER, DUMP_STATS and
SNAPSHOT (R34, R144, R150, R153, R154). -/

namespace Sys2Proof.Machine

section
variable {l : Line} {s : State}

/-! ## What the take leaves -/

theorem popLine_eq (s : State) : popLine s = { s with
    cmd := { s.cmd with queue := s.cmd.queue.tail }
    mem := if s.mem.hold = .commandFull then { s.mem with hold := .none, holdTimer := none } else s.mem } := by
  unfold popLine endHoldOf
  by_cases held : s.mem.hold = .commandFull
  · rw [if_pos held, if_pos (by exact held)]
    rfl
  · rw [if_neg held, if_neg (by exact held)]
    rfl

theorem holdEnds_popLine (s : State) : HoldEnds s.mem (popLine s).mem (s.mem.hold = .commandFull) := by
  rw [popLine_eq]
  exact ⟨fun held => if_pos held, fun other => if_neg other⟩

theorem freeSlots_popLine (s : State) (q : QueueClass) : freeSlots (popLine s) q = freeSlots s q := by
  have frame := popLine_frame s
  rw [freeSlots, freeSlots, frame.capture (by decide), reservedIn, reservedIn, frame.resync (by decide)]

theorem writeOut_popLine (s : State) : (popLine s).cmd.writeOut = s.cmd.writeOut := by rw [popLine_eq]

theorem entry_popLine (s : State) (e : RegionIx) : (popLine s).entry e = s.entry e :=
  (popLine_frame s).entry (by decide) e

theorem state_popLine (s : State) : (popLine s).session.state = s.session.state := by
  rw [(popLine_frame s).session (by decide)]

theorem lineCode_of_takes {code : Nat} (h : Takes s l code) : (lineCode l).toNat = code := h.2.2

/-! ## SEND_NOTE (R34) -/

theorem exec_sendNote_of_takes (h : Takes s l 7) :
    exec .sendNote s = .next (takeNote (popLine s) (lineTag l) (linePayload l)) :=
  take_of_takes s l 7 (· == codeSendNote) (fun l t => takeNote t (lineTag l) (linePayload l)) h rfl

variable {tag : BitVec 16} {payload : BitVec 128}

theorem takeNote_of_not_up (down : s.session.state ≠ .up) :
    takeNote s tag payload = emit s (.commandDone .notConnected tag 7 0 0) := if_pos down

theorem takeNote_of_full (up : s.session.state = .up) (full : freeSlots s .sync = 0) :
    takeNote s tag payload = emit s (.commandDone .busy tag 7 0 0) := by
  rw [takeNote, if_neg (not_not.mpr up), if_pos full]
  rfl

theorem takeNote_of_room (up : s.session.state = .up) (room : 0 < freeSlots s .sync) : takeNote s tag payload = { s with
    capture := { s.capture with
      sync := s.capture.sync ++ [⟨s.capture.counter, .note tag payload⟩], counter := capSucc s.capture.counter } } := by
  rw [takeNote, if_neg (not_not.mpr up), if_neg (Nat.ne_of_gt room)]
  rfl

/-! ## SET_PARAMETER (R150) -/

theorem exec_setParameter_of_takes (h : Takes s l 8) :
    exec .setParameter s = .next (takeParameter (popLine s) (lineTag l) (lineU16 l 4).toNat (lineU32 l 8)) :=
  take_of_takes s l 8 (· == codeSetParameter)
    (fun l t => takeParameter t (lineTag l) (lineU16 l 4).toNat (lineU32 l 8)) h rfl

theorem paramValid_iff_of_range {id lo hi : Nat} (range : paramRange id = some (lo, hi)) (v : Nat) :
    paramValid id v = true ↔ lo ≤ v ∧ v ≤ hi := by
  rw [paramValid, range]
  simp

theorem exec_setParameter_of_range {id lo hi : Nat} (h : Takes s l 8) (names : (lineU16 l 4).toNat = id)
    (range : paramRange id = some (lo, hi)) :
    (lo ≤ (lineU32 l 8).toNat ∧ (lineU32 l 8).toNat ≤ hi → exec .setParameter s =
      .next (emit { popLine s with params := setParam s.params id (lineU32 l 8) } (.commandDone .ok (lineTag l) 8 0 0))) ∧
    (¬(lo ≤ (lineU32 l 8).toNat ∧ (lineU32 l 8).toNat ≤ hi) →
      exec .setParameter s = .next (emit (popLine s) (.commandDone .badArgument (lineTag l) 8 0 0))) := by
  rw [exec_setParameter_of_takes h, names, takeParameter]
  refine ⟨fun valid => ?_, fun invalid => ?_⟩
  · rw [if_pos ((paramValid_iff_of_range range _).mpr valid), ← (popLine_frame s).params (by decide)]
    rfl
  · rw [if_neg fun valid => invalid ((paramValid_iff_of_range range _).mp valid)]
    rfl

theorem exec_setParameter_of_no_range (h : Takes s l 8) (none : paramRange (lineU16 l 4).toNat = none) :
    exec .setParameter s = .next (emit (popLine s) (.commandDone .badArgument (lineTag l) 8 0 0)) := by
  rw [exec_setParameter_of_takes h, takeParameter, if_neg (by simp [paramValid, none])]
  rfl

theorem paramRange_eq_none {id : Nat} (h : id = 0 ∨ 7 < id) : paramRange id = none := by
  unfold paramRange
  split <;> first | rfl | omega

/-! ## DUMP_STATS and SNAPSHOT (R153, R154) -/

theorem exec_writeOut_of_takes {snap : Bool} (h : Takes s l (if snap then 12 else 11)) :
    exec (if snap then .snapshot else .dumpStats) s = .next (writeOutCommand (popLine s) l (if snap then 12 else 11) snap
      (if snap then startSnapshot l else startDump l)) := by
  cases snap with
  | true =>
    exact take_of_takes s l 12 (· == codeSnapshot)
      (fun l t => writeOutCommand t l codeSnapshot true (startSnapshot l)) h rfl
  | false =>
    exact take_of_takes s l 11 (· == codeDumpStats)
      (fun l t => writeOutCommand t l codeDumpStats false (startDump l)) h rfl

section
variable {code : Nat} {snap : Bool} {start : State → State}

theorem destination_good_iff (dest : Nat) :
    (!(addressValid dest && dest % 64 == 0)) = true ↔ ¬(dest < 2 ^ 40 ∧ dest % 64 = 0) := by
  simp [addressValid, imp_iff_not_or]

theorem writeOutCommand_of_bad (bad : ¬(lineAddress l < 2 ^ 40 ∧ lineAddress l % 64 = 0)) :
    writeOutCommand s l code snap start = done s .badArgument (lineTag l) code :=
  if_pos ((destination_good_iff _).mpr bad)

variable (good : lineAddress l < 2 ^ 40 ∧ lineAddress l % 64 = 0)
include good

theorem writeOutCommand_of_busy (busy : s.cmd.writeOut ≠ none) :
    writeOutCommand s l code snap start = done s .busy (lineTag l) code := by
  unfold writeOutCommand
  dsimp only
  rw [if_neg fun bad => (destination_good_iff _).mp bad good, if_pos (Option.isSome_iff_ne_none.mpr busy)]

theorem writeOutCommand_of_idle (idle : s.cmd.writeOut = none) : writeOutCommand s l code snap start =
    if writeOutOverlaps s (lineAddress l) (lineAddress l + if snap then 1088 else 128) = true then
      done s .overlap (lineTag l) code
    else start s := by
  unfold writeOutCommand
  dsimp only
  rw [if_neg fun bad => (destination_good_iff _).mp bad good, if_neg (by simp [idle])]
  rfl

end

/-- The state that a write-out starts in. -/
def writeOutStarted (snap : Bool) (l : Line) (s : State) : State := if snap then startSnapshot l s else startDump l s

theorem cmd_writeOutStarted (snap : Bool) : (writeOutStarted snap l s).cmd = { s.cmd with
    writeOut := some ⟨snap, lineTag l, lineAddress l, if snap then 17 else 2, 0⟩ } := by
  cases snap
  · change (startDump l s).cmd = _
    unfold startDump
    dsimp only
    split <;> rfl
  · rfl

theorem ev_writeOutStarted (snap : Bool) : (writeOutStarted snap l s).ev = { s.ev with
    writeOutLines := cutLines (lineAddress l) (if snap then 17 else 2) (if snap then snapshotBytes s else statsBytes s) } := by
  cases snap
  · change (startDump l s).ev = _
    unfold startDump
    dsimp only
    split <;> rfl
  · rfl

theorem stats_writeOutStarted (snap : Bool) : (writeOutStarted snap l s).stats =
    if snap = false ∧ lineByte l 4 ≠ 0 then Vector.replicate 16 0 else s.stats := by
  cases snap
  · change (startDump l s).stats = _
    unfold startDump
    dsimp only
    split
    next keep =>
      rw [if_neg fun clears => clears.2 keep]
      rfl
    next clears =>
      rw [if_pos ⟨rfl, clears⟩]
      rfl
  · rfl

theorem writeOutStarted_frame (snap : Bool) : SameBut [.cmd, .ev, .stats, .freeCount] s (writeOutStarted snap l s) := by
  have started (lines : Nat) (content : List Byte) :
      SameBut [.cmd, .ev, .stats, .freeCount] s (startWriteOut s snap (lineTag l) lines content) :=
    ((modCmd_frame s _).mono rfl).then (modEv_frame _ _) rfl
  cases snap
  · change SameBut _ s (startDump l s)
    unfold startDump
    dsimp only
    split
    · exact started _ _
    · exact (started _ _).then (modStats_frame _ _) rfl
  · exact (started _ _).then (drew_frame _ _) rfl

theorem length_cutLines (dest n : Nat) (bytes : List Byte) : (cutLines dest n bytes).length = n := by
  rw [cutLines, List.length_map, List.length_range]

theorem getElem?_cutLines {dest n k : Nat} (bytes : List Byte) (within : k < n) (fits : dest + 64 * k < 2 ^ 40) :
    (cutLines dest n bytes)[k]? = some (BitVec.ofNat 40 (dest + 64 * k), lineAt bytes (64 * k)) := by
  rw [cutLines, List.getElem?_map, List.getElem?_range within, Option.map_some, spaceAddr, if_pos fits]

end

end Sys2Proof.Machine

namespace Sys2Proof.Proofs

open Sys2Proof.Machine

/-- Settles O40: what the take leaves, and that each command takes nothing where no line is to be taken. -/
theorem takingALine : Obligations.TakingALine := by
  refine ⟨popLine_eq, fun l s h => take_of_takes s l 0 (· == 0) (fun _ t => t) h rfl, fun l n s h beyond => ?_,
    fun c s mem none => ?_⟩
  · have code := lineCode_of_takes h
    have taken := take_of_takes s l n (fun c => decide (codeRestart < c))
      (fun l t => done t .badCommand (lineTag l) (lineCode l).toNat) h (decide_eq_true beyond)
    refine taken.trans ?_
    rw [done, BitVec.ofNat_toNat, BitVec.setWidth_eq]
  · simp only [List.mem_cons, List.not_mem_nil, or_false] at mem
    rcases mem with rfl | rfl | rfl | rfl | rfl | rfl | rfl | rfl | rfl | rfl | rfl | rfl | rfl | rfl | rfl
    all_goals simp only [exec, execNoneCommand, execBadCommand, execConnect, execDisconnect, execOpenSource,
      execOpenTarget, execClose, execFence, execSendNote, execSetParameter, execSetEventRing, execReleaseEvents,
      execDumpStats, execSnapshot, execRestart, take_of_none s _ _ none]

/-- Settles O46: SEND_NOTE by the session and the room, SET_PARAMETER by the range of the parameter named. -/
theorem notesAndParameters : Obligations.NotesAndParameters := by
  refine ⟨fun l s h => ?_, fun l s h => ?_⟩
  · have taken := exec_sendNote_of_takes h
    have state := state_popLine s
    have slots := freeSlots_popLine s .sync
    intro u doneWith
    refine ⟨fun down => ?_, fun up full => ?_, fun up room => ?_⟩
    · rw [taken, takeNote_of_not_up (by rwa [state])]
    · rw [taken, takeNote_of_full (by rwa [state]) (by rwa [slots])]
    · rw [taken, takeNote_of_room (by rwa [state]) (by rwa [slots]), (popLine_frame s).capture (by decide)]
  · intro u id v doneWith set bad
    refine ⟨fun is => ?_, fun is => ?_, fun is => ?_, fun is => ?_, fun is => ?_, fun is => ?_, fun is => ?_,
      fun is => exec_setParameter_of_no_range h (paramRange_eq_none is)⟩
    · exact exec_setParameter_of_range h is rfl
    · exact exec_setParameter_of_range h is rfl
    · exact exec_setParameter_of_range h is rfl
    · obtain ⟨valid, invalid⟩ := exec_setParameter_of_range h is rfl
      exact ⟨fun le => valid ⟨Nat.zero_le _, le⟩, fun gt => invalid fun range => Nat.not_le.mpr gt range.2⟩
    · exact exec_setParameter_of_range h is rfl
    · exact exec_setParameter_of_range h is rfl
    · obtain ⟨valid, invalid⟩ := exec_setParameter_of_range h is rfl
      exact ⟨fun le => valid ⟨Nat.zero_le _, le⟩, fun gt => invalid fun range => Nat.not_le.mpr gt range.2⟩

/-- Settles O48: the checks in their order, then what the start of the write-out leaves. -/
theorem writeOutCommands : Obligations.WriteOutCommands := by
  intro l snap s h
  have taken := exec_writeOut_of_takes h
  have writeOut := writeOut_popLine s
  have code (r : CmdResult) : done (popLine s) r (lineTag l) (if snap then 12 else 11) =
      emit (popLine s) (.commandDone r (lineTag l) (if snap then 12 else 11) 0 0) := by cases snap <;> rfl
  intro c u dest n good refusedWith
  refine ⟨fun bad => ?_, fun ok busy => ?_, fun ok idle overlaps => ?_, fun ok idle apart => ?_⟩
  · exact taken.trans (congrArg _ ((writeOutCommand_of_bad bad).trans (code _)))
  · exact taken.trans (congrArg _ ((writeOutCommand_of_busy ok (by rwa [writeOut])).trans (code _)))
  · have decided := writeOutCommand_of_idle (s := popLine s) (code := if snap then 12 else 11) (snap := snap)
      (start := if snap then startSnapshot l else startDump l) ok (by rwa [writeOut])
    exact taken.trans (congrArg _ (decided.trans ((if_pos overlaps).trans (code _))))
  · have decided := writeOutCommand_of_idle (s := popLine s) (code := if snap then 12 else 11) (snap := snap)
      (start := if snap then startSnapshot l else startDump l) ok (by rwa [writeOut])
    have starts := decided.trans (if_neg (Bool.eq_false_iff.mp apart))
    have start : (if snap then startSnapshot l else startDump l) (popLine s) = writeOutStarted snap l (popLine s) := by
      cases snap <;> rfl
    have lines : (writeOutStarted snap l (popLine s)).ev.writeOutLines =
        cutLines dest n (if snap then snapshotBytes u else statsBytes s) := by
      rw [ev_writeOutStarted, statsBytes, (popLine_frame s).stats (by decide)]
      rfl
    refine ⟨writeOutStarted snap l (popLine s), taken.trans (congrArg _ (starts.trans start)),
      cmd_writeOutStarted snap, ?_, fun k within fits => ?_, ?_, ?_, writeOutStarted_frame snap⟩
    · rw [lines, length_cutLines]
    · rw [lines, getElem?_cutLines _ within fits]
    · rw [ev_writeOutStarted, (popLine_frame s).ev (by decide)]
    · rw [stats_writeOutStarted, (popLine_frame s).stats (by decide)]

end Sys2Proof.Proofs
end

section
/-! PROOFS. The commands OPEN_SOURCE and OPEN_TARGET (R4, R5, R146). -/

namespace Sys2Proof.Machine

/-! ## The arguments of an OPEN -/

theorem regionIx?_of_beyond {b : BitVec 8} (h : 32 ≤ b.toNat) : regionIx? b = none := dif_neg (Nat.not_lt.mpr h)

theorem regionIx?_isSome_iff (b : BitVec 8) : (regionIx? b).isSome = true ↔ b.toNat < 32 := by
  unfold regionIx?
  split
  next within => simp [within]
  next beyond => simp [beyond]

theorem classOf_isSome_iff (b : BitVec 8) : (classOf b).isSome = true ↔ b = 1 ∨ b = 2 := by
  unfold classOf
  split
  next sync => simp [sync]
  next other =>
    split
    next async => simp [async]
    next none => simp [other, none]

theorem classOf_of_isSome {b : BitVec 8} (h : b = 1 ∨ b = 2) : classOf b = some (if b = 1 then .sync else .async) := by
  obtain rfl | rfl := h
  · rfl
  · rfl

theorem rangeValid_iff (n base : Nat) : rangeValid n base = true ↔
    16 ≤ n ∧ n ≤ 36 ∧ base < 2 ^ 40 ∧ base % 2 ^ n = 0 := by
  simp [rangeValid, addressValid, and_assoc]

/-! ## The checks -/

section
variable {l : Line} {s : State} {source : Bool}

/-- The check of the class and the peer index, which OPEN_SOURCE alone has. -/
def sourceArgs (source : Bool) (l : Line) : Bool :=
  if source then (classOf (lineByte l 6)).isSome && (regionIx? (lineByte l 7)).isSome else true

/-- What an OPEN that passes its checks makes of the entry. -/
def openedEntry (source : Bool) (l : Line) (e : RegionIx) (s : State) : State :=
  if source then installSource l e s else installTarget l e s

theorem exec_open_of_takes (h : Takes s l (if source then 3 else 4)) :
    exec (if source then .openSource else .openTarget) s = .next
      (openCommand (popLine s) l (if source then 3 else 4) (sourceArgs source l) (openedEntry source l)) := by
  cases source with
  | true =>
    exact take_of_takes s l 3 (· == codeOpenSource) (fun l t => openCommand t l codeOpenSource
      ((classOf (lineByte l 6)).isSome && (regionIx? (lineByte l 7)).isSome) (installSource l)) h rfl
  | false =>
    exact take_of_takes s l 4 (· == codeOpenTarget)
      (fun l t => openCommand t l codeOpenTarget true (installTarget l)) h rfl

theorem openArgs_iff : (sourceArgs source l && rangeValid (lineByte l 5).toNat (lineAddress l)) = true ↔
    16 ≤ (lineByte l 5).toNat ∧ (lineByte l 5).toNat ≤ 36 ∧ lineAddress l < 2 ^ 40 ∧
      lineAddress l % 2 ^ (lineByte l 5).toNat = 0 ∧
      (source = true → (lineByte l 6 = 1 ∨ lineByte l 6 = 2) ∧ (lineByte l 7).toNat < 32) := by
  rw [Bool.and_eq_true, rangeValid_iff, sourceArgs]
  cases source with
  | true =>
    simp only [if_true, Bool.and_eq_true, classOf_isSome_iff, regionIx?_isSome_iff, true_implies]
    tauto
  | false => simp

variable {code : Nat} {args : Bool} {install : RegionIx → State → State} {e : RegionIx}

theorem openCommand_of_no_entry (none : regionIx? (lineByte l 4) = none) :
    openCommand s l code args install = done s .badEntry (lineTag l) code (lineByte l 4) := by
  rw [openCommand, none]

theorem openCommand_of_bad (named : regionIx? (lineByte l 4) = some e)
    (bad : ¬(args && rangeValid (lineByte l 5).toNat (lineAddress l)) = true) :
    openCommand s l code args install = done s .badArgument (lineTag l) code (lineByte l 4) := by
  rw [openCommand, named]
  exact if_neg bad

theorem openCommand_of_good (named : regionIx? (lineByte l 4) = some e)
    (good : (args && rangeValid (lineByte l 5).toNat (lineAddress l)) = true) :
    openCommand s l code args install = openEntry s l e code (install e) := by
  rw [openCommand, named]
  exact if_pos good

variable {place : State → State}

theorem openEntry_of_used (used : (s.entry e).state ≠ .free) :
    openEntry s l e code place = done s .entryBusy (lineTag l) code (lineByte l 4) := if_pos used

theorem openEntry_of_free (free : (s.entry e).state = .free) : openEntry s l e code place =
    if openOverlaps s (lineAddress l) (lineAddress l + 2 ^ (lineByte l 5).toNat) = true then
      done s .overlap (lineTag l) code (lineByte l 4)
    else done (place s) .ok (lineTag l) code (lineByte l 4) := by
  rw [openEntry, if_neg (not_not.mpr free)]
  rfl

end

/-! ## The entry that opens -/

section
variable (l : Line) (e : RegionIx) (s : State)

theorem marks_countBy (n : Nat) : MarksCounted s (countBy s .dirtyMarks n) n :=
  ⟨by rw [stats_countBy, if_pos rfl], fun c other _ => by rw [stats_countBy, if_neg other]⟩

/-- A clean entry has every segment marked. -/
theorem marks_markAll (clean : (s.entry e).dirty = []) :
    MarksCounted s (markAll s e) (segCount (s.entry e).sizeExp) := by
  have counted := marks_countBy (setEntry s e { s.entry e with dirty := List.range (segCount (s.entry e).sizeExp) })
    (segCount (s.entry e).sizeExp - (s.entry e).dirty.length)
  rw [clean, List.length_nil, Nat.sub_zero] at counted
  rw [markAll, clean, List.length_nil, Nat.sub_zero]
  simpa using MarksCounted.then (.of_stats (s := s) rfl) counted

theorem entry_markAll (i : RegionIx) : (markAll s e).entry i =
    if i = e then { s.entry e with dirty := List.range (segCount (s.entry e).sizeExp) } else s.entry i :=
  entry_setEntry s e i _

/-- The entry of a source that opens, before its marks. -/
def sourceEntry (l : Line) : Entry :=
  ⟨.lagging, BitVec.ofNat 40 (lineAddress l), (lineByte l 5).toNat, classOf (lineByte l 6),
    (regionIx? (lineByte l 7)).getD 0, 0, [], []⟩

theorem installSource_eq : installSource l e s =
    emit (markAll (setEntry s e (sourceEntry l)) e) (.regionState .opened e .source .free .lagging) := rfl

theorem entry_setEntry_same (en : Entry) : (setEntry s e en).entry e = en := (entry_setEntry s e e en).trans (if_pos rfl)

theorem entry_installSource (i : RegionIx) : (installSource l e s).entry i =
    if i = e then { sourceEntry l with dirty := List.range (segCount (lineByte l 5).toNat) } else s.entry i := by
  rw [installSource_eq, (emit_frame _ _).entry (by decide), entry_markAll, entry_setEntry_same, entry_setEntry]
  split <;> rfl

theorem sourceEntry_of_good (good : (lineByte l 6 = 1 ∨ lineByte l 6 = 2) ∧ (lineByte l 7).toNat < 32) :
    sourceEntry l = ⟨.lagging, BitVec.ofNat 40 (lineAddress l), (lineByte l 5).toNat,
      some (if lineByte l 6 = 1 then .sync else .async), Fin.ofNat 32 (lineByte l 7).toNat, 0, [], []⟩ := by
  obtain ⟨cls, peer⟩ := good
  have named : regionIx? (lineByte l 7) = some (Fin.ofNat 32 (lineByte l 7).toNat) :=
    regionIx?_of_val (Nat.mod_eq_of_lt peer)
  rw [sourceEntry, classOf_of_isSome cls, named, Option.getD_some]

theorem marks_installSource : MarksCounted s (installSource l e s) (segCount (lineByte l 5).toNat) := by
  have marked := marks_markAll e (setEntry s e (sourceEntry l)) (by rw [entry_setEntry_same]; rfl)
  rw [entry_setEntry_same] at marked
  have all := MarksCounted.then (MarksCounted.then (.of_stats (s := s) rfl) marked) (marks_emit _
    (.regionState .opened e .source .free .lagging))
  have size : (sourceEntry l).sizeExp = (lineByte l 5).toNat := rfl
  rw [installSource_eq, ← size]
  simpa using all

theorem installSource_frame : SameBut [.regions, .stats, .ev] s (installSource l e s) :=
  (((setEntry_frame s e _).mono rfl).then (markAll_frame _ e) rfl).then (emit_frame _ _) rfl

theorem eventsOf_installSource (room : ringRoom s 1) :
    eventsOf (installSource l e s) = eventsOf s ++ [.regionState .opened e .source .free .lagging] :=
  eventsOf_emit (markAll (setEntry s e (sourceEntry l)) e) _ room

theorem entry_installTarget (i : RegionIx) : (installTarget l e s).entry i =
    if i = e then ⟨.accepting, BitVec.ofNat 40 (lineAddress l), (lineByte l 5).toNat, none, 0, 0, [], []⟩
    else s.entry i := by
  rw [installTarget, (emit_frame _ _).entry (by decide), (resetReport_frame _ e).entry (by decide), entry_setEntry]

theorem apply_installTarget :
    (installTarget l e s).apply = { s.apply with reports := setAt s.apply.reports e ⟨none, 0⟩ } := by
  rw [installTarget, (emit_frame _ _).apply (by decide)]
  rfl

theorem marks_installTarget : MarksCounted s (installTarget l e s) 0 :=
  MarksCounted.same (.of_stats rfl) (marks_emit _ _)

theorem installTarget_frame : SameBut [.regions, .apply, .stats, .ev] s (installTarget l e s) :=
  (((setEntry_frame s e _).mono rfl).then (resetReport_frame _ e) rfl).then (emit_frame _ _) rfl

theorem eventsOf_installTarget (room : ringRoom s 1) :
    eventsOf (installTarget l e s) = eventsOf s ++ [.regionState .opened e .target .free .accepting] :=
  eventsOf_emit (resetReport (setEntry s e
    ⟨.accepting, BitVec.ofNat 40 (lineAddress l), (lineByte l 5).toNat, none, 0, 0, [], []⟩) e) _ room

variable {l e s}

/-- Two events in a row, where the ring has room for both. -/
theorem eventsOf_emit_emit {t : State} {first next : Event} (told : eventsOf t = eventsOf s ++ [first])
    (room : ringRoom t 1) : eventsOf (emit t next) = eventsOf s ++ [first, next] := by
  rw [eventsOf_emit t next room, told, List.append_assoc]
  rfl

theorem ringRoom_installSource (room : ringRoom s 2) : ringRoom (installSource l e s) 1 :=
  ringRoom_emit (markAll (setEntry s e (sourceEntry l)) e) _ 1 room

theorem ringRoom_installTarget (room : ringRoom s 2) : ringRoom (installTarget l e s) 1 :=
  ringRoom_emit (resetReport (setEntry s e
    ⟨.accepting, BitVec.ofNat 40 (lineAddress l), (lineByte l 5).toNat, none, 0, 0, [], []⟩) e) _ 1 room

end

theorem ringRoom_popLine {s : State} {n : Nat} (room : ringRoom s n) : ringRoom (popLine s) n := by
  rwa [ringRoom, (popLine_frame s).ev (by decide)]

theorem eventsOf_popLine (s : State) : eventsOf (popLine s) = eventsOf s := by
  rw [eventsOf, (popLine_frame s).ev (by decide), eventsOf]

theorem marks_popLine (s : State) : MarksCounted s (popLine s) 0 := (popLine_frame s).marks (by decide)

end Sys2Proof.Machine

namespace Sys2Proof.Proofs

open Sys2Proof.Machine

/-- Settles O43: the checks in their order, then the entry that opens. -/
theorem openRegions : Obligations.OpenRegions := by
  intro l source s h
  have taken := exec_open_of_takes h
  have code (t : State) (r : CmdResult) : done t r (lineTag l) (if source then 3 else 4) (lineByte l 4) =
      emit t (.commandDone r (lineTag l) (if source then 3 else 4) (lineByte l 4) 0) := by cases source <;> rfl
  intro c u doneWith n base good
  refine ⟨fun beyond => ?_, fun e val => ?_⟩
  · exact taken.trans (congrArg _ ((openCommand_of_no_entry (regionIx?_of_beyond beyond)).trans (code _ _)))
  have named := regionIx?_of_val val
  have opens (is : good) := openCommand_of_good (s := u) (code := if source then 3 else 4)
    (install := openedEntry source l) named (openArgs_iff.mpr is)
  have found : u.entry e = s.entry e := entry_popLine s e
  refine ⟨fun bad => ?_, fun is used => ?_, fun is free overlaps => ?_, fun is free apart => ?_⟩
  · exact taken.trans (congrArg _ ((openCommand_of_bad named fun is => bad (openArgs_iff.mp is)).trans (code _ _)))
  · exact taken.trans (congrArg _ ((opens is).trans ((openEntry_of_used (by rwa [found])).trans (code _ _))))
  · have decided := (opens is).trans ((openEntry_of_free (by rwa [found])).trans (if_pos overlaps))
    exact taken.trans (congrArg _ (decided.trans (code _ _)))
  · have decided := (opens is).trans ((openEntry_of_free (by rwa [found])).trans (if_neg (Bool.eq_false_iff.mp apart)))
    have placed := taken.trans (congrArg _ (decided.trans (code _ _)))
    have told : eventsOf u = eventsOf s := eventsOf_popLine s
    cases source with
    | true =>
      refine ⟨_, placed, fun e' other => ?_, fun _ => ⟨?_, ?_, fun room => ?_⟩, nofun, ?_, ?_⟩
      · rw [(emit_frame _ _).entry (by decide)]
        exact (entry_installSource l e u e').trans ((if_neg other).trans (entry_popLine s e'))
      · rw [(emit_frame _ _).entry (by decide)]
        refine (entry_installSource l e u e).trans ((if_pos rfl).trans ?_)
        rw [sourceEntry_of_good l (is.2.2.2.2 rfl)]
        rfl
      · rw [(emit_frame _ _).apply (by decide)]
        exact ((installSource_frame l e u).apply (by decide)).trans ((popLine_frame s).apply (by decide))
      · rw [← told]
        exact eventsOf_emit_emit (eventsOf_installSource l e u (ringRoom_mono (ringRoom_popLine room) (by decide)))
          (ringRoom_installSource (ringRoom_popLine room))
      · have marked := (MarksCounted.then (marks_popLine s) (marks_installSource l e u)).same (marks_emit _ (doneWith .ok))
        rwa [Nat.zero_add] at marked
      · exact ((installSource_frame l e u).mono rfl).then (emit_frame _ _) rfl
    | false =>
      refine ⟨_, placed, fun e' other => ?_, nofun, fun _ => ⟨?_, ?_, fun room => ?_⟩, ?_, ?_⟩
      · rw [(emit_frame _ _).entry (by decide)]
        exact (entry_installTarget l e u e').trans ((if_neg other).trans (entry_popLine s e'))
      · rw [(emit_frame _ _).entry (by decide)]
        exact (entry_installTarget l e u e).trans (if_pos rfl)
      · rw [(emit_frame _ _).apply (by decide)]
        refine (apply_installTarget l e u).trans ?_
        rw [(popLine_frame s).apply (by decide)]
      · rw [← told]
        exact eventsOf_emit_emit (eventsOf_installTarget l e u (ringRoom_mono (ringRoom_popLine room) (by decide)))
          (ringRoom_installTarget (ringRoom_popLine room))
      · exact ((marks_popLine s).same (marks_installTarget l e u)).same (marks_emit _ (doneWith .ok))
      · exact ((installTarget_frame l e u).mono rfl).then (emit_frame _ _) rfl

end Sys2Proof.Proofs
end

section
/-! PROOFS. The commands SET_EVENT_RING and RELEASE_EVENTS (R151, R152, R161, R162, R163). -/

namespace Sys2Proof.Machine

/-! ## SET_EVENT_RING (R151, R162) -/

section
variable {l : Line} {s : State}

theorem exec_setEventRing_of_takes (h : Takes s l 9) : exec .setEventRing s =
    .next (takeRing (popLine s) (lineTag l) (lineAddress l) (lineU32 l 4).toNat) :=
  take_of_takes s l 9 (· == codeSetEventRing)
    (fun l t => takeRing t (lineTag l) (lineAddress l) (lineU32 l 4).toNat) h rfl

variable {tag : BitVec 16} {base count : Nat}

theorem ringArgs_iff : (!(addressValid base && base % 4096 == 0 && entryCountValid count)) = true ↔
    ¬(base < 2 ^ 40 ∧ base % 4096 = 0 ∧ count ∈ [64, 128, 256, 512, 1024, 2048, 4096]) := by
  rw [Bool.not_eq_true', ← Bool.not_eq_true, Bool.and_eq_true, Bool.and_eq_true, addressValid, decide_eq_true_iff,
    beq_iff_eq, entryCountValid, List.contains_iff_mem, and_assoc]

theorem takeRing_of_bad
    (bad : ¬(base < 2 ^ 40 ∧ base % 4096 = 0 ∧ count ∈ [64, 128, 256, 512, 1024, 2048, 4096])) :
    takeRing s tag base count = emit s (.commandDone .badArgument tag 9 0 0) := if_pos (ringArgs_iff.mpr bad)

section
variable (good : base < 2 ^ 40 ∧ base % 4096 = 0 ∧ count ∈ [64, 128, 256, 512, 1024, 2048, 4096])
include good

theorem takeRing_of_unreleased (some : 0 < unreleased s.ev) :
    takeRing s tag base count = emit s (.commandDone .busy tag 9 0 0) := by
  rw [takeRing, if_neg fun bad => ringArgs_iff.mp bad good, if_pos some]
  rfl

theorem takeRing_of_empty (empty : unreleased s.ev = 0) : takeRing s tag base count =
    if ringOverlaps s base (base + 32 * count) = true then emit s (.commandDone .overlap tag 9 0 0)
    else emit (installRing s base count) (.commandDone .ok tag 9 0 0) := by
  rw [takeRing, if_neg fun bad => ringArgs_iff.mp bad good, if_neg (by rw [empty]; decide)]
  rfl

end

/-- The Event Writer with a new, empty ring. -/
def newRing (e : EventWriter) (base count : Nat) : EventWriter :=
  { e with ringBase := BitVec.ofNat 40 base, count := count, produce := 0, release := 0, write := 0, unwritten := 0,
           attn := false, attnTimer := none, list := e.list.map fun it => { it with current := false } }

theorem ev_installRing : (installRing s base count).ev = newRing s.ev base count := rfl

theorem newItem_newRing {ev : Event} {e : EventWriter} (address : base < 2 ^ 40) (size : 0 < count) :
    newItem (newRing e base count) ev = ⟨ev, true, e.timeBase, BitVec.ofNat 40 base, true⟩ := by
  have low : (BitVec.ofNat 40 base).toNat = base := by rw [BitVec.toNat_ofNat, Nat.mod_eq_of_lt address]
  have slot : spaceAddr ((BitVec.ofNat 40 base).toNat + 32 * (0 % count)) = BitVec.ofNat 40 base := by
    rw [Nat.zero_mod, Nat.mul_zero, Nat.add_zero, low, spaceAddr, if_pos address]
  show EventItem.mk ev (decide (0 < count)) e.timeBase
    (spaceAddr ((BitVec.ofNat 40 base).toNat + 32 * (0 % count))) true = _
  rw [decide_eq_true size, slot]

/-- One entry of the new ring is unreleased, and none is visible: the ATTN test leaves the line low. -/
theorem attn_produceEntry_newRing {p : Params} {ev : Event} {e : EventWriter} (size : 0 < count)
    (threshold : p.attnThreshold ≠ 0) : (produceEntry p ev (newRing e base count)).attn = false := by
  have positive : 0 < p.attnThreshold.toNat := Nat.pos_of_ne_zero fun zero => threshold (BitVec.eq_of_toNat_eq zero)
  have one : 1 % (2 * count) = 1 := Nat.mod_eq_of_lt (by omega)
  have unreleased : unreleased { newRing e base count with
      list := (newRing e base count).list ++ [newItem (newRing e base count) ev]
      produce := nextIndex (newRing e base count) (newRing e base count).produce
      unwritten := (newRing e base count).unwritten + 1 } = 1 := by
    simp only [unreleased, nextIndex, newRing, Nat.zero_add, one, Nat.sub_zero, Nat.add_mod_right]
  refine (attnTest_of_low _ _ _ (by rw [unreleased]; decide) ?_).1
  rw [visible, unreleased]
  simpa [newRing] using positive

end

/-! ## The spans of the ring's indices (R158) -/

/-- The distance from one index to another, which count modulo 2N. -/
theorem span_eq {n a b : Nat} (ha : a < 2 * n) (hb : b < 2 * n) :
    (a + 2 * n - b) % (2 * n) = if b ≤ a then a - b else a + 2 * n - b := by
  split
  · rw [show a + 2 * n - b = a - b + 2 * n by omega, Nat.add_mod_right, Nat.mod_eq_of_lt (by omega)]
  · rw [Nat.mod_eq_of_lt (by omega)]

section
variable {e : EventWriter} {new : Nat}

/-- A release index that RELEASE_EVENTS takes (R152). -/
def InSpan (e : EventWriter) (new : Nat) : Prop :=
  new < 2 * e.count ∧ (new + 2 * e.count - e.release) % (2 * e.count) ≤ unreleased e

theorem releaseValid_iff : releaseValid e new = true ↔ InSpan e new := by simp [releaseValid, InSpan]

variable (range : RingInRange e) (inSpan : InSpan e new)
include range inSpan

theorem unreleased_release : unreleased { e with release := new } =
    unreleased e - (new + 2 * e.count - e.release) % (2 * e.count) := by
  obtain ⟨count, produce, release, _, _⟩ := range
  obtain ⟨below, within⟩ := inSpan
  unfold unreleased at within ⊢
  rw [span_eq produce release, span_eq below release] at within ⊢
  rw [span_eq produce below]
  split_ifs at within ⊢ <;> omega

theorem unreleased_release_eq_zero_iff : unreleased { e with release := new } = 0 ↔ new = e.produce := by
  obtain ⟨count, produce, _, _, _⟩ := range
  have below := inSpan.1
  rw [unreleased, span_eq produce below]
  split <;> omega

theorem unreleased_release_lt (moved : new ≠ e.release) : unreleased { e with release := new } < unreleased e := by
  rw [unreleased_release range inSpan]
  obtain ⟨count, produce, release, _, _⟩ := range
  obtain ⟨below, within⟩ := inSpan
  rw [span_eq below release] at within ⊢
  split_ifs at within ⊢ <;> omega

end

/-! ## The ATTN line (R163) -/

/-- From one Event Writer to the next the line stays high, or is asserted by count, which stops its timer. -/
def LineMoves (p : Params) (e f : EventWriter) : Prop :=
  (f.attn = true ↔ e.attn = true ∨ p.attnThreshold.toNat ≤ visible f) ∧
  f.attnTimer = if e.attn = false ∧ f.attn = true then none else e.attnTimer

/-- The test asserts the line by count, where no entry has become visible for the first time. -/
theorem lineMoves_attnTest {p : Params} {before : Nat} {e : EventWriter} (some : unreleased e ≠ 0)
    (seen : before = 0 → visible e = 0) : LineMoves p e (attnTest p before e) := by
  unfold LineMoves
  rw [visible_attnTest]
  by_cases high : p.attnThreshold.toNat ≤ visible e
  · obtain ⟨on, timer⟩ := attnTest_of_high p before e some high
    refine ⟨by simp [on, high], ?_⟩
    by_cases was : e.attn = false
    · rw [if_pos ⟨was, on⟩, timer was]
    · rw [if_neg fun h => was h.1, attnTest, if_neg some, if_pos (by simpa using was)]
  · have low := Nat.lt_of_not_le high
    obtain ⟨line, _, timer⟩ := attnTest_of_low p before e some low
    refine ⟨by simp [line, high], ?_⟩
    rw [line, if_neg (by simp)]
    by_cases zero : before = 0
    · rw [attnTest, if_neg some, if_neg (c := p.attnThreshold.toNat ≤ visible e) high,
        if_neg (c := before = 0 ∧ _) fun starts => absurd starts.2.1 (by rw [seen zero]; decide)]
      split <;> rfl
    · exact timer (.inl zero)

theorem LineMoves.trans {p : Params} {e f g : EventWriter} (h : LineMoves p e f) (k : LineMoves p f g)
    (same : visible g = visible f) : LineMoves p e g := by
  obtain ⟨line, timer⟩ := h
  obtain ⟨lineThen, timerThen⟩ := k
  rw [same] at lineThen
  refine ⟨by rw [lineThen, line, same, or_assoc, or_self], ?_⟩
  rw [timerThen, timer]
  cases was : e.attn <;> cases on : f.attn <;> cases last : g.attn <;> simp_all

/-! ## Entries that are produced (R159) -/

/-- From one Event Writer to the next `n` entries are produced, none of which is visible yet. -/
structure Made (p : Params) (n : Nat) (e f : EventWriter) : Prop where
  others : f = { e with
    produce := f.produce, unwritten := f.unwritten, lost := f.lost, list := f.list, attn := f.attn,
    attnTimer := f.attnTimer }
  produce : f.produce = (e.produce + n) % (2 * e.count)
  unwritten : f.unwritten = e.unwritten + n
  unreleased : unreleased f = Machine.unreleased e + n
  line : LineMoves p e f

section
variable {p : Params} {m n : Nat} {e f g : EventWriter}

theorem Made.count (h : Made p n e f) : f.count = e.count := by rw [h.others]

theorem Made.release (h : Made p n e f) : f.release = e.release := by rw [h.others]

theorem Made.visible (h : Made p n e f) : visible f = Machine.visible e := by
  rw [Machine.visible, h.unreleased, h.unwritten, Nat.add_sub_add_right, Machine.visible]

theorem Made.trans (h : Made p m e f) (k : Made p n f g) : Made p (m + n) e g where
  others := by rw [k.others, h.others]
  produce := by rw [k.produce, h.count, h.produce, Nat.mod_add_mod, Nat.add_assoc]
  unwritten := by rw [k.unwritten, h.unwritten, Nat.add_assoc]
  unreleased := by rw [k.unreleased, h.unreleased, Nat.add_assoc]
  line := h.line.trans k.line k.visible

/-- The lost count is no part of the ring. -/
theorem Made.of_lost {lost : BitVec 32} (h : Made p n { e with lost := lost } f) : Made p n e f where
  others := by rw [h.others]
  produce := h.produce
  unwritten := h.unwritten
  unreleased := h.unreleased
  line := h.line

theorem Made.lost (h : Made p n e f) (lost : BitVec 32) : Made p n e { f with lost := lost } where
  others := by
    rw [h.others]
  produce := h.produce
  unwritten := h.unwritten
  unreleased := h.unreleased
  line := h.line

theorem made_produceEntry (ev : Event) (range : RingInRange e) (room : unreleased e < e.count) :
    Made p 1 e (produceEntry p ev e) := by
  have next := unreleased_produceEntry p ev e range room
  rw [produceEntry, unreleased_attnTest] at next
  refine ⟨?_, produceEntry_produce .., attnTest_unwritten .., unreleased_produceEntry p ev e range room, ?_⟩
  · rw [produceEntry, attnTest_eq]
  · refine lineMoves_attnTest (by rw [next]; exact Nat.succ_ne_zero _) fun zero => ?_
    rw [visible, next]
    rw [visible] at zero
    show unreleased e + 1 - (e.unwritten + 1) = 0
    rw [Nat.add_sub_add_right, zero]

end

/-! ## What a release makes of the line -/

/-- The ATTN line and its timer after a release to `new`: a release of everything deasserts the line, and a count at
the threshold asserts it. -/
def LineReleased (p : Params) (new : Nat) (e f : EventWriter) : Prop :=
  (f.attn = true ↔ (new ≠ e.produce ∧ e.attn = true) ∨ p.attnThreshold.toNat ≤ visible f) ∧
  f.attnTimer = if new = e.produce ∨ (e.attn = false ∧ f.attn = true) then none else e.attnTimer

section
variable {p : Params} {new : Nat} {e f : EventWriter}

theorem lineReleased_of_moves (some : new ≠ e.produce) (h : LineMoves p e f) : LineReleased p new e f := by
  obtain ⟨line, timer⟩ := h
  refine ⟨by simp [line, some], ?_⟩
  rw [timer]
  simp only [some, false_or]

theorem lineReleased_of_all {e1 : EventWriter} (all : new = e.produce) (low : e1.attn = false)
    (stopped : e1.attnTimer = none) (h : LineMoves p e1 f) : LineReleased p new e f := by
  obtain ⟨line, timer⟩ := h
  refine ⟨by simp [line, all, low], ?_⟩
  rw [timer, stopped, ite_self]
  exact (if_pos (Or.inl all)).symm

variable (range : RingInRange e) (inSpan : InSpan e new)
include range inSpan

/-- What the release itself makes of the line. -/
theorem lineMoves_release (some : new ≠ e.produce) :
    LineMoves p e (attnTest p (visible e) { e with release := new }) := by
  have left := unreleased_release range inSpan
  refine lineMoves_attnTest (e := { e with release := new })
    (fun zero => some ((unreleased_release_eq_zero_iff range inSpan).mp zero)) fun zero => ?_
  rw [visible] at zero ⊢
  rw [left]
  show unreleased e - _ - e.unwritten = 0
  omega

theorem lineReleased_release {n : Nat} (h : Made p n (attnTest p (visible e) { e with release := new }) f) :
    LineReleased p new e f := by
  by_cases all : new = e.produce
  · have test := attnTest_of_none p (visible e) { e with release := new }
      ((unreleased_release_eq_zero_iff range inSpan).mpr all)
    refine lineReleased_of_all all ?_ ?_ h.line
    · rw [test]
    · rw [test]
  · exact lineReleased_of_moves all ((lineMoves_release range inSpan all).trans h.line h.visible)

end

/-! ## RELEASE_EVENTS (R152, R161) -/

section
variable {l : Line} {s : State} {tag : BitVec 16} {new : Nat}

theorem exec_releaseEvents_of_takes (h : Takes s l 10) : exec .releaseEvents s = .next
    (if releaseValid (popLine s).ev (lineU32 l 4).toNat = true then releaseTo (popLine s) (lineTag l) (lineU32 l 4).toNat
      else done (popLine s) .badArgument (lineTag l) codeReleaseEvents) :=
  take_of_takes s l 10 (· == codeReleaseEvents) (fun l t =>
    if releaseValid t.ev (lineU32 l 4).toNat then releaseTo t (lineTag l) (lineU32 l 4).toNat
    else done t .badArgument (lineTag l) codeReleaseEvents) h rfl

theorem lostDue_iff : lostDue s new = true ↔ new ≠ s.ev.release ∧ s.ev.lost ≠ 0 := by simp [lostDue]

theorem setRelease_of_same (h : new = s.ev.release) : setRelease s new = s := if_pos h

theorem setRelease_of_moved (h : new ≠ s.ev.release) : setRelease s new =
    s.modEv fun e => attnTest s.params (visible e) { e with release := new } := if_neg h

theorem setRelease_frame (s : State) (new : Nat) : SameBut [.ev] s (setRelease s new) := by
  unfold setRelease
  split
  · exact .refl _ s
  · exact modEv_frame s _

theorem releaseTo_of_due (moved : new ≠ s.ev.release) (lost : s.ev.lost ≠ 0) : releaseTo s tag new =
    emit (reportLost (setRelease s new)) (releaseDone tag) := if_pos (lostDue_iff.mpr ⟨moved, lost⟩)

section
variable (quiet : new = s.ev.release ∨ s.ev.lost = 0)
include quiet

theorem not_lostDue : ¬lostDue s new = true := by
  rw [lostDue_iff]
  rintro ⟨moved, lost⟩
  obtain same | none := quiet
  · exact moved same
  · exact lost none

theorem releaseTo_of_all (all : new = s.ev.produce) : releaseTo s tag new =
    (setRelease s new).modEv (produceReleased s.params (releaseDone tag)) := by
  rw [releaseTo, if_neg (not_lostDue quiet), if_pos all]

theorem releaseTo_of_some (some : new ≠ s.ev.produce) : releaseTo s tag new =
    emit (setRelease s new) (releaseDone tag) := by
  rw [releaseTo, if_neg (not_lostDue quiet), if_neg some]

end

end

end Sys2Proof.Machine
end

section
/-! PROOFS. What SET_EVENT_RING and RELEASE_EVENTS leave (R151, R152, R161, R162, R163). -/

namespace Sys2Proof.Machine

/-! ## An event that is requested -/

section
variable {s : State} (ev : Event)

theorem ev_emit_of_room (room : unreleased s.ev < s.ev.count) : (emit s ev).ev = produceEntry s.params ev s.ev := by
  rw [emit_of_room s ev room]
  rfl

theorem stats_emit_of_unreleased (room : unreleased s.ev < s.ev.count) : (emit s ev).stats = s.stats := by
  rw [emit_of_room s ev room]
  rfl

theorem made_emit (range : RingInRange s.ev) (room : unreleased s.ev < s.ev.count) :
    Made s.params 1 s.ev (emit s ev).ev := by
  rw [ev_emit_of_room ev room]
  exact made_produceEntry ev range room

theorem lost_emit_of_room (room : unreleased s.ev < s.ev.count) : (emit s ev).ev.lost = s.ev.lost := by
  rw [ev_emit_of_room ev room, produceEntry_lost]

end

/-! ## C takes a new value -/

/-- The Event Writer with C moved to `new` (R161). -/
def releasedTo (s : State) (new : Nat) : EventWriter :=
  attnTest s.params (visible s.ev) { s.ev with release := new }

section
variable {s : State} {tag : BitVec 16} {new : Nat}

theorem ev_setRelease (moved : new ≠ s.ev.release) : (setRelease s new).ev = releasedTo s new := by
  rw [setRelease_of_moved moved]
  rfl

theorem releasedTo_eq : releasedTo s new = { s.ev with
    release := new, attn := (releasedTo s new).attn, attnTimer := (releasedTo s new).attnTimer } := attnTest_eq ..

theorem release_releasedTo : (releasedTo s new).release = new := attnTest_release ..

theorem releasedTo_others : releasedTo s new = { s.ev with
    release := (releasedTo s new).release, attn := (releasedTo s new).attn,
    attnTimer := (releasedTo s new).attnTimer } := by
  rw [release_releasedTo]
  exact releasedTo_eq

theorem list_setRelease : (setRelease s new).ev.list = s.ev.list := by
  unfold setRelease
  split
  · rfl
  · exact attnTest_list ..

theorem eventsOf_setRelease : eventsOf (setRelease s new) = eventsOf s := by
  rw [eventsOf, list_setRelease, eventsOf]

variable (range : RingInRange s.ev) (inSpan : InSpan s.ev new)
include range inSpan

theorem ringInRange_releasedTo : RingInRange (releasedTo s new) :=
  ringInRange_attnTest (ringInRange_release (releaseValid_iff.mpr inSpan) range)

theorem unreleased_releasedTo : unreleased (releasedTo s new) =
    unreleased s.ev - (new + 2 * s.ev.count - s.ev.release) % (2 * s.ev.count) :=
  (unreleased_attnTest ..).trans (unreleased_release range inSpan)

theorem room_releasedTo (moved : new ≠ s.ev.release) : unreleased (releasedTo s new) < (releasedTo s new).count := by
  have fewer := unreleased_release_lt range inSpan moved
  have within := range.2.2.2.2
  rw [releasedTo, unreleased_attnTest, attnTest_count]
  exact fewer.trans_le within

/-! ## EVENTS_LOST on the room that a release frees (R161) -/

section
variable (moved : new ≠ s.ev.release)
include moved

/-- EVENTS_LOST takes the first slot that the release frees. -/
theorem made_reportLost : Made s.params 1 (releasedTo s new) (reportLost (setRelease s new)).ev ∧
    (reportLost (setRelease s new)).ev.lost = 0 ∧ (reportLost (setRelease s new)).stats = s.stats ∧
    eventsOf (reportLost (setRelease s new)) = eventsOf s ++ [.eventsLost s.ev.lost] := by
  have released := ev_setRelease moved
  have room := room_releasedTo range inSpan moved
  have params : (setRelease s new).params = s.params := (setRelease_frame s new).params (by decide)
  have lost : (setRelease s new).ev.lost = s.ev.lost := by
    rw [released]
    exact attnTest_lost ..
  have zeroed : ((setRelease s new).modEv fun e => { e with lost := 0 }).ev = { releasedTo s new with lost := 0 } := by
    rw [State.modEv_ev, released]
  have space : unreleased ((setRelease s new).modEv fun e => { e with lost := 0 }).ev <
      ((setRelease s new).modEv fun e => { e with lost := 0 }).ev.count := by rwa [zeroed]
  have made := made_emit (.eventsLost (setRelease s new).ev.lost)
    (s := (setRelease s new).modEv fun e => { e with lost := 0 }) (by rw [zeroed]; exact ringInRange_releasedTo range inSpan)
    space
  rw [zeroed, State.modEv_params, params] at made
  refine ⟨made.of_lost, ?_, ?_, ?_⟩
  · rw [reportLost, lost_emit_of_room _ space, zeroed]
  · rw [reportLost, stats_emit_of_unreleased _ space, State.modEv_stats, (setRelease_frame s new).stats (by decide)]
  · rw [reportLost, eventsOf_emit _ _ (Nat.succ_le_of_lt space), lost]
    exact congrArg (· ++ _) eventsOf_setRelease

end

end

/-! ## What a release leaves -/

/-- The fields of the Event Writer that a release may change. -/
def SameWriter (e f : EventWriter) : Prop :=
  f = { e with
    produce := f.produce, release := f.release, unwritten := f.unwritten, lost := f.lost, list := f.list,
    attn := f.attn, attnTimer := f.attnTimer }

theorem SameWriter.trans {e f g : EventWriter} (h : SameWriter e f) (k : SameWriter f g) : SameWriter e g := by
  rw [SameWriter, k, h]

theorem sameWriter_attnTest (p : Params) (n : Nat) (e : EventWriter) : SameWriter e (attnTest p n e) := by
  rw [SameWriter, attnTest_eq]

theorem sameWriter_emit (s : State) (ev : Event) : SameWriter s.ev (emit s ev).ev := by
  unfold emit
  split
  · exact SameWriter.trans (by rfl) (sameWriter_attnTest ..)
  · rfl

theorem sameWriter_setRelease (s : State) (new : Nat) : SameWriter s.ev (setRelease s new).ev := by
  unfold setRelease
  split
  · rfl
  · exact SameWriter.trans (f := { s.ev with release := new }) (by rfl) (sameWriter_attnTest ..)

theorem sameWriter_releaseTo (s : State) (tag : BitVec 16) (new : Nat) : SameWriter s.ev (releaseTo s tag new).ev := by
  have set := sameWriter_setRelease s new
  unfold releaseTo
  split
  · have zeroed : SameWriter (setRelease s new).ev ((setRelease s new).modEv fun e => { e with lost := 0 }).ev := by rfl
    exact ((set.trans zeroed).trans (sameWriter_emit _ _)).trans (sameWriter_emit _ _)
  · split
    · exact set.trans (SameWriter.trans (by rfl) (sameWriter_attnTest ..))
    · exact set.trans (sameWriter_emit _ _)

theorem release_setRelease (s : State) (new : Nat) : (setRelease s new).ev.release = new := by
  unfold setRelease
  split
  next same => exact same.symm
  next => exact attnTest_release ..

theorem releaseTo_frame (s : State) (tag : BitVec 16) (new : Nat) : SameBut [.ev, .stats] s (releaseTo s tag new) := by
  have set := (setRelease_frame s new).mono (ps := [.ev, .stats]) rfl
  have reported : SameBut [.ev, .stats] s (reportLost (setRelease s new)) :=
    (set.then (modEv_frame _ _) rfl).then (emit_frame _ _) rfl
  unfold releaseTo
  split
  · exact reported.then (emit_frame _ _) rfl
  · split
    · exact set.then (modEv_frame _ _) rfl
    · exact set.then (emit_frame _ _) rfl

theorem marks_reportLost (s : State) : MarksCounted s (reportLost s) 0 :=
  MarksCounted.same (m := 0) ((modEv_frame s fun e => { e with lost := 0 }).marks (by decide)) (marks_emit _ _)

theorem marks_releaseTo (s : State) (tag : BitVec 16) (new : Nat) : MarksCounted s (releaseTo s tag new) 0 := by
  have set := (setRelease_frame s new).marks (by decide)
  unfold releaseTo
  split
  · exact (set.same (marks_reportLost _)).same (marks_emit _ _)
  · split
    · exact set.same ((modEv_frame _ _).marks (by decide))
    · exact set.same (marks_emit _ _)

section
variable {s : State} (tag : BitVec 16) {new : Nat} (range : RingInRange s.ev) (inSpan : InSpan s.ev new)
include range inSpan

/-- With room for COMMAND_DONE too, a release that frees room reports the events lost before it. -/
theorem releaseTo_of_due_of_room (moved : new ≠ s.ev.release) (lost : s.ev.lost ≠ 0)
    (room : unreleased (releasedTo s new) + 2 ≤ s.ev.count) : ∃ t, releaseTo s tag new = t ∧
      Made s.params 2 (releasedTo s new) t.ev ∧ t.ev.lost = 0 ∧ t.stats = s.stats ∧
      eventsOf t = eventsOf s ++ [.eventsLost s.ev.lost, releaseDone tag] := by
  obtain ⟨made, none, stats, told⟩ := made_reportLost range inSpan moved
  have size : (releasedTo s new).count = s.ev.count := attnTest_count ..
  have space : unreleased (reportLost (setRelease s new)).ev < (reportLost (setRelease s new)).ev.count := by
    rw [made.unreleased, made.count, size]
    omega
  have first : RingInRange (reportLost (setRelease s new)).ev := emit_ringInRange _ _ (by
    rw [State.modEv_ev, ev_setRelease moved]
    exact ringInRange_releasedTo range inSpan)
  have params : (reportLost (setRelease s new)).params = s.params :=
    ((emit_frame _ _).params (by decide)).trans ((setRelease_frame s new).params (by decide))
  have next := made_emit (releaseDone tag) first space
  rw [params] at next
  refine ⟨_, releaseTo_of_due moved lost, made.trans next, ?_, ?_, eventsOf_emit_emit told (Nat.succ_le_of_lt space)⟩
  · rw [lost_emit_of_room _ space, none]
  · rw [stats_emit_of_unreleased _ space, stats]

/-- EVENTS_LOST takes the one slot that was freed, and COMMAND_DONE is lost. -/
theorem releaseTo_of_due_of_full (moved : new ≠ s.ev.release) (lost : s.ev.lost ≠ 0)
    (full : s.ev.count < unreleased (releasedTo s new) + 2) : ∃ t, releaseTo s tag new = t ∧
      Made s.params 1 (releasedTo s new) t.ev ∧ t.ev.lost = 1 ∧ t.stats = (count s .eventsLost).stats ∧
      eventsOf t = eventsOf s ++ [.eventsLost s.ev.lost] := by
  obtain ⟨made, none, stats, told⟩ := made_reportLost range inSpan moved
  have size : (releasedTo s new).count = s.ev.count := attnTest_count ..
  have noSpace : ¬unreleased (reportLost (setRelease s new)).ev < (reportLost (setRelease s new)).ev.count := by
    rw [made.unreleased, made.count, size]
    omega
  have emitted := emit_of_full _ (releaseDone tag) noSpace
  have ev : (emit (reportLost (setRelease s new)) (releaseDone tag)).ev =
      { (reportLost (setRelease s new)).ev with lost := 1 } := by
    rw [emitted]
    show loseEvent (reportLost (setRelease s new)).ev = _
    rw [loseEvent, none]
    rfl
  refine ⟨_, releaseTo_of_due moved lost, ?_, ?_, ?_, ?_⟩
  · rw [ev]
    exact made.lost 1
  · rw [ev]
  · rw [emitted]
    show (countBy (reportLost (setRelease s new)) .eventsLost 1).stats = _
    rw [countBy, State.modStats_stats, stats]
    rfl
  · rw [eventsOf, ev, ← told, eventsOf]

end

/-- Where no EVENTS_LOST is due and something stays unreleased, COMMAND_DONE is produced alone. -/
theorem releaseTo_of_some_of_room {s : State} (tag : BitVec 16) {new : Nat} (range : RingInRange s.ev)
    (inSpan : InSpan s.ev new) (quiet : new = s.ev.release ∨ s.ev.lost = 0) (some : new ≠ s.ev.produce)
    (room : unreleased s.ev - (new + 2 * s.ev.count - s.ev.release) % (2 * s.ev.count) < s.ev.count) :
    ∃ e1 t, releaseTo s tag new = t ∧ Made s.params 1 e1 t.ev ∧ e1.count = s.ev.count ∧ e1.produce = s.ev.produce ∧
      e1.unwritten = s.ev.unwritten ∧ LineReleased s.params new s.ev t.ev ∧ t.ev.lost = s.ev.lost ∧
      t.stats = s.stats ∧ eventsOf t = eventsOf s ++ [releaseDone tag] := by
  have ends : releaseTo s tag new = emit (setRelease s new) (releaseDone tag) := releaseTo_of_some quiet some
  have left := unreleased_release range inSpan
  by_cases same : new = s.ev.release
  · rw [setRelease_of_same same] at ends
    have space : unreleased s.ev < s.ev.count := by
      rw [← left, same] at room
      exact room
    have made := made_emit (releaseDone tag) range space
    exact ⟨s.ev, _, ends, made, rfl, rfl, rfl, lineReleased_of_moves some made.line, lost_emit_of_room _ space,
      stats_emit_of_unreleased _ space, eventsOf_emit _ _ (Nat.succ_le_of_lt space)⟩
  · have released := ev_setRelease same
    have space : unreleased (setRelease s new).ev < (setRelease s new).ev.count := by
      rw [released]
      exact room_releasedTo range inSpan same
    have made := made_emit (releaseDone tag) (by rw [released]; exact ringInRange_releasedTo range inSpan) space
    rw [released, (setRelease_frame s new).params (by decide)] at made
    refine ⟨_, _, ends, made, attnTest_count .., attnTest_produce .., attnTest_unwritten ..,
      lineReleased_release range inSpan made, ?_, ?_, ?_⟩
    · rw [lost_emit_of_room _ space, released]
      exact attnTest_lost ..
    · rw [stats_emit_of_unreleased _ space, (setRelease_frame s new).stats (by decide)]
    · rw [eventsOf_emit _ _ (Nat.succ_le_of_lt space), eventsOf_setRelease]

/-- A release on a full ring that leaves C where it was loses COMMAND_DONE. -/
theorem ev_releaseTo_of_full {s : State} (tag : BitVec 16) {new : Nat} (range : RingInRange s.ev)
    (same : new = s.ev.release) (full : unreleased s.ev = s.ev.count) : (releaseTo s tag new).ev = loseEvent s.ev := by
  have some : new ≠ s.ev.produce := fun all => by
    have empty : unreleased s.ev = 0 := by simp [unreleased, ← same, all]
    have size := range.1
    omega
  rw [releaseTo_of_some (.inl same) some, setRelease_of_same same, emit_of_full _ _ full.not_lt]
  rfl

/-- A release of everything releases its own COMMAND_DONE. -/
theorem ev_releaseTo_of_all {s : State} (tag : BitVec 16) {new : Nat} (quiet : new = s.ev.release ∨ s.ev.lost = 0)
    (all : new = s.ev.produce) : ∃ t, releaseTo s tag new = t ∧ t.ev = { s.ev with
      produce := nextIndex s.ev s.ev.produce, release := nextIndex s.ev s.ev.produce
      unwritten := s.ev.unwritten + 1, list := t.ev.list, attn := false, attnTimer := none } ∧
      t.stats = s.stats ∧ eventsOf t = eventsOf s ++ [releaseDone tag] := by
  obtain ⟨e1, set, release, others⟩ : ∃ e1, (setRelease s new).ev = e1 ∧ e1.release = s.ev.produce ∧
      e1 = { s.ev with release := e1.release, attn := e1.attn, attnTimer := e1.attnTimer } := by
    by_cases same : new = s.ev.release
    · exact ⟨s.ev, by rw [setRelease_of_same same], same.symm.trans all, rfl⟩
    · exact ⟨_, ev_setRelease same, release_releasedTo.trans all, releasedTo_others⟩
  have produce : e1.produce = s.ev.produce := by rw [others]
  have size : e1.count = s.ev.count := by rw [others]
  have index : nextIndex e1 = nextIndex s.ev := by
    funext i
    rw [nextIndex, nextIndex, size]
  have ev : (releaseTo s tag new).ev = produceReleased s.params (releaseDone tag) e1 := by
    rw [releaseTo_of_all quiet all, State.modEv_ev, set]
  have empty : unreleased { e1 with
      list := e1.list ++ [newItem e1 (releaseDone tag)], produce := nextIndex e1 e1.produce
      unwritten := e1.unwritten + 1, release := nextIndex e1 e1.release } = 0 := by
    simp [unreleased, release, produce]
  rw [produceReleased, attnTest_of_none _ _ _ empty] at ev
  refine ⟨_, rfl, ?_, ?_, ?_⟩
  · rw [ev]
    dsimp only
    rw [release, produce, index]
    rw [others]
  · rw [releaseTo_of_all quiet all, State.modEv_stats, (setRelease_frame s new).stats (by decide)]
  · have list : e1.list = s.ev.list := by rw [others]
    rw [eventsOf, ev, List.map_append, list]
    rfl

end Sys2Proof.Machine

namespace Sys2Proof.Proofs

open Sys2Proof.Machine

/-- Settles O47: the new ring by its checks and its first entry; a release by the steps of R161. -/
theorem eventRingCommands : Obligations.EventRingCommands := by
  refine ⟨fun l s h => ?_, fun l s h range => ?_⟩
  · have taken := exec_setEventRing_of_takes h
    have ev : (popLine s).ev = s.ev := (popLine_frame s).ev (by decide)
    intro u base n good refusedWith
    refine ⟨fun bad => ?_, fun is some => ?_, fun is empty overlaps => ?_, fun is empty apart => ?_⟩
    · exact taken.trans (congrArg _ (takeRing_of_bad bad))
    · exact taken.trans (congrArg _ (takeRing_of_unreleased is (by rwa [ev])))
    · exact taken.trans (congrArg _ ((takeRing_of_empty is (by rwa [ev])).trans (if_pos overlaps)))
    · have size : 0 < n := by
        obtain ⟨_, _, counts⟩ := is
        simp only [List.mem_cons, List.not_mem_nil, or_false] at counts
        omega
      have installed : (installRing u base n).ev = newRing s.ev base n := by rw [ev_installRing, ev]
      have room : unreleased (installRing u base n).ev < (installRing u base n).ev.count := by
        rw [installed]
        simpa [newRing, unreleased] using size
      have produced := ev_emit_of_room (.commandDone .ok (lineTag l) 9 0 0) room
      have params : (installRing u base n).params = s.params := (popLine_frame s).params (by decide)
      have one : 1 % (2 * n) = 1 := Nat.mod_eq_of_lt (by omega)
      rw [installed, params] at produced
      refine ⟨_, taken.trans (congrArg _ ((takeRing_of_empty is (by rwa [ev])).trans
        (if_neg (Bool.eq_false_iff.mp apart)))), ?_⟩
      rw [attnPin, produced]
      refine ⟨?_, ?_, ?_, ?_, ?_, ?_, ?_, fun threshold => attn_produceEntry_newRing size threshold, ?_, ?_, ?_⟩
      · rw [produceEntry, attnTest_ringBase]
        exact Nat.mod_eq_of_lt is.1
      · exact attnTest_count ..
      · rw [produceEntry_produce]
        exact one
      · exact produceEntry_release ..
      · exact produceEntry_write ..
      · exact attnTest_unwritten ..
      · exact produceEntry_lost ..
      · rw [produceEntry_list, newItem_newRing is.1 size]
        rfl
      · rw [(emit_frame _ _).mem (by decide)]
        show { u.mem with outstanding := u.mem.outstanding.map MemRequest.replaced } = _
        have outstanding : u.mem.outstanding = s.mem.outstanding := (holdEnds_popLine s).outstanding
        rw [outstanding]
      · rw [emit_of_room _ _ room]
        exact (((modEv_frame u _).mono rfl).then (modMem_frame _ _) rfl).then (modEv_frame _ _) rfl
  · have taken := exec_releaseEvents_of_takes h
    have ev : (popLine s).ev = s.ev := (popLine_frame s).ev (by decide)
    have params : (popLine s).params = s.params := (popLine_frame s).params (by decide)
    have stats : (popLine s).stats = s.stats := (popLine_frame s).stats (by decide)
    have told : eventsOf (popLine s) = eventsOf s := eventsOf_popLine s
    have range' : RingInRange (popLine s).ev := by rwa [ev]
    have left := fun (is : InSpan (popLine s).ev (lineU32 l 4).toNat) => unreleased_releasedTo range' is
    have counted : (count (popLine s) .eventsLost).stats = (count s .eventsLost).stats := by
      rw [count, countBy, State.modStats_stats, stats]
      rfl
    have size : (releasedTo (popLine s) (lineU32 l 4).toNat).count = s.ev.count := by rw [releasedTo_others, ev]
    have produce : (releasedTo (popLine s) (lineU32 l 4).toNat).produce = s.ev.produce := by rw [releasedTo_others, ev]
    have unwritten : (releasedTo (popLine s) (lineU32 l 4).toNat).unwritten = s.ev.unwritten := by
      rw [releasedTo_others, ev]
    intro u new inSpan ok
    refine ⟨fun beyond => ?_, ?_⟩
    · refine taken.trans (congrArg _ (if_neg fun valid => beyond ?_))
      rw [releaseValid_iff, ev] at valid
      exact valid
    intro freed leftover is
    have is' : InSpan u.ev new := by rwa [InSpan, ev]
    have run : exec .releaseEvents s = .next (releaseTo u (lineTag l) new) :=
      taken.trans (congrArg _ (if_pos (releaseValid_iff.mpr is')))
    have left := left is'
    rw [ev] at left
    refine ⟨_, run, releaseTo_frame .., (marks_popLine s).same (marks_releaseTo ..), ?_, ⟨fun moved lost => ?_,
      fun quiet all => ?_, fun quiet some => ⟨?_, fun room => ?_⟩⟩, fun same full => ?_⟩
    · have writer := sameWriter_releaseTo u (lineTag l) new
      rw [SameWriter, ev] at writer
      exact writer
    · have moved' : new ≠ u.ev.release := by rwa [ev]
      have lost' : u.ev.lost ≠ 0 := by rwa [ev]
      have release : (releaseTo u (lineTag l) new).ev.release = new := by
        rw [releaseTo_of_due moved' lost', emit_release, reportLost, emit_release]
        exact release_setRelease u new
      have line (n : Nat) (made : Made u.params n (releasedTo u new) (releaseTo u (lineTag l) new).ev) :
          LineReleased s.params new s.ev (releaseTo u (lineTag l) new).ev := by
        have moves := lineReleased_release range' is' made
        rwa [ev, params] at moves
      have makes (n : Nat) (made : Made u.params n (releasedTo u new) (releaseTo u (lineTag l) new).ev) :
          (releaseTo u (lineTag l) new).ev.produce = (s.ev.produce + n) % (2 * s.ev.count) ∧
            (releaseTo u (lineTag l) new).ev.unwritten = s.ev.unwritten + n := by
        rw [made.produce, made.unwritten, size, produce, unwritten]
        exact ⟨rfl, rfl⟩
      by_cases room : leftover + 2 ≤ s.ev.count
      · obtain ⟨_, rfl, made, none, same, events⟩ :=
          releaseTo_of_due_of_room (lineTag l) range' is' moved' lost' (by rw [left, ev]; exact room)
        refine ⟨release, line 2 made, fun _ => ⟨none, same.trans stats, makes 2 made, ?_⟩,
          fun full => absurd full (Nat.not_lt.mpr room)⟩
        rw [events, told, ev]
        rfl
      · obtain ⟨_, rfl, made, one, same, events⟩ :=
          releaseTo_of_due_of_full (lineTag l) range' is' moved' lost' (by rw [left, ev]; exact Nat.lt_of_not_le room)
        refine ⟨release, line 1 made, fun fits => absurd fits room,
          fun _ => ⟨one, same.trans counted, makes 1 made, ?_⟩⟩
        rw [events, told, ev]
    · obtain ⟨_, rfl, writer, same, events⟩ :=
        ev_releaseTo_of_all (s := u) (lineTag l) (by rwa [ev]) (by rwa [ev])
      rw [ev] at writer
      refine ⟨?_, ?_, same.trans stats, ⟨?_, ?_⟩, ?_, ?_, ?_⟩
      · rw [writer]
      · rw [writer]
      · rw [writer]
        rfl
      · rw [writer]
      · rw [attnPin, writer]
      · rw [writer]
      · rw [events, told]
        rfl
    · rw [releaseTo_of_some (by rwa [ev]) (by rwa [ev]), emit_release]
      exact release_setRelease u new
    · obtain ⟨e1, _, rfl, made, size', produce', unwritten', line, lost, same, events⟩ :=
        releaseTo_of_some_of_room (lineTag l) range' is' (by rwa [ev]) (by rwa [ev]) (by rw [ev]; exact room)
      rw [ev] at size' produce' unwritten' line lost
      rw [params] at line
      refine ⟨lost, same.trans stats, ⟨?_, ?_⟩, line, ?_⟩
      · rw [made.produce, size', produce']
      · rw [made.unwritten, unwritten']
      · rw [events, told]
        rfl
    · exact (ev_releaseTo_of_full _ range' (by rwa [ev]) (by rwa [ev])).trans (by rw [ev]; rfl)

end Sys2Proof.Proofs
end

section
/-! PROOFS. The drain test of CLOSING (R51) and the command DISCONNECT (R50). -/

namespace Sys2Proof.Machine

/-! ## A session that has drained (R51) -/

section
variable {s : State}

theorem isDry_iff (s : State) : isDry s = true ↔ s.capture.sync = [] ∧ s.capture.async = [] ∧ s.tx.replay = [] := by
  simp [isDry, and_assoc]

theorem drainTest_of_not (h : ¬(s.session.state = .closing ∧ isDry s = true)) : drainTest s = s := if_neg h

/-- The state once the last ACK, if one is due, and the PART are generated. -/
def lastFrames (s : State) : State := { s with
  tx := { s.tx with control := s.tx.control ++
    (if 0 < s.rx.unacked then [⟨s.session.epoch, .ack s.rx.ackPoint⟩] else []) ++
    [⟨s.session.epoch, .part s.tx.highest⟩] }
  rx := { s.rx with unacked := 0, ackTimer := if 0 < s.rx.unacked then none else s.rx.ackTimer } }

theorem drainTest_of_drained (closing : s.session.state = .closing) (dry : isDry s = true) :
    drainTest s = loseSession (lastFrames s) .disconnected 0 := by
  rw [drainTest, if_pos ⟨closing, dry⟩]
  by_cases due : 0 < s.rx.unacked
  · rw [if_pos due, lastFrames, if_pos due, if_pos due]
    rfl
  · have none : s.rx.unacked = 0 := Nat.eq_zero_of_not_pos due
    have same : ({ s.rx with unacked := 0, ackTimer := s.rx.ackTimer } : Receiver) = s.rx := by rw [← none]
    rw [if_neg due, lastFrames, if_neg due, if_neg due, List.append_nil, same]
    rfl

theorem lastFrames_frame (s : State) : SameBut [.tx, .rx] s (lastFrames s) := by
  constructor <;> intro out <;> first | rfl | exact absurd (by decide) out

theorem TornDown.of_lastFrames {t : State} {c : LossCause} {part : BitVec 32} (h : TornDown (lastFrames s) t c part) :
    TornDown s t c part :=
  ⟨h.session, h.regions, h.buffers, h.turn, h.commands, h.hold, h.marks, h.events⟩

section
variable (closing : s.session.state = .closing) (dry : isDry s = true) (fences : s.fences = [])
include closing dry fences

/-- The loss of a drained session leaves the regions, the queues and the Resync Engine alone. -/
theorem loseSession_of_drained : lossBody s .disconnected 0 = loseSession s .disconnected 0 ∧
    SameBut [.session, .tx, .rx] s ((failAllFences (lossWork s .disconnected)).modRx fun r => { r with ackTimer := none }) := by
  obtain ⟨sync, async, replay⟩ := (isDry_iff s).mp dry
  have work := lossWork_of_drained .disconnected closing sync async replay
  refine ⟨?_, ?_⟩
  · rw [loseSession_eq, if_neg (by simp [closing])]
  · rw [failAllFences_of_none (by rw [work.fences (by decide), fences])]
    exact (work.mono rfl).then (modRx_frame _ _) rfl

theorem loseSession_of_drained_frame : SameBut [.session, .tx, .rx, .ev, .stats] s (loseSession s .disconnected 0) := by
  obtain ⟨body, before⟩ := loseSession_of_drained closing dry fences
  rw [← body, lossBody_eq, sessionReported]
  exact ((before.mono rfl).then (emit_frame _ _) rfl).then (completeDisconnect_frame _) rfl

theorem marks_loseSession_of_drained : MarksCounted s (loseSession s .disconnected 0) 0 := by
  obtain ⟨body, before⟩ := loseSession_of_drained closing dry fences
  rw [← body, lossBody_eq, sessionReported]
  exact ((before.marks (by decide)).same (marks_emit _ _)).same (marks_completeDisconnect _)

/-- It is reported by SESSION_DOWN and by the pending DISCONNECT's OK. -/
theorem eventsOf_loseSession_of_drained {tag : BitVec 16} (pending : s.session.pendingDisconnect = some tag)
    (room : ringRoom s 2) : eventsOf (loseSession s .disconnected 0) = eventsOf s ++
      [.sessionDown .disconnected s.session.epoch s.tx.highest
        (if s.rx.accepted = true then seqPred s.rx.expected else 0) 0, .commandDone .ok tag 2 0 0] := by
  obtain ⟨body, before⟩ := loseSession_of_drained closing dry fences
  have waits : (sessionReported s .disconnected 0).session.pendingDisconnect = some tag := by
    rw [sessionReported, (emit_frame _ _).session (by decide), State.modRx_session,
      (failAllFences_frame _).session (by decide), pendingDisconnect_lossWork, pending]
  have room' : ringRoom ((failAllFences (lossWork s .disconnected)).modRx fun r => { r with ackTimer := none }) 2 := by
    rwa [ringRoom, before.ev (by decide)]
  have told : eventsOf (sessionReported s .disconnected 0) = eventsOf s ++ [.sessionDown .disconnected s.session.epoch
      s.tx.highest (if s.rx.accepted = true then seqPred s.rx.expected else 0) 0] := by
    rw [sessionReported, eventsOf_emit _ _ (ringRoom_mono room' (by decide)), eventsOf, before.ev (by decide), ← eventsOf]
  rw [← body, lossBody_eq, completeDisconnect, waits]
  exact eventsOf_emit_emit (t := (sessionReported s .disconnected 0).modSession fun x => { x with pendingDisconnect := none })
    told (ringRoom_emit _ _ 1 room')

end

/-- What the drain test leaves of a drained session. -/
theorem drained_leaves (closing : s.session.state = .closing) (dry : isDry s = true) (fences : s.fences = []) :
    SameBut [.session, .tx, .rx, .ev, .stats] s (drainTest s) ∧ MarksCounted s (drainTest s) 0 ∧
    (drainTest s).session = lostSession s s.session ∧
    (drainTest s).tx.control = s.tx.control ++
      (if 0 < s.rx.unacked then [⟨s.session.epoch, .ack s.rx.ackPoint⟩] else []) ++
      [⟨s.session.epoch, .part s.tx.highest⟩] ∧
    ∀ tag, s.session.pendingDisconnect = some tag → ringRoom s 2 → eventsOf (drainTest s) = eventsOf s ++
      [.sessionDown .disconnected s.session.epoch s.tx.highest
        (if s.rx.accepted = true then seqPred s.rx.expected else 0) 0, .commandDone .ok tag 2 0 0] := by
  have frame := lastFrames_frame s
  have dry' : isDry (lastFrames s) = true := dry
  rw [drainTest_of_drained closing dry]
  refine ⟨?_, ?_, session_loseSession .., ?_, fun tag pending room => ?_⟩
  · exact (frame.mono rfl).then (loseSession_of_drained_frame (s := lastFrames s) closing dry' fences) rfl
  · exact (frame.marks (by decide)).same (marks_loseSession_of_drained (s := lastFrames s) closing dry' fences)
  · rw [(sessionEnded_loseSession (lastFrames s) .disconnected 0).2.2.1, if_pos rfl,
      if_neg fun up => absurd (closing.symm.trans up.1) (by decide), List.append_nil]
    rfl
  · exact eventsOf_loseSession_of_drained (s := lastFrames s) closing dry' fences pending room

end

end Sys2Proof.Machine
end

section
/-! PROOFS. The command DISCONNECT (R50). -/

namespace Sys2Proof.Machine

/-! ## Entry into CLOSING -/

section
variable (s : State) (tag : BitVec 16)

/-- The session on its entry into CLOSING. -/
def closingSession (s : State) (tag : BitVec 16) : State :=
  s.modSession fun x => { x with state := .closing, enable := false, pendingDisconnect := some tag }

/-- The state on entry into CLOSING, before the drain test. -/
def closingBegun (s : State) (tag : BitVec 16) : State :=
  failAllFences (resyncLeavesUp (sweep (closingSession s tag)))

theorem enterClosing_eq : enterClosing s tag = drainTest (closingBegun s tag) := rfl

theorem closingSwept_frame :
    SameBut [.session, .regions, .fences, .mem, .ev, .stats] s (sweep (closingSession s tag)) :=
  ((modSession_frame s _).mono rfl).then (sweep_frame _) rfl

theorem closingBegun_frame :
    SameBut [.session, .regions, .fences, .resync, .mem, .ev, .stats] s (closingBegun s tag) :=
  (((closingSwept_frame s tag).mono rfl).then (resyncLeavesUp_frame _) rfl).then (failAllFences_frame _) rfl

theorem session_closingBegun : (closingBegun s tag).session =
    { s.session with state := .closing, enable := false, pendingDisconnect := some tag } := by
  rw [closingBegun, (failAllFences_frame _).session (by decide), (resyncLeavesUp_frame _).session (by decide),
    (sweep_frame _).session (by decide)]
  rfl

theorem fences_closingBegun : (closingBegun s tag).fences = [] := by
  rw [closingBegun, failAllFences, fences_completeFences]
  exact List.filter_eq_nil_iff.mpr fun f _ => by simp

theorem isDry_closingBegun : isDry (closingBegun s tag) = isDry s := by
  have frame := closingBegun_frame s tag
  rw [isDry, isDry, frame.capture (by decide), frame.tx (by decide)]

theorem resync_closingSwept : (sweep (closingSession s tag)).resync = s.resync :=
  (closingSwept_frame s tag).resync (by decide)

theorem resync_closingBegun : (closingBegun s tag).resync = (resyncLeavesUp (sweep (closingSession s tag))).resync :=
  (failAllFences_frame _).resync (by decide)

theorem buffersFreed_closingBegun : BuffersFreed s (closingBegun s tag) [] (UnderWay s) := by
  have freed := buffersFreed_resyncLeavesUp (sweep (closingSession s tag))
  unfold BuffersFreed UnderWay at freed ⊢
  rwa [resync_closingSwept, ← resync_closingBegun] at freed

theorem turn_closingBegun : (closingBegun s tag).resync.turn = s.resync.turn := by
  rw [resync_closingBegun, turn_resyncLeavesUp, resync_closingSwept]

theorem marks_failAllFences (t : State) : MarksCounted t (failAllFences t) 0 :=
  marks_completeFences t (fun _ => true) .notDurable .sessionDown none

theorem Counting.closingBegun {s t : State} (h : Counting s t) (tag : BitVec 16) :
    Counting s (Machine.closingBegun t tag) := by
  have begun : Counting s (closingSession t tag) := h.frame (modSession_frame t _) (by decide) (by decide)
  unfold Machine.closingBegun
  exact begun.sweep.resyncLeavesUp.step (marks_failAllFences _) (failAllFences_frame _) (by decide)

theorem mem_closingBegun : (closingBegun s tag).mem = (resyncLeavesUp (sweep (closingSession s tag))).mem :=
  (failAllFences_frame _).mem (by decide)

theorem holdEnds_closingBegun : HoldEnds s.mem (closingBegun s tag).mem (SweepEndsHold s) := by
  have swept : HoldEnds s.mem (sweep (closingSession s tag)).mem (∃ e, (s.entry e).state = .mirrored ∧ HeldOn s e) :=
    holdEnds_sweep (closingSession s tag)
  have ended := holdEnds_resyncLeavesUp (sweep (closingSession s tag))
  rw [← mem_closingBegun] at ended
  have later := ended.congr (q := UnderWay s ∧ ∃ b q, s.resync.reserved = some (b, q) ∧
      ((sweep (closingSession s tag)).mem.hold = .blockRead ∨
        (q = .sync ∧ (sweep (closingSession s tag)).mem.hold = .syncFull)))
    (by rw [UnderWay, ReleaseEndsHold, resync_closingSwept]; rfl)
  exact swept.then (q := fun r => UnderWay s ∧ ∃ b q, s.resync.reserved = some (b, q) ∧
    (r = .blockRead ∨ (q = .sync ∧ r = .syncFull))) later (by simp)

/-- The events of the entry: each MIRRORED region lags and each pending fence fails. -/
theorem reports_closingBegun : ∃ more, Reports s (closingBegun s tag) 32 more ∧
    (∀ e, (s.entry e).state = .mirrored → .regionState .sessionDown e .source .mirrored .lagging ∈ more) ∧
    ∀ f ∈ s.fences, FenceFailed more f := by
  obtain ⟨swept, first, regions⟩ := reports_sweep (closingSession s tag)
  obtain ⟨ended, second⟩ := reports_resyncLeavesUp (sweep (closingSession s tag))
  have third := reports_completeFences (resyncLeavesUp (sweep (closingSession s tag))) (fun _ => true) .sessionDown none
  have begun : Reports s (closingSession s tag) 0 [] := .of_frame (modSession_frame s _) (by decide) (by decide)
  have all := ((begun.trans first).trans second).trans third
  refine ⟨_, all, fun e mirrored => List.mem_append_left _ (List.mem_append_left _ (regions e mirrored)), fun f pending => ?_⟩
  obtain ⟨g, still, _⟩ | failed := all.fences f pending
  · have none : (closingBegun s tag).fences = [] := fences_closingBegun s tag
    rw [closingBegun, failAllFences] at none
    rw [none] at still
    cases still
  · exact failed

/-- The drain test behind the entry leaves the regions, the queues and the Resync Engine alone. -/
theorem drainTest_closingBegun_changes :
    SameBut [.session, .tx, .rx, .ev, .stats] (closingBegun s tag) (drainTest (closingBegun s tag)) ∧
    MarksCounted (closingBegun s tag) (drainTest (closingBegun s tag)) 0 := by
  have closing : (closingBegun s tag).session.state = .closing := by rw [session_closingBegun]
  by_cases dry : isDry (closingBegun s tag) = true
  · obtain ⟨changes, marks, _⟩ := drained_leaves closing dry (fences_closingBegun s tag)
    exact ⟨changes, marks⟩
  · rw [drainTest_of_not fun h => dry h.2]
    exact ⟨.refl _ _, .of_stats rfl⟩

variable {s tag} {e : RegionIx}

theorem marked_closingBegun (e : RegionIx) :
    (markable (s.entry e).state = true → Marked s (closingBegun s tag) e
      (if (s.entry e).state = .mirrored then .lagging else (s.entry e).state) (InProgress s e)) ∧
    (markable (s.entry e).state = false → (closingBegun s tag).entry e = s.entry e) := by
  have swept : (sweep (closingSession s tag)).entry e =
      if (s.entry e).state = .mirrored then { s.entry e with state := .lagging } else s.entry e :=
    entry_sweep (closingSession s tag) e
  have state : ((sweep (closingSession s tag)).entry e).state =
      if (s.entry e).state = .mirrored then .lagging else (s.entry e).state := by
    rw [swept]
    split <;> rfl
  have first : Marked s (sweep (closingSession s tag)) e
      (if (s.entry e).state = .mirrored then .lagging else (s.entry e).state) fun _ => False := by
    refine .of_entry ?_
    rw [swept]
    split
    · rfl
    · rfl
  obtain ⟨marked, unmarked⟩ := marked_resyncLeavesUp (sweep (closingSession s tag)) e
  have last := failAllFences_frame (resyncLeavesUp (sweep (closingSession s tag)))
  refine ⟨fun may => ?_, fun not => ?_⟩
  · have next := marked (by rw [state]; split <;> first | rfl | exact may)
    rw [state] at next
    refine Marked.frame ((first.trans next).congr fun k => ?_) last (by decide)
    rw [false_or, InProgress, InProgress, resync_closingSwept]
  · have still : (s.entry e).state ≠ .mirrored := fun mirrored => by rw [mirrored] at not; cases not
    have same : (sweep (closingSession s tag)).entry e = s.entry e := by rw [swept, if_neg still]
    have stays := unmarked (congrArg (fun en : Entry => markable en.state) same |>.trans not)
    rw [closingBegun, last.entry (by decide), stays, same]

end

/-! ## DISCONNECT (R50) -/

section
variable {l : Line} {s : State} {tag : BitVec 16}

theorem exec_disconnect_of_takes (h : Takes s l 2) : exec .disconnect s = .next (disconnect (popLine s) (lineTag l)) :=
  take_of_takes s l 2 (· == codeDisconnect) (fun l t => disconnect t (lineTag l)) h rfl

theorem disconnect_of_idle (idle : s.session.state = .disabled ∨ s.session.state = .closing) :
    disconnect s tag = emit s (.commandDone .ok tag 2 0 0) := by
  unfold disconnect
  obtain disabled | closing := idle
  · rw [disabled]
    rfl
  · rw [closing]
    rfl

theorem disconnect_of_calling (calling : s.session.state = .calling) : disconnect s tag = emit { s with
    session := { s.session with state := .disabled, enable := false, epoch := 0, joinTimer := none }
    tx := { s.tx with control := [] } } (.commandDone .ok tag 2 0 0) := by
  unfold disconnect
  rw [calling]
  rfl

theorem disconnect_of_up (up : s.session.state = .up) : disconnect s tag = drainTest (closingBegun s tag) := by
  unfold disconnect
  rw [up]
  rfl

end

/-! ## What the take leaves for the command -/

section
variable {s t : State}

theorem Marked.of_popLine {e : RegionIx} {state : RegionState} {more : Nat → Prop}
    (h : Marked (popLine s) t e state more) : Marked s t e state more := by
  unfold Marked at h ⊢
  rwa [entry_popLine] at h

theorem InProgress_popLine (e : RegionIx) : InProgress (popLine s) e = InProgress s e := by
  funext k
  rw [InProgress, (popLine_frame s).resync (by decide), InProgress]

/-- The end of a COMMAND_FULL hold stands before the other holds that a command ends. -/
theorem sweepEndsHold_of_popLine (h : HoldEnds (popLine s).mem t.mem (SweepEndsHold (popLine s))) :
    HoldEnds s.mem t.mem (s.mem.hold = .commandFull ∨ SweepEndsHold s) := by
  have first := holdEnds_popLine s
  have frame := popLine_frame s
  have head : headRegion (popLine s) = headRegion s := headRegion_congr first.head fun i a => by rw [entry_popLine]
  let ends : HoldReason → Prop := fun r =>
    (∃ e, (s.entry e).state = .mirrored ∧ ((r = .syncFull ∨ r = .blockRead) ∧ headRegion s = some e)) ∨
    (UnderWay s ∧ ∃ b q, s.resync.reserved = some (b, q) ∧ (r = .blockRead ∨ (q = .sync ∧ r = .syncFull)))
  have same : SweepEndsHold (popLine s) ↔ ends (popLine s).mem.hold := by
    simp only [SweepEndsHold, HeldOn, UnderWay, ReleaseEndsHold, head, entry_popLine, frame.resync (by decide), ends]
  exact first.then (q := ends) (h.congr same) (by simp [ends])

end

end Sys2Proof.Machine

namespace Sys2Proof.Proofs

open Sys2Proof.Machine

/-- Settles O42: by the session state; in UP by what the entry into CLOSING leaves, and the drain test behind it. -/
theorem disconnect : Obligations.Disconnect := by
  intro l s h
  have taken := exec_disconnect_of_takes h
  have frame := popLine_frame s
  have session : (popLine s).session = s.session := frame.session (by decide)
  have state := state_popLine s
  have dry : isDry (popLine s) = isDry s := by rw [isDry, frame.capture (by decide), frame.tx (by decide), isDry]
  intro u ok
  refine ⟨fun idle => ?_, fun calling => ?_, fun up => ?_⟩
  · rw [taken, disconnect_of_idle (by rwa [state])]
  · rw [taken, disconnect_of_calling (by rwa [state]), session, frame.tx (by decide)]
  have run : exec .disconnect s = .next (drainTest (closingBegun u (lineTag l))) := by
    rw [taken, disconnect_of_up (by rwa [state])]
  have begun := closingBegun_frame u (lineTag l)
  have dry' : isDry (closingBegun u (lineTag l)) = isDry s := (isDry_closingBegun u (lineTag l)).trans dry
  have closing : (closingBegun u (lineTag l)).session.state = .closing := by rw [session_closingBegun]
  obtain ⟨changes, marks⟩ := drainTest_closingBegun_changes u (lineTag l)
  obtain ⟨more, reports, regions, failed⟩ := reports_closingBegun u (lineTag l)
  have fences : u.fences = s.fences := frame.fences (by decide)
  have told : eventsOf u = eventsOf s := eventsOf_popLine s
  refine ⟨_, run, fun e => ?_, ?_, ?_, ?_, ?_, ?_, ?_, fun room => ⟨more, ?_, fun e mirrored => ?_, fun f pending => ?_⟩,
    isDry_iff s, fun wet => ⟨?_, ?_⟩, fun dry => ⟨?_, ?_, ?_⟩⟩
  · obtain ⟨marked, unmarked⟩ := marked_closingBegun (s := u) (tag := lineTag l) e
    rw [entry_popLine, InProgress_popLine] at marked
    rw [entry_popLine] at unmarked
    cases is : (s.entry e).state with
    | mirrored | lagging | refused =>
      rw [is] at marked
      exact (marked rfl).of_popLine.frame changes (by decide)
    | free | draining | accepting | failed | releasing =>
      rw [is] at unmarked
      exact (changes.entry (by decide) e).trans (unmarked rfl)
  · rw [changes.fences (by decide), fences_closingBegun]
  · have freed := buffersFreed_closingBegun u (lineTag l)
    unfold BuffersFreed UnderWay at freed ⊢
    rwa [← changes.resync (by decide), frame.resync (by decide)] at freed
  · rw [changes.resync (by decide), turn_closingBegun, frame.resync (by decide)]
  · rw [changes.mem (by decide)]
    exact sweepEndsHold_of_popLine (holdEnds_closingBegun u (lineTag l))
  · exact ((((Counting.refl s).frame frame (by decide) (by decide)).closingBegun (lineTag l)).step marks changes
      (by decide)).counted
  · rw [changes.cmd (by decide), begun.cmd (by decide)]
  · have within := reports.within
    rw [fences_closingBegun, List.length_nil, fences] at within
    obtain ⟨events, left⟩ := reports.told 2 (ringRoom_mono (ringRoom_popLine room) (by omega))
    rw [told] at events
    by_cases dry : isDry s = true
    · obtain ⟨_, _, _, _, down⟩ := drained_leaves closing (dry'.trans dry) (fences_closingBegun u (lineTag l))
      rw [down (lineTag l) (by rw [session_closingBegun]) left, events, if_pos dry, session_closingBegun, session,
        begun.tx (by decide), frame.tx (by decide), begun.rx (by decide), frame.rx (by decide)]
    · rw [drainTest_of_not fun h => dry (dry'.symm.trans h.2), events, if_neg dry, List.append_nil]
  · exact regions e (by rwa [entry_popLine])
  · exact failed f (by rwa [fences])
  · rw [drainTest_of_not fun h => by rw [dry', wet] at h; exact absurd h.2 (by decide), session_closingBegun, session]
  · rw [drainTest_of_not fun h => by rw [dry', wet] at h; exact absurd h.2 (by decide)]
    exact (frame.mono rfl).then begun rfl
  · obtain ⟨_, _, lost, _⟩ := drained_leaves closing (dry'.trans dry) (fences_closingBegun u (lineTag l))
    rw [lost, session_closingBegun, session]
    rfl
  · obtain ⟨_, _, _, control, _⟩ := drained_leaves closing (dry'.trans dry) (fences_closingBegun u (lineTag l))
    rw [control, session_closingBegun, session, begun.tx (by decide), frame.tx (by decide), begun.rx (by decide),
      frame.rx (by decide)]
  · exact ((frame.mono rfl).then begun rfl).then changes rfl

end Sys2Proof.Proofs
end

section
/-! PROOFS. The completion of apply entries (R74, R76, R77, R78, R116, R117, R124). -/

namespace Sys2Proof.Machine

/-! ## An event that is requested, in one piece (R159) -/

/-- What the request of an event makes of the Event Writer. -/
def evAfter (p : Params) (e : EventWriter) (ev : Event) : EventWriter :=
  if unreleased e < e.count then produceEntry p ev e else loseEvent e

/-- What it makes of the statistics: on a full ring the event is counted lost. -/
def statsAfter (e : EventWriter) (v : Vector (BitVec 64) 16) : Vector (BitVec 64) 16 :=
  if unreleased e < e.count then v else setAt v (statIx .eventsLost) (v[statIx .eventsLost] + 1)

/-- The request of an event reads the Event Writer and the parameters, and changes the Event Writer and the statistics
alone. -/
theorem emit_eq (s : State) (ev : Event) : emit s ev =
    { s with ev := evAfter s.params s.ev ev, stats := statsAfter s.ev s.stats } := by
  unfold emit evAfter statsAfter
  split <;> rfl

theorem timeBase_evAfter (p : Params) (e : EventWriter) (ev : Event) : (evAfter p e ev).timeBase = e.timeBase := by
  unfold evAfter
  split
  · exact attnTest_timeBase ..
  · rfl

/-! ## The steps of a completion -/

theorem setApplyWait_eq (s : State) : setApplyWait s (s.mem.applyWait - 1) = { s with mem := applyLeft s.mem 1 } := by
  unfold setApplyWait applyLeft
  split
  · by_cases last : s.mem.applyWait ≤ 1
    · rw [if_pos last, if_pos (Nat.sub_eq_zero_of_le last)]
      rfl
    · rw [if_neg last, if_neg (by omega)]
      rfl
  · rfl

theorem applyLeft_applyLeft (m : MemPath) (a b : Nat) : applyLeft (applyLeft m a) b = applyLeft m (a + b) := by
  unfold applyLeft
  by_cases held : m.hold = .applyPending
  · rw [if_pos held, if_pos held]
    by_cases first : m.applyWait ≤ a
    · rw [if_pos first, if_pos (first.trans (Nat.le_add_right a b)), if_neg (by simp)]
    · rw [if_neg first, if_pos (by exact held)]
      by_cases second : m.applyWait ≤ a + b
      · rw [if_pos second, if_pos (by dsimp only; omega)]
      · rw [if_neg second, if_neg (by dsimp only; omega), Nat.sub_sub]
  · rw [if_neg held, if_neg held, if_neg held]

theorem completionTaken_congr {s t : State} (rx : t.rx = s.rx) (session : t.session = s.session)
    (params : t.params = s.params) (clock : t.ev.timeBase = s.ev.timeBase) (seq : BitVec 32) (free : Nat) :
    completionTaken t seq free = completionTaken s seq free := by
  unfold completionTaken inSession
  rw [rx, session, params, clock]

/-- What the Link Receiver makes of a completion, but for the comparison. -/
def ackedReceiver (s : State) (seq : BitVec 32) : Receiver :=
  if 0 < s.rx.carried then { s.rx with carried := s.rx.carried - 1 }
  else if inSession s then
    if s.rx.unacked + 1 = 16 then { s.rx with ackPoint := seq, unacked := 0, ackTimer := none }
    else { s.rx with
      ackPoint := seq, unacked := s.rx.unacked + 1
      ackTimer := if s.rx.unacked = 0 then some (s.ev.timeBase + s.params.ackDelay) else s.rx.ackTimer }
  else { s.rx with ackPoint := seq }

/-- The ACK that the 16th unacknowledged completion draws. -/
def acksDrawn (s : State) (seq : BitVec 32) : List ControlFrame :=
  if s.rx.carried = 0 ∧ inSession s = true ∧ s.rx.unacked + 1 = 16 then [⟨s.session.epoch, .ack seq⟩] else []

theorem ackedReceiver_others (s : State) (seq : BitVec 32) : (ackedReceiver s seq).deferred = s.rx.deferred ∧
    (ackedReceiver s seq).expected = s.rx.expected := by
  unfold ackedReceiver
  split_ifs <;> exact ⟨rfl, rfl⟩

theorem completionTaken_eq (s : State) (seq : BitVec 32) (free : Nat) : completionTaken s seq free =
    match s.rx.deferred with
    | some need =>
      if inSession s = true ∧ need ≤ free then
        ({ ackedReceiver s seq with compareDue := false, retrySent := true, deferred := none },
          acksDrawn s seq ++ [⟨s.session.epoch, .retry s.rx.expected⟩])
      else ({ ackedReceiver s seq with compareDue := false }, acksDrawn s seq)
    | none => ({ ackedReceiver s seq with compareDue := false }, acksDrawn s seq) := by
  have taken : (if 0 < s.rx.carried then { s.rx with carried := s.rx.carried - 1, compareDue := false }
      else if inSession s then
        if s.rx.unacked + 1 = 16 then { s.rx with ackPoint := seq, unacked := 0, ackTimer := none, compareDue := false }
        else { s.rx with
          ackPoint := seq, unacked := s.rx.unacked + 1, compareDue := false
          ackTimer := if s.rx.unacked = 0 then some (s.ev.timeBase + s.params.ackDelay) else s.rx.ackTimer }
      else { s.rx with ackPoint := seq, compareDue := false } : Receiver) =
      { ackedReceiver s seq with compareDue := false } := by
    unfold ackedReceiver
    split_ifs <;> rfl
  unfold completionTaken
  dsimp only
  rw [taken]
  rfl

theorem ackCompletion_eq (s : State) (seq : BitVec 32) : ackCompletion s seq = { s with
    rx := ackedReceiver s seq, tx := { s.tx with control := s.tx.control ++ acksDrawn s seq } } := by
  unfold ackCompletion ackedReceiver acksDrawn
  by_cases carried : 0 < s.rx.carried
  · rw [if_pos carried, if_pos carried, if_neg fun h => by omega, List.append_nil]
    rfl
  · rw [if_neg carried, if_neg carried]
    have zero : s.rx.carried = 0 := Nat.eq_zero_of_not_pos carried
    by_cases session : inSession s = true
    · rw [if_pos session, if_pos session]
      by_cases due : s.rx.unacked + 1 = 16
      · refine (if_pos (show s.rx.unacked + 1 = 16 from due)).trans ?_
        rw [if_pos (c := s.rx.carried = 0 ∧ _) ⟨zero, session, due⟩, if_pos due]
        rfl
      · refine (if_neg (show ¬s.rx.unacked + 1 = 16 from due)).trans ?_
        rw [if_neg (c := s.rx.carried = 0 ∧ _) fun h => due h.2.2, if_neg due, List.append_nil]
        rfl
    · rw [if_neg session, if_neg session, if_neg fun h => session h.2.1, List.append_nil]
      rfl

/-! The comparison that a completion makes for a deferred RETRY (R76). -/

section
variable {s : State} (due : s.rx.compareDue = true)
include due

theorem deferredCheck_of_room {need : Nat} (deferred : s.rx.deferred = some need)
    (room : inSession s = true ∧ need ≤ freeEntries s) : deferredCheck s = { s with
      tx := { s.tx with control := s.tx.control ++ [⟨s.session.epoch, .retry s.rx.expected⟩] }
      rx := { s.rx with compareDue := false, retrySent := true, deferred := none } } := by
  rw [deferredCheck, if_pos due, deferred]
  exact if_pos (by simpa using room)

theorem deferredCheck_of_full {need : Nat} (deferred : s.rx.deferred = some need)
    (full : ¬(inSession s = true ∧ need ≤ freeEntries s)) :
    deferredCheck s = { s with rx := { s.rx with compareDue := false } } := by
  rw [deferredCheck, if_pos due, deferred]
  exact if_neg (by simpa using full)

theorem deferredCheck_of_none (none : s.rx.deferred = none) :
    deferredCheck s = { s with rx := { s.rx with compareDue := false } } := by
  rw [deferredCheck, if_pos due, none]
  rfl

end

/-- The state in which a completion makes its comparison. -/
def completionAcked (s : State) (seq : BitVec 32) : State := { s with
  rx := { ackedReceiver s seq with compareDue := true }
  tx := { s.tx with control := s.tx.control ++ acksDrawn s seq } }

theorem receiverStep_eq_deferredCheck (s : State) (seq : BitVec 32) :
    receiverStep s seq = deferredCheck (completionAcked s seq) := by
  rw [receiverStep, ackCompletion_eq]
  rfl

theorem receiverStep_eq (s : State) (seq : BitVec 32) : receiverStep s seq = { s with
    rx := (completionTaken s seq (freeEntries s)).1
    tx := { s.tx with control := s.tx.control ++ (completionTaken s seq (freeEntries s)).2 } } := by
  obtain ⟨deferred, expected⟩ := ackedReceiver_others s seq
  rw [receiverStep_eq_deferredCheck, completionTaken_eq]
  cases is : s.rx.deferred with
  | none => exact deferredCheck_of_none (s := completionAcked s seq) rfl (deferred.trans is)
  | some need =>
    by_cases fits : inSession s = true ∧ need ≤ freeEntries s
    · refine (deferredCheck_of_room (s := completionAcked s seq) rfl (deferred.trans is) fits).trans ?_
      dsimp only [completionAcked]
      rw [if_pos fits, expected, List.append_assoc]
    · refine (deferredCheck_of_full (s := completionAcked s seq) rfl (deferred.trans is) fits).trans ?_
      dsimp only
      rw [if_neg fits]
      rfl

/-! ## The oldest entry completes (R116) -/

section
variable {u : State} {p : ApplyEntry} {rest : List ApplyEntry}

/-- The state once the oldest entry has left the queue. -/
def entryLeft (u : State) (rest : List ApplyEntry) : State :=
  { u with mem := applyLeft u.mem 1, apply := { u.apply with queue := rest } }

theorem entryLeft_eq (u : State) (rest : List ApplyEntry) :
    setApplyWait (u.modApply fun a => { a with queue := rest }) (u.mem.applyWait - 1) = entryLeft u rest :=
  setApplyWait_eq (u.modApply fun a => { a with queue := rest })

theorem completeRecord_eq (t : State) (p : ApplyEntry) :
    completeRecord t p = releaseTarget (receiverStep (appliedStep (noteStep t p) p) p.seq) p := rfl

/-- RECORDS_APPLIED counts a record that completes without an error, unless it was rejected. -/
def recordCounted (t : State) (p : ApplyEntry) : State :=
  match p.kind with
  | .rejected _ => t
  | .line .. | .note .. => if t.apply.headError then t else count t .recordsApplied

theorem recordCounted_frame (t : State) (p : ApplyEntry) : SameBut [.stats] t (recordCounted t p) := by
  unfold recordCounted
  split
  · exact .refl _ t
  all_goals
    split
    · exact .refl _ t
    · exact count_frame t _

theorem recordCounted_entryLeft (t : State) (p : ApplyEntry) (rest : List ApplyEntry) :
    recordCounted (entryLeft t rest) p = entryLeft (recordCounted t p) rest := by
  unfold recordCounted
  cases p.kind with
  | rejected reason => rfl
  | line addr mask data kind | note tag payload =>
    dsimp only
    by_cases error : t.apply.headError = true
    · rw [if_pos error]
      exact if_pos error
    · rw [if_neg error]
      exact if_neg error

theorem noteStep_entryLeft (t : State) (p : ApplyEntry) (rest : List ApplyEntry) :
    noteStep (entryLeft t rest) p = entryLeft (noteStep t p) rest := by
  unfold noteStep
  cases p.kind with
  | note tag payload =>
    dsimp only
    rw [emit_eq, emit_eq]
    rfl
  | line addr mask data kind | rejected reason => rfl

theorem appliedStep_entryLeft (t : State) (p : ApplyEntry) (rest : List ApplyEntry) :
    appliedStep (entryLeft t rest) p = { recordCounted t p with
      mem := applyLeft t.mem 1, apply := { t.apply with queue := rest, headError := false } } := by
  have frame := recordCounted_frame t p
  have step : appliedStep (entryLeft t rest) p =
      (recordCounted (entryLeft t rest) p).modApply fun a => { a with headError := false } := by
    unfold appliedStep recordCounted
    cases p.kind <;> rfl
  rw [step, recordCounted_entryLeft, ← frame.mem (by decide), ← frame.apply (by decide)]
  rfl

theorem noteStep_other (t : State) (p : ApplyEntry) : SameBut [.ev, .stats] t (noteStep t p) ∧
    (noteStep t p).ev.timeBase = t.ev.timeBase := by
  refine ⟨noteStep_frame t p, ?_⟩
  unfold noteStep
  split
  · exact emit_timeBase ..
  · rfl
  · rfl

theorem passiveDone_eq (u : State) (p : ApplyEntry) (rest : List ApplyEntry) : passiveDone u p rest =
    { recordCounted (noteStep u p) p with
      mem := applyLeft u.mem 1
      apply := { u.apply with queue := rest, headError := false }
      rx := (completionTaken u p.seq (128 - rest.length)).1
      tx := { u.tx with control := u.tx.control ++ (completionTaken u p.seq (128 - rest.length)).2 } } := by
  have apply : (noteStep u p).apply = u.apply := (noteStep_frame u p).apply (by decide)
  unfold passiveDone recordCounted
  rw [apply]
  unfold noteStep
  cases p.kind <;> rfl

/-- The steps of a completion, but for the test of the target. -/
theorem recordDone_eq (u : State) (p : ApplyEntry) (rest : List ApplyEntry) :
    receiverStep (appliedStep (noteStep (entryLeft u rest) p) p) p.seq = passiveDone u p rest := by
  obtain ⟨noted, clock⟩ := noteStep_other u p
  have counted := recordCounted_frame (noteStep u p) p
  have changed := (noted.mono (ps := [.ev, .stats]) rfl).then counted rfl
  rw [noteStep_entryLeft, appliedStep_entryLeft, receiverStep_eq, passiveDone_eq]
  have taken : completionTaken { recordCounted (noteStep u p) p with
      mem := applyLeft (noteStep u p).mem 1, apply := { (noteStep u p).apply with queue := rest, headError := false } }
      p.seq (128 - rest.length) = completionTaken u p.seq (128 - rest.length) :=
    completionTaken_congr (changed.rx (by decide)) (changed.session (by decide)) (changed.params (by decide))
      ((congrArg EventWriter.timeBase (counted.ev (by decide))).trans clock) p.seq _
  have free : freeEntries { recordCounted (noteStep u p) p with
      mem := applyLeft (noteStep u p).mem 1, apply := { (noteStep u p).apply with queue := rest, headError := false } } =
      128 - rest.length := rfl
  rw [free, taken]
  dsimp only
  rw [noted.mem (by decide), noted.apply (by decide), counted.tx (by decide), noted.tx (by decide)]

/-- The oldest entry, the last of its record, completes the record. -/
theorem completeOldest_of_last (queue : u.apply.queue = p :: rest) (last : p.last = true) :
    completeOldest u = releaseTarget (passiveDone u p rest) p := by
  unfold completeOldest
  rw [queue]
  dsimp only
  rw [if_pos last, entryLeft_eq, completeRecord_eq, recordDone_eq]

theorem completeOldest_of_more (queue : u.apply.queue = p :: rest) (more : p.last = false)
    (whole : p.cutShort = false) : completeOldest u = entryLeft u rest := by
  unfold completeOldest
  rw [queue]
  dsimp only
  rw [if_neg (by simp [more]), if_neg (by simp [whole]), entryLeft_eq]

theorem completeOldest_of_cut (queue : u.apply.queue = p :: rest) (more : p.last = false) (cut : p.cutShort = true) :
    completeOldest u = releaseTarget ((entryLeft u rest).modApply fun a => { a with headError := false }) p := by
  unfold completeOldest
  rw [queue]
  dsimp only
  rw [if_neg (by simp [more]), if_pos cut, entryLeft_eq]

theorem releaseTarget_of_none {t : State} (none : p.target = none) : releaseTarget t p = t := by
  rw [releaseTarget, none]

theorem releaseTarget_of_target {t : State} {e : RegionIx} (target : p.target = some e) :
    releaseTarget t p = releaseEntry t e := by
  rw [releaseTarget, target]

theorem passive_iff (p : ApplyEntry) : p.passive = true ↔ (∃ reason, p.kind = .rejected reason) ∨
    (∃ tag payload, p.kind = .note tag payload) ∨ ∃ addr data kind, p.kind = .line addr 0 data kind := by
  unfold ApplyEntry.passive
  cases p.kind with
  | line addr mask data kind => simp
  | rejected reason => simp
  | note tag payload => simp

/-- The passive entries that stand next complete one after another. -/
theorem passivesComplete (u : State) : PassivesComplete u := by
  refine ⟨passive_iff, settle_of_active u, fun p rest queue passive => ?_⟩
  have next := settle_passive u p rest queue passive
  refine ⟨fun last => ?_, fun more whole => ?_⟩
  · rw [completeOldest_of_last queue last] at next
    refine ⟨_, next, fun none => releaseTarget_of_none none, fun e target => ?_⟩
    rw [releaseTarget_of_target target]
    exact targetTested_releaseEntry _ e
  · rwa [completeOldest_of_more queue more whole] at next

end

end Sys2Proof.Machine
end

section
/-! PROOFS. Memory's answers to apply writes (R116, R118, R119, R168). -/

namespace Sys2Proof.Machine

/-! ## The error of an apply write (R118, R119) -/

section
variable (s : State) (status : Status) (en : ApplyEntry) (e : RegionIx) (addr : Addr) (kind : RecordKind)
  (rest : List MemRequest)

/-- The claim to FAILED that an error makes on an ACCEPTING target. -/
def targetFailed : State :=
  if status = .error ∧ (s.entry e).state = .accepting then
    emit { s with regions := setAt s.regions e { s.entry e with state := .failed } }
      (.regionState .applyError e .target .accepting .failed)
  else s

/-- APPLY_ERROR, once per record. -/
def errorTold : State :=
  if status = .error ∧ s.apply.headError = false then emit (targetFailed s status e) (.applyError e en.seq kind addr)
  else targetFailed s status e

/-- The REJECT of a record of the session. -/
def rejectsSent : List ControlFrame :=
  if status = .error ∧ s.apply.headError = false ∧ en.epoch = s.session.epoch ∧ inSession s = true then
    [⟨s.session.epoch, .reject en.seq (BitVec.ofNat 8 e.val) .targetFailed⟩] else []

/-- The state once the answer has been taken and its error, if it is one, has been handled. -/
def writeAnswered : State := { errorTold s status en e addr kind with
  mem := { s.mem with outstanding := rest }
  apply := { s.apply with headError := s.apply.headError || status == .error }
  tx := { s.tx with control := s.tx.control ++ rejectsSent s status en e } }

theorem targetFailed_frame : SameBut [.regions, .ev, .stats] s (targetFailed s status e) := by
  unfold targetFailed
  split
  · exact SameBut.then (by constructor <;> intro out <;> first | rfl | exact absurd (by decide) out) (emit_frame _ _) rfl
  · exact .refl _ s

theorem errorTold_frame : SameBut [.regions, .ev, .stats] s (errorTold s status en e addr kind) := by
  unfold errorTold
  split
  · exact (targetFailed_frame s status e).then (emit_frame _ _) rfl
  · exact targetFailed_frame s status e

theorem timeBase_errorTold : (errorTold s status en e addr kind).ev.timeBase = s.ev.timeBase := by
  have failed : (targetFailed s status e).ev.timeBase = s.ev.timeBase := by
    unfold targetFailed
    split
    · exact emit_timeBase ..
    · rfl
  unfold errorTold
  split
  · rw [emit_timeBase, failed]
  · exact failed

theorem claimFailed_answered : claimFailed (s.modMem fun m => { m with outstanding := rest }) e =
    (targetFailed s .error e).modMem fun m => { m with outstanding := rest } := by
  unfold claimFailed targetFailed
  by_cases accepting : (s.entry e).state = .accepting
  · refine (if_pos (show (s.entry e).state = .accepting from accepting)).trans ?_
    rw [if_pos ⟨rfl, accepting⟩, emit_eq, emit_eq]
    rfl
  · refine (if_neg (show ¬(s.entry e).state = .accepting from accepting)).trans ?_
    rw [if_neg fun h => accepting h.2]

variable {en e addr kind} {mask : ByteMask} {data : Line}

theorem applyErrorOf_line (target : en.target = some e) (line : en.kind = .line addr mask data kind) :
    applyErrorOf s en =
      if (claimFailed s e).apply.headError then claimFailed s e
      else
        if en.epoch = s.session.epoch ∧ inSession s = true then
          generate (emit ((claimFailed s e).modApply fun a => { a with headError := true })
            (.applyError e en.seq kind addr)) (.reject en.seq (BitVec.ofNat 8 e.val) .targetFailed)
        else emit ((claimFailed s e).modApply fun a => { a with headError := true }) (.applyError e en.seq kind addr) := by
  rw [applyErrorOf, target, line]

theorem writeAnswered_of_ok :
    writeAnswered s .ok en e addr kind rest = s.modMem fun m => { m with outstanding := rest } := by
  have told : errorTold s .ok en e addr kind = s := by simp [errorTold, targetFailed]
  have none : rejectsSent s .ok en e = [] := by simp [rejectsSent]
  rw [writeAnswered, told, none, List.append_nil, show (Status.ok == Status.error) = false from rfl, Bool.or_false]
  rfl

theorem emit_modMem_modApply (t : State) (f : MemPath → MemPath) (g : ApplyEngine → ApplyEngine) (ev : Event) :
    emit ((t.modMem f).modApply g) ev = ((emit t ev).modMem f).modApply g := by
  rw [emit_eq, emit_eq]
  rfl

theorem applyErrorOf_answered (target : en.target = some e) (line : en.kind = .line addr mask data kind) :
    applyErrorOf (s.modMem fun m => { m with outstanding := rest }) en = writeAnswered s .error en e addr kind rest := by
  have failed := targetFailed_frame s .error e
  have apply : (targetFailed s .error e).apply = s.apply := failed.apply (by decide)
  have session : (targetFailed s .error e).session = s.session := failed.session (by decide)
  rw [applyErrorOf_line _ target line, claimFailed_answered, writeAnswered]
  have error : (s.apply.headError || Status.error == Status.error) = true := Bool.or_true _
  by_cases reported : s.apply.headError = true
  · have told : errorTold s .error en e addr kind = targetFailed s .error e := by simp [errorTold, reported]
    have none : rejectsSent s .error en e = [] := by simp [rejectsSent, reported]
    have same : ({ s.apply with headError := true } : ApplyEngine) = s.apply := by rw [← reported]
    rw [if_pos (by rw [State.modMem_apply, apply, reported]), told, none, List.append_nil, error, same,
      ← apply, ← failed.mem (by decide), ← failed.tx (by decide)]
    rfl
  · have first : s.apply.headError = false := by simpa using reported
    have told : errorTold s .error en e addr kind =
        emit (targetFailed s .error e) (.applyError e en.seq kind addr) := if_pos ⟨rfl, first⟩
    have frame := errorTold_frame s .error en e addr kind
    rw [told] at frame
    rw [if_neg (by rw [State.modMem_apply, apply]; exact reported), emit_modMem_modApply, told, error,
      ← frame.mem (by decide), ← frame.tx (by decide), ← frame.apply (by decide)]
    by_cases own : en.epoch = s.session.epoch ∧ inSession s = true
    · have sent : rejectsSent s .error en e = [⟨s.session.epoch, .reject en.seq (BitVec.ofNat 8 e.val) .targetFailed⟩] :=
        if_pos ⟨rfl, first, own⟩
      rw [if_pos (by exact own), sent, ← frame.session (by decide)]
      generalize emit (targetFailed s .error e) (.applyError e en.seq kind addr) = t
      rfl
    · have none : rejectsSent s .error en e = [] := if_neg fun h => own h.2.2
      rw [if_neg (by exact own), none, List.append_nil]
      generalize emit (targetFailed s .error e) (.applyError e en.seq kind addr) = t
      rfl

end

/-! ## The answer to an apply write (R116) -/

section
variable {s : State} {a : MemAnswer} {r : MemRequest} {rest : List MemRequest} {en : ApplyEntry}
  {queue : List ApplyEntry} {e : RegionIx} {addr : Addr} {mask : ByteMask} {data : Line} {kind : RecordKind}

theorem exec_applyWriteResponse (answers : Answers s a r rest) (source : r.source = .apply) :
    exec (.applyWriteResponse a) s = .next (answerCounted
      (applyResponse (s.modMem fun m => { m with outstanding := rest }) a.status)) := by
  simp only [exec, execApplyWriteResponse,
    takeAnswer_of_answers s a r rest (fun x => x == .apply) answers (by rw [source]; rfl), injectedAnswered_eq]

theorem applyResponse_eq (oldest : s.apply.queue = en :: queue) (target : en.target = some e)
    (line : en.kind = .line addr mask data kind) (status : Status) :
    applyResponse (s.modMem fun m => { m with outstanding := rest }) status =
      settle (completeOldest (writeAnswered s status en e addr kind rest)) := by
  have queue : (s.modMem fun m => { m with outstanding := rest }).apply.queue = en :: queue := oldest
  unfold applyResponse
  rw [queue]
  cases status with
  | ok => rw [writeAnswered_of_ok]
  | error => rw [← applyErrorOf_answered s rest target line]

theorem passiveDone_writeAnswered (line : en.kind = .line addr mask data kind) (status : Status) : passiveDone (writeAnswered s status en e addr kind rest) en queue =
    { (if s.apply.headError || status == .error then errorTold s status en e addr kind
        else count (errorTold s status en e addr kind) .recordsApplied) with
      mem := applyLeft { s.mem with outstanding := rest } 1
      apply := { s.apply with queue := queue, headError := false }
      rx := (completionTaken s en.seq (128 - queue.length)).1
      tx := { s.tx with control :=
        s.tx.control ++ rejectsSent s status en e ++ (completionTaken s en.seq (128 - queue.length)).2 } } := by
  have told := errorTold_frame s status en e addr kind
  have taken : completionTaken (writeAnswered s status en e addr kind rest) en.seq (128 - queue.length) =
      completionTaken s en.seq (128 - queue.length) :=
    completionTaken_congr (told.rx (by decide)) (told.session (by decide)) (told.params (by decide))
      (timeBase_errorTold s status en e addr kind) en.seq _
  have noted : noteStep (writeAnswered s status en e addr kind rest) en = writeAnswered s status en e addr kind rest := by
    rw [noteStep, line]
  have counted : recordCounted (writeAnswered s status en e addr kind rest) en =
      if s.apply.headError || status == .error then writeAnswered s status en e addr kind rest
      else count (writeAnswered s status en e addr kind rest) .recordsApplied := by
    rw [recordCounted, line]
    rfl
  rw [passiveDone_eq, taken, noted, counted]
  by_cases error : (s.apply.headError || status == .error) = true
  · rw [if_pos error, if_pos error]
    rfl
  · rw [if_neg error, if_neg error]
    rfl

variable (answers : Answers s a r rest) (source : r.source = .apply) (oldest : s.apply.queue = en :: queue)
  (target : en.target = some e) (line : en.kind = .line addr mask data kind)
include answers source oldest target line

theorem exec_applyWriteResponse_of_line : exec (.applyWriteResponse a) s = .next (answerCounted
    (settle (completeOldest (writeAnswered s a.status en e addr kind rest)))) := by
  rw [exec_applyWriteResponse answers source, applyResponse_eq oldest target line]

end

/-! ## A completion that draws no frame (R77, R78) -/

theorem completionTaken_of_plain {s : State} (seq : BitVec 32) (free : Nat) (carried : s.rx.carried = 0)
    (session : inSession s = true) (few : s.rx.unacked + 1 ≠ 16) (deferred : s.rx.deferred = none) :
    completionTaken s seq free = ({ s.rx with
      ackPoint := seq, unacked := s.rx.unacked + 1, compareDue := false
      ackTimer := if s.rx.unacked = 0 then some (s.ev.timeBase + s.params.ackDelay) else s.rx.ackTimer }, []) := by
  have acked : ackedReceiver s seq = { s.rx with
      ackPoint := seq, unacked := s.rx.unacked + 1
      ackTimer := if s.rx.unacked = 0 then some (s.ev.timeBase + s.params.ackDelay) else s.rx.ackTimer } := by
    rw [ackedReceiver, if_neg (by omega), if_pos session, if_neg few]
  have none : acksDrawn s seq = [] := if_neg fun h => few h.2.2
  rw [completionTaken_eq, deferred, acked, none]

theorem settle_of_empty {s : State} (empty : s.apply.queue = []) : settle s = s :=
  settle_of_active s fun en head => by simp [empty] at head

/-- A NOTE that stands alone in the queue is delivered and counted. -/
theorem settle_of_note {u : State} {seq : BitVec 32} {epoch : BitVec 16} {tag : BitVec 16} {payload : BitVec 128}
    (queue : u.apply.queue = [⟨seq, epoch, none, .note tag payload, true, false, false⟩])
    (clean : u.apply.headError = false) (carried : u.rx.carried = 0) (session : inSession u = true)
    (few : u.rx.unacked + 1 ≠ 16) (deferred : u.rx.deferred = none) :
    settle u = { count (emit u (.noteReceived tag payload)) .recordsApplied with
      mem := applyLeft u.mem 1
      apply := { u.apply with queue := [] }
      rx := { u.rx with
        ackPoint := seq, unacked := u.rx.unacked + 1, compareDue := false
        ackTimer := if u.rx.unacked = 0 then some (u.ev.timeBase + u.params.ackDelay) else u.rx.ackTimer } } := by
  have emitted : SameBut [.ev, .stats] u (emit u (.noteReceived tag payload)) := emit_frame _ _
  have counted : recordCounted (emit u (.noteReceived tag payload))
      ⟨seq, epoch, none, .note tag payload, true, false, false⟩ = count (emit u (.noteReceived tag payload)) .recordsApplied :=
    if_neg (by rw [emitted.apply (by decide), clean]; decide)
  have tx : (count (emit u (.noteReceived tag payload)) .recordsApplied).tx = u.tx := emitted.tx (by decide)
  have apply : ({ u.apply with queue := [], headError := false } : ApplyEngine) = { u.apply with queue := [] } := by
    rw [← clean]
  have noted : noteStep u ⟨seq, epoch, none, .note tag payload, true, false, false⟩ =
      emit u (.noteReceived tag payload) := rfl
  rw [settle_passive u _ _ queue rfl, completeOldest_of_last queue rfl, releaseTarget_of_none rfl, passiveDone_eq, noted,
    counted, completionTaken_of_plain seq _ carried session few deferred, apply]
  refine (settle_of_empty rfl).trans ?_
  rw [← tx, List.append_nil]

/-- The state once a line, the last of its record, has completed without an error and without drawing a frame. -/
def lineCounted (s : State) (rest : List MemRequest) (queue : List ApplyEntry) (seq : BitVec 32) : State :=
  { count s .recordsApplied with
    mem := applyLeft { s.mem with outstanding := rest } 1
    apply := { s.apply with queue := queue, headError := false }
    rx := { s.rx with
      ackPoint := seq, unacked := s.rx.unacked + 1, compareDue := false
      ackTimer := some (s.ev.timeBase + s.params.ackDelay) } }

end Sys2Proof.Machine

namespace Sys2Proof.Proofs

open Sys2Proof.Machine

/-- Settles O34: what a completion is, the answers that change nothing, and the completion of the line answered. -/
theorem applyAnswers : Obligations.ApplyAnswers := by
  refine ⟨passivesComplete, fun a s none => ?_, ?_⟩
  · simp only [exec, execApplyWriteResponse, takeAnswer_of_noAnswer s a (· = .apply) (fun x => x == .apply) none (by simp)]
  intro a r rest en queue e addr mask data kind s answers source oldest target line
  have run := exec_applyWriteResponse_of_line answers source oldest target line
  have next : (writeAnswered s a.status en e addr kind rest).apply.queue = en :: queue := oldest
  have done (last : en.last = true) : exec (.applyWriteResponse a) s = .next (answerCounted (settle (releaseEntry
      { (if s.apply.headError || a.status == .error then errorTold s a.status en e addr kind
          else count (errorTold s a.status en e addr kind) .recordsApplied) with
        mem := applyLeft { s.mem with outstanding := rest } 1
        apply := { s.apply with queue := queue, headError := false }
        rx := (completionTaken s en.seq (128 - queue.length)).1
        tx := { s.tx with control := s.tx.control ++ rejectsSent s a.status en e ++
          (completionTaken s en.seq (128 - queue.length)).2 } } e))) := by
    rw [run, completeOldest_of_last next last, releaseTarget_of_target target, passiveDone_writeAnswered line]
  intro left taken failed told rejects inError goesOn
  refine ⟨fun last => ⟨_, done last, targetTested_releaseEntry _ e⟩, fun more whole => ?_,
    fun more cut => ⟨_, ?_, targetTested_releaseEntry _ e⟩,
    fun seq epoch tag payload is last good clean stays session carried unacked deferred => ?_⟩
  · rw [run, completeOldest_of_more next more whole]
    rfl
  · rw [run, completeOldest_of_cut next more cut, releaseTarget_of_target target]
    rfl
  · have kept : (s.entry e).state ≠ .releasing := stays
    have clear : (s.apply.headError || a.status == .error) = false := by
      rw [clean, good]
      rfl
    have told : errorTold s a.status en e addr kind = s := by simp [errorTold, targetFailed, good]
    have none : rejectsSent s a.status en e = [] := by simp [rejectsSent, good]
    have few : s.rx.unacked + 1 ≠ 16 := by simp [unacked]
    have first : exec (.applyWriteResponse a) s =
        .next (answerCounted (settle (releaseEntry (lineCounted s rest queue en.seq) e))) := by
      rw [done last, clear, if_neg (by decide), told, none,
        completionTaken_of_plain en.seq _ carried session few deferred, if_pos unacked, List.append_nil, List.append_nil]
      rfl
    rw [first, (targetTested_releaseEntry (lineCounted s rest queue en.seq) e).1 (.inl kept),
      settle_of_note (u := lineCounted s rest queue en.seq) is rfl carried session
        (by simp [lineCounted, unacked]) deferred]
    have held : applyLeft (lineCounted s rest queue en.seq).mem 1 = applyLeft { s.mem with outstanding := rest } 2 :=
      applyLeft_applyLeft _ 1 1
    rw [held, emit_eq, emit_eq]
    simp only [lineCounted, clean, unacked, Nat.zero_add, Nat.reduceAdd, if_neg (by decide : ¬1 = 0)]
    rfl

end Sys2Proof.Proofs
end

section
/-! PROOFS. A sequenced record that is accepted (R75, R114, R116, R117). -/

namespace Sys2Proof.Machine

/-! ## Acceptance -/

/-- The state once a record has been accepted, but for the passive entries that have become the oldest. -/
def recordAccepted (s : State) (seq : BitVec 32) (rec : Inbound) : State := { s with
  apply := { s.apply with queue := s.apply.queue ++ (recordEntries s seq rec).1 }
  tx := { s.tx with
    control := s.tx.control ++ ((recordEntries s seq rec).2.map fun b => ⟨s.session.epoch, b⟩).toList }
  rx := { s.rx with expected := seqSucc s.rx.expected, accepted := true, retrySent := false, deferred := none } }

/-- The frame that an acceptance generates is a REJECT, of the session's epoch. -/
theorem reject_of_recordEntries {s : State} {seq : BitVec 32} {rec : Inbound} {body : ControlBody}
    (sent : (recordEntries s seq rec).2 = some body) : ∃ peer reason, body = .reject seq peer reason := by
  cases rec with
  | note tag payload => cases sent
  | write peer line mask data | block peer block data =>
    unfold recordEntries at sent
    dsimp only at sent
    split at sent
    · cases sent
    · exact ⟨_, _, (Option.some_inj.mp sent).symm⟩

theorem inOrder_of_room {s : State} {seq : BitVec 32} {rec : Inbound}
    (room : (recordEntries s seq rec).1.length ≤ Config.applySlots - s.apply.queue.length) :
    inOrder s seq rec = settle (recordAccepted s seq rec) := by
  refine (if_pos (show (recordEntries s seq rec).1.length ≤ freeEntries s from room)).trans ?_
  unfold acceptRecord recordAccepted
  cases sent : (recordEntries s seq rec).2 with
  | none =>
    simp only [Option.map_none, Option.toList_none, List.append_nil]
    rfl
  | some body =>
    obtain ⟨peer, reason, rfl⟩ := reject_of_recordEntries sent
    rfl

/-- A record of one entry ends with it. -/
theorem last_of_recordEntries {s : State} {seq : BitVec 32} {rec : Inbound} {p : ApplyEntry}
    (single : (recordEntries s seq rec).1 = [p]) : p.last = true := by
  cases rec with
  | note tag payload =>
    obtain ⟨rfl⟩ : ApplyEntry.mk seq s.session.epoch none (.note tag payload) true false false = p := by
      simpa [recordEntries] using single
    rfl
  | write peer line mask data =>
    unfold recordEntries at single
    dsimp only at single
    split at single
    all_goals
      rw [← List.singleton_inj.mp single]
  | block peer block data =>
    unfold recordEntries at single
    dsimp only at single
    split at single
    · have length := congrArg List.length single
      simp [blockEntries] at length
    · rw [← List.singleton_inj.mp single]

/-! ## What the passive entries leave -/

/-- No passive entry is the oldest once they have completed. -/
theorem head_completePassive : ∀ (n : Nat) (s : State), s.apply.queue.length ≤ n →
    ∀ en, (completePassive n s).apply.queue.head? = some en → en.passive = false
  | 0, s, le => fun en head => by
    rw [completePassive, List.length_eq_zero_iff.mp (Nat.le_zero.mp le)] at head
    cases head
  | n + 1, s, le => fun en head => by
    unfold completePassive at head
    split at head
    next empty =>
      rw [empty] at head
      cases head
    next p rest queue =>
      split at head
      next =>
        refine head_completePassive n _ ?_ en head
        rw [queue_completeOldest, List.length_tail]
        exact Nat.sub_le_of_le_add le
      next active =>
        rw [queue, List.head?_cons, Option.some_inj] at head
        rw [← head]
        simpa using active

theorem head_settle (s : State) : ∀ en, (settle s).apply.queue.head? = some en → en.passive = false :=
  head_completePassive _ s le_rfl

/-- What a completion leaves of the Link Receiver while no RETRY is deferred. -/
structure ReceiverKept (a b : Receiver) : Prop where
  expected : b.expected = a.expected
  accepted : b.accepted = a.accepted
  retrySent : b.retrySent = a.retrySent
  deferred : b.deferred = none

theorem ReceiverKept.refl {a : Receiver} (none : a.deferred = none) : ReceiverKept a a := ⟨rfl, rfl, rfl, none⟩

theorem ReceiverKept.trans {a b c : Receiver} (h : ReceiverKept a b) (g : ReceiverKept b c) : ReceiverKept a c :=
  ⟨g.expected.trans h.expected, g.accepted.trans h.accepted, g.retrySent.trans h.retrySent, g.deferred⟩

theorem receiverKept_completionTaken {s : State} (seq : BitVec 32) (free : Nat) (none : s.rx.deferred = none) :
    ReceiverKept s.rx (completionTaken s seq free).1 := by
  rw [completionTaken_eq, none]
  dsimp only
  unfold ackedReceiver
  split_ifs <;> exact ⟨rfl, rfl, rfl, none⟩

theorem receiverKept_completeOldest {s : State} (none : s.rx.deferred = none) :
    ReceiverKept s.rx (completeOldest s).rx := by
  cases queue : s.apply.queue with
  | nil =>
    have idle : completeOldest s = s := by rw [completeOldest, queue]
    rw [idle]
    exact .refl none
  | cons p rest =>
    cases last : p.last with
    | true =>
      rw [completeOldest_of_last queue last, (releaseTarget_frame _ _).rx (by decide), passiveDone_eq]
      exact receiverKept_completionTaken _ _ none
    | false =>
      cases cut : p.cutShort with
      | false =>
        rw [completeOldest_of_more queue last cut]
        exact .refl none
      | true =>
        rw [completeOldest_of_cut queue last cut, (releaseTarget_frame _ _).rx (by decide)]
        exact .refl none

theorem receiverKept_completePassive : ∀ (n : Nat) (s : State), s.rx.deferred = none →
    ReceiverKept s.rx (completePassive n s).rx
  | 0, s, quiet => .refl quiet
  | n + 1, s, quiet => by
    unfold completePassive
    split
    · exact .refl quiet
    · split
      · have first := receiverKept_completeOldest quiet
        exact first.trans (receiverKept_completePassive n _ first.deferred)
      · exact .refl quiet

theorem receiverKept_settle {s : State} (none : s.rx.deferred = none) : ReceiverKept s.rx (settle s).rx :=
  receiverKept_completePassive _ s none

/-- A passive entry that stands alone completes, and nothing after it. -/
theorem settle_of_single {u : State} {p : ApplyEntry} (queue : u.apply.queue = [p]) (passive : p.passive = true)
    (last : p.last = true) : settle u = releaseTarget (passiveDone u p []) p := by
  rw [settle_passive u p [] queue passive, completeOldest_of_last queue last]
  refine settle_of_empty ?_
  rw [queue_releaseTarget, passiveDone_eq]

end Sys2Proof.Machine

namespace Sys2Proof.Proofs

open Sys2Proof.Machine

/-- Settles O15: the acceptance, and the passive entries behind it. -/
theorem inOrderRecordIsAccepted : Obligations.InOrderRecordIsAccepted := by
  intro c bytes seq rec s arrival record current expected room
  have run : exec c s = .next (settle (recordAccepted s seq rec)) := by
    rw [exec_record c bytes seq rec s arrival record current, receiveRecord_of_expected expected, inOrder_of_room room]
  have kept := receiverKept_settle (s := recordAccepted s seq rec) rfl
  have frame : SameBut [.apply, .tx, .rx] s (recordAccepted s seq rec) := by
    constructor <;> intro out <;> first | rfl | exact absurd (by decide) out
  intro entries accepted
  refine ⟨⟨run, passivesComplete _⟩, fun p empty single passive => ?_, ⟨_, run, kept.expected, kept.accepted,
    kept.retrySent, kept.deferred, head_settle _, ?_, fun active => ?_⟩, fun tag payload is empty clean carried unacked hold => ?_⟩
  · have queue : (recordAccepted s seq rec).apply.queue = [p] := by
      show s.apply.queue ++ entries = [p]
      rw [empty, single, List.nil_append]
    have alone := settle_of_single queue passive (last_of_recordEntries single)
    refine ⟨_, run, fun none => ?_, fun e target => ?_⟩
    · rw [alone, releaseTarget_of_none none]
      rfl
    · rw [alone, releaseTarget_of_target target]
      exact targetTested_releaseEntry _ e
  · exact (frame.mono rfl).then (settle_frame _) rfl
  · have still : settle (recordAccepted s seq rec) = recordAccepted s seq rec := settle_of_active _ active
    rw [still]
    exact ⟨rfl, rfl, rfl, frame⟩
  · subst is
    have queue : (recordAccepted s seq (.note tag payload)).apply.queue =
        [⟨seq, s.session.epoch, none, .note tag payload, true, false, false⟩] := by
      show s.apply.queue ++ _ = _
      rw [empty, List.nil_append]
      rfl
    rw [run, settle_of_note queue clean carried current.2.1 (by rw [recordAccepted, unacked]; decide) rfl]
    have held : applyLeft (recordAccepted s seq (.note tag payload)).mem 1 = s.mem := if_neg hold
    have apply : ({ (recordAccepted s seq (.note tag payload)).apply with queue := [] } : ApplyEngine) = s.apply := by
      show ({ s.apply with queue := [] } : ApplyEngine) = s.apply
      rw [← empty]
    have tx : (recordAccepted s seq (.note tag payload)).tx = s.tx := by
      show ({ s.tx with control := s.tx.control ++ [] } : Transmitter) = s.tx
      rw [List.append_nil]
    have rx : (recordAccepted s seq (.note tag payload)).rx = { s.rx with
        expected := seqSucc s.rx.expected, accepted := true, retrySent := false, deferred := none } := rfl
    rw [held, apply, emit_eq, emit_eq, rx]
    simp only [unacked, Nat.zero_add, if_true, count, countBy, State.modStats, tx]
    rw [expected]
    rfl

end Sys2Proof.Proofs
end

section
/-! PROOFS. A source that drains, a target that is released, and the part's own tests (R12, R14, R51, R76, R102, R106,
R154, R168). -/

namespace Sys2Proof.Machine

/-! ## A source that becomes FREE (R12, R106) -/

section
variable (s : State) (e : RegionIx)

/-- The fences once an entry has left the scope of each. -/
def scopesWithout (fences : List Fence) (e : RegionIx) : List Fence :=
  fences.map fun f => { f with scope := f.scope.filter fun x => x.entry != e }

theorem fences_freeSource : (freeSource s e).fences = scopesWithout s.fences e := by
  show scopesWithout (emit (setEntry s e Entry.zero) _).fences e = _
  rw [(emit_frame _ _).fences (by decide)]
  rfl

theorem length_scopesWithout (fences : List Fence) : (scopesWithout fences e).length = fences.length := List.length_map ..

theorem marks_freeSource : MarksCounted s (freeSource s e) 0 :=
  (MarksCounted.same (m := 0) ((setEntry_frame s e _).marks (by decide)) (marks_emit _ _)).same
    ((leaveScopes_frame _ e).marks (by decide))

/-- COMMAND_DONE of a pending CLOSE. -/
def closeDone (e : RegionIx) (tag : BitVec 16) : Event := .commandDone .ok tag 5 (BitVec.ofNat 8 e.val) 0

variable {s e}

theorem eventsOf_freeSource (room : ringRoom s 1) :
    eventsOf (freeSource s e) = eventsOf s ++ [.regionState .drained e .source .draining .free] :=
  eventsOf_emit (setEntry s e Entry.zero) _ room

theorem ringRoom_freeSource {n : Nat} (room : ringRoom s (n + 1)) : ringRoom (freeSource s e) n :=
  ringRoom_emit (setEntry s e Entry.zero) _ n room

theorem completeClose_of_none (none : (s.cmd.pendingClose)[e] = none) : completeClose s e = s := by
  rw [completeClose, none]

theorem completeClose_of_pending {tag : BitVec 16} (pending : (s.cmd.pendingClose)[e] = some tag) : completeClose s e =
    emit (s.modCmd fun c => { c with pendingClose := setAt c.pendingClose e none }) (closeDone e tag) := by
  rw [completeClose, pending]
  rfl

theorem cmd_completeClose (s : State) (e : RegionIx) : (completeClose s e).cmd =
    { s.cmd with pendingClose := (completeClose s e).cmd.pendingClose } := by
  cases pending : (s.cmd.pendingClose)[e] with
  | none => rw [completeClose_of_none pending]
  | some tag => rw [completeClose_of_pending pending, (emit_frame _ _).cmd (by decide), State.modCmd_cmd]

theorem eventsOf_completeClose (room : ringRoom s 1) : eventsOf (completeClose s e) =
    eventsOf s ++ (((s.cmd.pendingClose)[e]).map (closeDone e)).toList := by
  cases pending : (s.cmd.pendingClose)[e] with
  | none => rw [completeClose_of_none pending, Option.map_none, Option.toList_none, List.append_nil]
  | some tag =>
    rw [completeClose_of_pending pending]
    exact eventsOf_emit (s.modCmd fun c => { c with pendingClose := setAt c.pendingClose e none }) _ room

theorem ringRoom_completeClose {n : Nat} (room : ringRoom s (n + 1)) : ringRoom (completeClose s e) n := by
  cases pending : (s.cmd.pendingClose)[e] with
  | none =>
    rw [completeClose_of_none pending]
    exact ringRoom_mono room (Nat.le_succ n)
  | some tag =>
    rw [completeClose_of_pending pending]
    exact ringRoom_emit (s.modCmd fun c => { c with pendingClose := setAt c.pendingClose e none }) _ n room

end

/-! ## The row DRAINED -/

section
variable {s : State} {e : RegionIx}

theorem exec_drained_of_busy (busy : ¬isDrained s e = true) : exec (.drained e) s = .next s := congrArg _ (if_neg busy)

theorem exec_drained_of_drained (drained : isDrained s e = true) :
    exec (.drained e) s = .next (fenceTest (completeClose (freeSource s e) e)) := by
  have run : exec (.drained e) s = .next (fenceTest (drainEntry s e)) := congrArg _ (if_pos drained)
  rw [run, drainEntry_of_drained drained]

theorem drainedClosed_frame (s : State) (e : RegionIx) :
    SameBut [.regions, .fences, .cmd, .ev, .stats] s (completeClose (freeSource s e) e) :=
  ((freeSource_frame s e).mono rfl).then (completeClose_frame _ e) rfl

/-- The fences and the events of a source that drains, with its CLOSE before the fences. -/
theorem fenceTest_of_drained {kept : Fence → Bool}
    (keeps : ∀ f, kept f = true ↔ s.session.state ≠ .up ∨ FenceWaits (heldRecords s) f) :
    (fenceTest (completeClose (freeSource s e) e)).fences = (scopesWithout s.fences e).filter kept ∧
      (ringRoom s (2 + s.fences.length) → eventsOf (fenceTest (completeClose (freeSource s e) e)) = eventsOf s ++
        .regionState .drained e .source .draining .free :: (((s.cmd.pendingClose)[e]).map (closeDone e)).toList ++
          ((scopesWithout s.fences e).filter fun f => !kept f).map fun f =>
            .fenceDone .durable .none f.tag none f.boundary) := by
  have frame := drainedClosed_frame s e
  have fences : (completeClose (freeSource s e) e).fences = scopesWithout s.fences e := by
    rw [(completeClose_frame _ e).fences (by decide), fences_freeSource]
  have cmd : (freeSource s e).cmd = s.cmd := (freeSource_frame s e).cmd (by decide)
  rw [← frame.session (by decide), ← frame.heldRecords (by decide) (by decide)] at keeps
  obtain ⟨left, events⟩ := fenceTest_keeps keeps
  rw [fences] at left events
  refine ⟨left, fun room => ?_⟩
  have room2 : ringRoom s (s.fences.length + 1 + 1) := ringRoom_mono room (by omega)
  have room1 : ringRoom (freeSource s e) (s.fences.length + 1) := ringRoom_freeSource room2
  rw [events (by rw [length_scopesWithout]; exact ringRoom_completeClose room1),
    eventsOf_completeClose (ringRoom_mono room1 (by omega)), eventsOf_freeSource (ringRoom_mono room (by omega)), cmd,
    List.append_assoc (eventsOf s)]
  rfl

end

/-! ## The row RELEASED (R14) -/

/-- What the test of R14 does not change. -/
theorem exec_released (s : State) (e : RegionIx) : exec (.released e) s = .next (releaseEntry s e) := rfl

/-! ## The counted answers of a RESTART (R168) -/

section
variable {s v : State} {w : RestartWait}

theorem answerCounted_of_more (waits : v.cmd.waiting = some w) (more : 1 < w.due) : answerCounted v =
    { v with cmd := { v.cmd with waiting := some { w with due := w.due - 1 } } } := by
  rw [answerCounted, waits]
  exact if_pos more

theorem answerCounted_of_last (waits : v.cmd.waiting = some w) (last : w.due ≤ 1) : answerCounted v =
    emit { v with cmd := { v.cmd with waiting := none } } (.restarted w.tag) := by
  rw [answerCounted, waits]
  exact if_neg (Nat.not_lt.mpr last)

/-- A counted answer, whose own effect leaves the wait for RESTARTED. -/
theorem counted_of_waiting {c : Instr} (run : exec c s = .next (answerCounted v)) (waits : v.cmd.waiting = some w) :
    ∃ t, exec c s = .next t ∧ (1 < w.due → t.cmd.waiting = some { w with due := w.due - 1 }) ∧
      (w.due ≤ 1 → t.cmd.waiting = none ∧ ∃ u, t = emit u (.restarted w.tag)) := by
  refine ⟨_, run, fun more => ?_, fun last => ?_⟩
  · rw [answerCounted_of_more waits more]
  · rw [answerCounted_of_last waits last, (emit_frame _ _).cmd (by decide)]
    exact ⟨rfl, _, rfl⟩

end

/-! No answer's own effect changes the wait. -/

theorem waiting_completeClose (s : State) (e : RegionIx) : (completeClose s e).cmd.waiting = s.cmd.waiting := by
  rw [cmd_completeClose]

theorem waiting_releaseEntry (s : State) (e : RegionIx) : (releaseEntry s e).cmd.waiting = s.cmd.waiting := by
  obtain ⟨stays, freed⟩ := targetTested_releaseEntry s e
  by_cases keeps : (s.entry e).state ≠ .releasing ∨ ∃ y ∈ s.apply.queue, y.isLine = true ∧ y.target = some e
  · rw [stays keeps]
  · obtain ⟨_, _, _, _, _, cmd, _⟩ := freed keeps
    rw [cmd]

theorem waiting_releaseTarget (s : State) (p : ApplyEntry) : (releaseTarget s p).cmd.waiting = s.cmd.waiting := by
  unfold releaseTarget
  split
  · exact waiting_releaseEntry ..
  · rfl

theorem waiting_completeOldest (s : State) : (completeOldest s).cmd.waiting = s.cmd.waiting := by
  cases queue : s.apply.queue with
  | nil => rw [completeOldest, queue]
  | cons p rest =>
    cases last : p.last with
    | true =>
      have noted : SameBut [.ev, .stats] s (recordCounted (noteStep s p) p) :=
        ((noteStep_frame s p).mono rfl).then (recordCounted_frame _ p) rfl
      rw [completeOldest_of_last queue last, waiting_releaseTarget, passiveDone_eq]
      exact congrArg CommandUnit.waiting (noted.cmd (by decide))
    | false =>
      cases cut : p.cutShort with
      | false =>
        rw [completeOldest_of_more queue last cut]
        rfl
      | true =>
        rw [completeOldest_of_cut queue last cut, waiting_releaseTarget]
        rfl

theorem waiting_completePassive : ∀ (n : Nat) (s : State), (completePassive n s).cmd.waiting = s.cmd.waiting
  | 0, _ => rfl
  | n + 1, s => by
    unfold completePassive
    split
    · rfl
    · split
      · rw [waiting_completePassive n, waiting_completeOldest]
      · rfl

theorem waiting_applyResponse (s : State) (status : Status) : (applyResponse s status).cmd.waiting = s.cmd.waiting := by
  unfold applyResponse
  split
  · rfl
  · cases status with
    | ok => rw [settle, waiting_completePassive, waiting_completeOldest]
    | error =>
      rw [settle, waiting_completePassive, waiting_completeOldest, (applyErrorOf_frame _ _).cmd (by decide)]

theorem waiting_completeWriteOut (s : State) : (completeWriteOut s).cmd.waiting = s.cmd.waiting := by
  unfold completeWriteOut
  split
  · split
    · rw [(emit_frame _ _).cmd (by decide)]
      rfl
    · rfl
  · rfl

theorem waiting_writerAnswer (s : State) (item : WriterItem) (status : Status) :
    (writerAnswer s item status).cmd.waiting = s.cmd.waiting := by
  cases item with
  | entry current => cases current <;> rfl
  | writeOut =>
    show (writeOutAnswered s status).cmd.waiting = _
    unfold writeOutAnswered
    split
    · rw [waiting_completeWriteOut]
      rfl
    · rfl

/-- An answer to an entry of a ring that was replaced has no effect of its own. -/
theorem exec_writerResponse_of_replaced {s : State} {a : MemAnswer} {r : MemRequest} {rest : List MemRequest}
    (answers : Answers s a r rest) (source : r.source = .writer (.entry false)) :
    exec (.writerResponse a) s = .next (answerCounted (s.modMem fun m => { m with outstanding := rest })) :=
  exec_writerResponse answers source

/-! ## Write-outs and RESTARTED -/

theorem completeWriteOut_of_done {s : State} {w : WriteOut} (writes : s.cmd.writeOut = some w) (done : w.left = 0) :
    completeWriteOut s = emit { s with cmd := { s.cmd with writeOut := none } }
      (.commandDone .ok w.tag (if w.isSnapshot then 12 else 11) 0 w.errors) := by
  rw [completeWriteOut, writes]
  refine (if_pos done).trans ?_
  cases w.isSnapshot <;> rfl

theorem completeWriteOut_of_open {s : State}
    (goes : s.cmd.writeOut = none ∨ ∃ w, s.cmd.writeOut = some w ∧ 0 < w.left) : completeWriteOut s = s := by
  unfold completeWriteOut
  obtain none | ⟨w, writes, left⟩ := goes
  · rw [none]
  · rw [writes]
    exact if_neg (Nat.ne_of_gt left)

theorem finishRestart_of_open {s : State}
    (goes : s.cmd.waiting = none ∨ ∃ w, s.cmd.waiting = some w ∧ 0 < w.due) : finishRestart s = s := by
  unfold finishRestart
  obtain none | ⟨w, waits, due⟩ := goes
  · rw [none]
  · rw [waits]
    exact if_neg (Nat.ne_of_gt due)

theorem finishRestart_of_done {s : State} {tag : BitVec 16} (waits : s.cmd.waiting = some ⟨tag, 0⟩) :
    finishRestart s = emit { s with cmd := { s.cmd with waiting := none } } (.restarted tag) := by
  rw [finishRestart, waits]
  exact if_pos rfl

end Sys2Proof.Machine

namespace Sys2Proof.Proofs

open Sys2Proof.Machine

/-- Settles O38: each of the part's own tests, by what passes it. -/
theorem ownTests : Obligations.OwnTests := by
  intro e s others
  refine ⟨fun need due deferred session room => ?_, fun due not => ?_, fun undue => ?_, fun draining records => ?_,
    fun busy => ?_, fun stays => ?_, fun goes => ?_, fun goes => ?_, fun goes => ?_, fun releasing lines => ?_,
    fun tag waits => ?_, fun a data r rest w answers injected waits => ?_, fun w writes left => ?_,
    fun closing sync async replay fences => ?_⟩
  · exact congrArg Host.Outcome.next (deferredCheck_of_room due deferred ⟨session, room⟩)
  · refine congrArg Host.Outcome.next ?_
    obtain none | idle | ⟨need, deferred, full⟩ := not
    · exact deferredCheck_of_none due none
    · cases deferred : s.rx.deferred with
      | none => exact deferredCheck_of_none due deferred
      | some need => exact deferredCheck_of_full due deferred fun h => by simp [idle] at h
    · exact deferredCheck_of_full due deferred fun h => absurd h.2 (Nat.not_le.mpr full)
  · exact congrArg Host.Outcome.next (if_neg (by simp [undue]))
  · have drained : isDrained s e = true := (isDrained_iff s e).mpr ⟨draining, records⟩
    have frame := drainedClosed_frame s e
    have fenced := fenceTest_frame (completeClose (freeSource s e) e)
    have cmd : (fenceTest (completeClose (freeSource s e) e)).cmd = (completeClose (freeSource s e) e).cmd :=
      fenced.cmd (by decide)
    have kept : (freeSource s e).cmd = s.cmd := (freeSource_frame s e).cmd (by decide)
    refine ⟨_, exec_drained_of_drained drained, ?_, fun e' other => ?_, ?_, ⟨?_, fun e' other => ?_⟩,
      fun kept keeps => fenceTest_of_drained keeps, ?_, (frame.mono rfl).then fenced rfl⟩
    · rw [fenced.entry (by decide), entry_completeClose, entry_freeSource, if_pos rfl]
    · rw [fenced.entry (by decide), entry_completeClose, entry_freeSource, if_neg other]
    · rw [cmd, pendingClose_completeClose, if_pos rfl]
    · rw [cmd, ← kept]
      exact cmd_completeClose _ e
    · rw [cmd, pendingClose_completeClose, if_neg other, kept]
    · exact ((marks_freeSource s e).same (marks_completeClose _ e)).same (marks_fenceTest _)
  · refine exec_drained_of_busy fun drained => ?_
    obtain ⟨draining, records⟩ := (isDrained_iff s e).mp drained
    obtain other | ⟨r, held, region⟩ := busy
    · exact other draining
    · exact records r held region
  · exact congrArg Host.Outcome.next ((targetTested_releaseEntry s e).1 stays)
  · exact congrArg Host.Outcome.next (finishRestart_of_open goes)
  · exact congrArg Host.Outcome.next (completeWriteOut_of_open goes)
  · refine congrArg Host.Outcome.next (drainTest_of_not fun passes => ?_)
    obtain ⟨sync, async, replay⟩ := (isDry_iff s).mp passes.2
    simp [passes.1, sync, async, replay] at goes
  · have passes : ¬((s.entry e).state ≠ .releasing ∨ ∃ y ∈ s.apply.queue, y.isLine = true ∧ y.target = some e) := by
      simpa [releasing] using lines
    obtain ⟨zero, entries, apply, report, reports, cmd, closed, closes, marks, quiet, told, frame⟩ :=
      (targetTested_releaseEntry s e).2 passes
    exact ⟨_, rfl, zero, entries, report, ⟨cmd, closes⟩, marks, apply, reports, quiet,
      fun tag pending => ⟨closed, told tag pending⟩, frame⟩
  · exact congrArg Host.Outcome.next (finishRestart_of_done waits)
  · cases source : r.source with
    | passThrough => exact absurd source injected
    | apply =>
      exact ⟨counted_of_waiting (exec_applyWriteResponse answers source) ((waiting_applyResponse ..).trans waits), nofun⟩
    | resync =>
      exact ⟨counted_of_waiting (exec_resyncReadResponse answers source)
        ((congrArg CommandUnit.waiting ((resyncResponse_frame _ _ _).cmd (by decide))).trans waits), nofun⟩
    | writer item =>
      refine ⟨counted_of_waiting (exec_writerResponse answers source) ((waiting_writerAnswer ..).trans waits),
        fun replaced => ?_⟩
      have run := exec_writerResponse_of_replaced answers (source.trans replaced)
      refine ⟨fun more => run.trans (congrArg _ (answerCounted_of_more (by exact waits) more)),
        fun last => run.trans (congrArg _ (answerCounted_of_last (by exact waits) last))⟩
  · exact congrArg Host.Outcome.next (completeWriteOut_of_done writes left)
  · have dry : isDry s = true := (isDry_iff s).mpr ⟨sync, async, replay⟩
    obtain ⟨changes, _, session, control, told⟩ := drained_leaves closing dry fences
    have torn : TornDown s (drainTest s) .disconnected 0 := by
      rw [drainTest_of_drained closing dry]
      exact (tornDown_loseSession (lastFrames s) .disconnected 0).of_lastFrames
    refine ⟨drainTest s, rfl, torn, session, ?_, ?_, control, told, changes⟩
    · rw [drainTest_of_drained closing dry, rx_loseSession]
      rfl
    · rw [drainTest_of_drained closing dry, lossClaim_loseSession]
      rfl

end Sys2Proof.Proofs
end

section
/-! PROOFS. REJECT at the sender: the claim to REFUSED (R9, R36, R92, R104, R125). -/

namespace Sys2Proof.Machine

/-! ## Fences that nothing covers -/

section
variable {s : State} {e : RegionIx}

theorem completeFences_of_none {p : Fence → Bool} (none : ∀ f ∈ s.fences, p f = false) (o : FenceOutcome)
    (c : FenceCause) (r : Option RegionIx) : completeFences s p o c r = s := by
  have picked : s.fences.filter p = [] := List.filter_eq_nil_iff.mpr fun f mem => by simp [none f mem]
  have kept : s.fences.filter (fun f => !p f) = s.fences := List.filter_eq_self.mpr fun f mem => by simp [none f mem]
  rw [completeFences, picked]
  show { s with fences := s.fences.filter fun f => !p f } = s
  rw [kept]

theorem dropSegment_of_uncovered {sg : Segment} (uncovered : ∀ f ∈ s.fences, f.covers sg.region = false) :
    dropSegment s sg = s.modResync fun r => { r with segment := none } := by
  cases switch : sg.switch with
  | true => rw [dropSegment_of_switch s sg switch, failFences,
      completeFences_of_none (s := s.modResync fun r => { r with segment := none }) uncovered]
  | false => rw [dropSegment_of_no_switch s sg switch]

/-! ## The abandonment of a region's segment, without a mark (R92) -/

theorem abandonOf_of_not (h : ¬SegmentOf s e) : abandonOf s e = s := by
  unfold abandonOf
  split
  next sg segment => exact if_neg fun region => h ⟨sg, segment, region⟩
  next => rfl

theorem abandonOf_of_segment {sg : Segment} (segment : s.resync.segment = some sg) (region : sg.region = e) :
    abandonOf s e = dropSegment (releaseBlock s) sg := by
  rw [abandonOf, segment]
  refine (if_pos region).trans ?_
  rw [abandonSegment, segment]
  rfl

theorem resync_abandonOf (h : SegmentOf s e) : (abandonOf s e).resync = { (releaseBlock s).resync with segment := none } := by
  obtain ⟨sg, segment, region⟩ := h
  rw [abandonOf_of_segment segment region, resync_dropSegment]

theorem buffersFreed_abandonOf (s : State) (e : RegionIx) : BuffersFreed s (abandonOf s e) [] (SegmentOf s e) := by
  by_cases ends : SegmentOf s e
  · exact .of_release ends (resync_abandonOf ends)
  · exact .of_same ends (congrArg State.resync (abandonOf_of_not ends))

theorem turn_releaseBlock (s : State) : (releaseBlock s).resync.turn = s.resync.turn := by
  cases reserved : s.resync.reserved with
  | none => rw [resync_releaseBlock_of_none reserved]
  | some x => rw [resync_releaseBlock_of_some (b := x.1) (q := x.2) reserved]

theorem turn_abandonOf (s : State) (e : RegionIx) : (abandonOf s e).resync.turn = s.resync.turn := by
  by_cases ends : SegmentOf s e
  · rw [resync_abandonOf ends, turn_releaseBlock]
  · rw [abandonOf_of_not ends]

theorem abandonOf_of_uncovered (uncovered : ∀ f ∈ s.fences, f.covers e = false) :
    SameBut [.resync, .mem] s (abandonOf s e) := by
  by_cases ends : SegmentOf s e
  · obtain ⟨sg, segment, region⟩ := ends
    have release := releaseBlock_frame s
    rw [abandonOf_of_segment segment region,
      dropSegment_of_uncovered (by rw [release.fences (by decide), region]; exact uncovered)]
    exact (release.mono rfl).then (modResync_frame _ _) rfl
  · rw [abandonOf_of_not ends]
    exact .refl _ s

/-! ## The records of a region leave the send queues (R36) -/

/-- The records of the region in the send queues. -/
def recordsQueued (s : State) (e : RegionIx) : List Record :=
  (s.capture.sync ++ s.capture.async).filter fun r => r.region == some e

/-- The state once they have left the queues and their buffers are freed. -/
def queuedFreed (s : State) (e : RegionIx) : State :=
  (recordsQueued s e).foldl freeRecordBuffer (s.modCapture fun c =>
    { c with sync := c.sync.filter fun r => r.region != some e, async := c.async.filter fun r => r.region != some e })

theorem removeQueued_eq (s : State) (e : RegionIx) : removeQueued s e =
    if s.capture.sync.any fun r => r.region == some e then slotFreed (queuedFreed s e) .sync else queuedFreed s e := rfl

theorem removeQueued_queuedFreed (s : State) (e : RegionIx) : SameBut [.mem] (queuedFreed s e) (removeQueued s e) := by
  rw [removeQueued_eq]
  split
  · exact slotFreed_frame _ _
  · exact .refl _ _

theorem capture_removeQueued (s : State) (e : RegionIx) : (removeQueued s e).capture = { s.capture with
    sync := s.capture.sync.filter fun r => r.region != some e
    async := s.capture.async.filter fun r => r.region != some e } := by
  rw [(removeQueued_queuedFreed s e).capture (by decide), queuedFreed,
    (foldl_freeRecordBuffer_frame _ _).capture (by decide)]
  rfl

theorem buffers_removeQueued (s : State) (e : RegionIx) (b : Fin 4) : ((removeQueued s e).resync.buffers)[b] =
    if ∃ r ∈ recordsQueued s e, r.buffer = some b then none else (s.resync.buffers)[b] := by
  rw [(removeQueued_queuedFreed s e).resync (by decide), queuedFreed, buffers_foldl_freeRecordBuffer]
  rfl

/-! ## The steps of the claim (R9) -/

/-- The state once the region is refused and its fences have failed. -/
def refusalTold (s : State) (e : RegionIx) : State :=
  failFences (emit (setEntry s e { s.entry e with state := .refused })
    (.regionState .rejected e .source (s.entry e).state .refused)) e .regionRefused

/-- The state once every segment is marked. -/
def refusedMarked (s : State) (e : RegionIx) : State := markAll (refusalTold s e) e

/-- The state once the region's records and its segment are gone. -/
def refusedWork (s : State) (e : RegionIx) : State := leftMirrored (abandonOf (removeQueued s e) e) e

theorem claimRefused_of_source (source : (s.entry e).state = .mirrored ∨ (s.entry e).state = .lagging) :
    claimRefused s e = fenceTest (refusedWork (refusedMarked s e) e) := if_pos source

theorem claimRefused_of_other (mirrored : (s.entry e).state ≠ .mirrored) (lagging : (s.entry e).state ≠ .lagging) :
    claimRefused s e = s := if_neg fun h => h.elim mirrored lagging

variable (s e)

theorem refusalTold_frame : SameBut [.regions, .fences, .ev, .stats] s (refusalTold s e) :=
  (((setEntry_frame s e _).mono rfl).then (emit_frame _ _) rfl).then (failFences_frame _ _ _) rfl

theorem refusedMarked_frame : SameBut [.regions, .fences, .ev, .stats] s (refusedMarked s e) :=
  (refusalTold_frame s e).then (markAll_frame _ _) rfl

theorem entry_refusalTold (i : RegionIx) : (refusalTold s e).entry i =
    if i = e then { s.entry e with state := .refused } else s.entry i := by
  rw [refusalTold, (failFences_frame _ _ _).entry (by decide), (emit_frame _ _).entry (by decide), entry_setEntry]

theorem entry_refusedMarked (i : RegionIx) : (refusedMarked s e).entry i =
    if i = e then { s.entry e with state := .refused, dirty := List.range (segCount (s.entry e).sizeExp) }
    else s.entry i := by
  have self : (refusalTold s e).entry e = { s.entry e with state := .refused } := by rw [entry_refusalTold, if_pos rfl]
  rw [refusedMarked, entry_markAll, self, entry_refusalTold]
  split <;> rfl

theorem fences_refusedMarked : (refusedMarked s e).fences = s.fences.filter fun f => !f.covers e := by
  rw [refusedMarked, (markAll_frame _ _).fences (by decide), refusalTold, failFences, fences_completeFences,
    (emit_frame _ _).fences (by decide)]
  rfl

theorem marks_markAll_any : MarksCounted s (markAll s e) (segCount (s.entry e).sizeExp - (s.entry e).dirty.length) := by
  have counted := marks_countBy (setEntry s e { s.entry e with dirty := List.range (segCount (s.entry e).sizeExp) })
    (segCount (s.entry e).sizeExp - (s.entry e).dirty.length)
  have all := MarksCounted.then (.of_stats (s := s) rfl) counted
  rw [Nat.zero_add] at all
  exact all

theorem marks_refusedMarked :
    MarksCounted s (refusedMarked s e) (segCount (s.entry e).sizeExp - (s.entry e).dirty.length) := by
  have told : MarksCounted s (refusalTold s e) 0 :=
    (MarksCounted.same (m := 0) ((setEntry_frame s e _).marks (by decide)) (marks_emit _ _)).same
      (marks_completeFences ..)
  have marked := marks_markAll_any (refusalTold s e) e
  rw [entry_refusalTold, if_pos rfl] at marked
  have all := told.then marked
  rw [Nat.zero_add] at all
  exact all

theorem reports_refusedMarked : Reports s (refusedMarked s e) 1
    (.regionState .rejected e .source (s.entry e).state .refused :: (s.fences.filter fun f => f.covers e).map fun f =>
      .fenceDone .notDurable .regionRefused f.tag (some e) f.boundary) := by
  have set := Reports.of_frame (setEntry_frame s e { s.entry e with state := .refused }) (by decide) (by decide)
  have event := reports_emit (s := setEntry s e { s.entry e with state := .refused })
    (.regionState .rejected e .source (s.entry e).state .refused)
  have failed := reports_completeFences (emit (setEntry s e { s.entry e with state := .refused })
    (.regionState .rejected e .source (s.entry e).state .refused)) (fun f => f.covers e) .regionRefused (some e)
  rw [(emit_frame _ _).fences (by decide)] at failed
  exact ((set.trans event).trans failed).then (markAll_frame _ e) (by decide) (by decide)

variable {s e}

/-- Where its fences have gone, the rest of the claim leaves the fences and the events alone. -/
theorem refusedWork_frame (uncovered : ∀ f ∈ s.fences, f.covers e = false) :
    SameBut [.capture, .resync, .mem] s (refusedWork s e) := by
  have removed := removeQueued_frame s e
  have abandoned := abandonOf_of_uncovered (s := removeQueued s e) (e := e)
    (by rw [removed.fences (by decide)]; exact uncovered)
  exact (removed.then abandoned rfl).then ((leftMirrored_frame _ e).mono (ps := [.mem]) rfl) rfl

theorem capture_refusedWork : (refusedWork s e).capture = { s.capture with
    sync := s.capture.sync.filter fun r => r.region != some e
    async := s.capture.async.filter fun r => r.region != some e } := by
  rw [refusedWork, (leftMirrored_frame _ e).capture (by decide), (abandonOf_frame _ e).capture (by decide),
    capture_removeQueued]

theorem resync_refusedWork : (refusedWork s e).resync = (abandonOf (removeQueued s e) e).resync :=
  (leftMirrored_frame _ e).resync (by decide)

theorem buffersFreed_refusedWork : BuffersFreed s (refusedWork s e) (recordsQueued s e) (SegmentOf s e) := by
  have abandoned := buffersFreed_abandonOf (removeQueued s e) e
  have segment : SegmentOf (removeQueued s e) e ↔ SegmentOf s e := by rw [SegmentOf, resync_removeQueued, SegmentOf]
  rw [propext segment] at abandoned
  have all := BuffersFreed.after (resync_removeQueued s e) (buffers_removeQueued s e) abandoned
  unfold BuffersFreed at all ⊢
  rwa [resync_refusedWork]

theorem turn_refusedWork : (refusedWork s e).resync.turn = s.resync.turn := by
  rw [resync_refusedWork, turn_abandonOf, resync_removeQueued]

end

/-! ## The claim of a MIRRORED or LAGGING region (R9) -/

section
variable {s : State} {e : RegionIx}

theorem refusedMarked_uncovered (s : State) (e : RegionIx) : ∀ f ∈ (refusedMarked s e).fences, f.covers e = false := fun f mem => by
  rw [fences_refusedMarked] at mem
  simpa using List.of_mem_filter mem

variable (source : (s.entry e).state = .mirrored ∨ (s.entry e).state = .lagging)
include source

theorem claimRefused_changes :
    SameBut [.regions, .capture, .resync, .fences, .mem, .ev, .stats] s (claimRefused s e) := by
  rw [claimRefused_of_source source]
  have work := refusedWork_frame (refusedMarked_uncovered s e)
  exact (((refusedMarked_frame s e).mono rfl).then work rfl).then (fenceTest_frame _) rfl

theorem entry_claimRefused (i : RegionIx) : (claimRefused s e).entry i =
    if i = e then { s.entry e with state := .refused, dirty := List.range (segCount (s.entry e).sizeExp) }
    else s.entry i := by
  rw [claimRefused_of_source source, (fenceTest_frame _).entry (by decide),
    (refusedWork_frame (refusedMarked_uncovered s e)).entry (by decide), entry_refusedMarked]

theorem capture_claimRefused : (claimRefused s e).capture = { s.capture with
    sync := s.capture.sync.filter fun r => r.region != some e
    async := s.capture.async.filter fun r => r.region != some e } := by
  rw [claimRefused_of_source source, (fenceTest_frame _).capture (by decide), capture_refusedWork,
    (refusedMarked_frame s e).capture (by decide)]

theorem buffersFreed_claimRefused : BuffersFreed s (claimRefused s e) (recordsQueued s e) (SegmentOf s e) := by
  have work := buffersFreed_refusedWork (s := refusedMarked s e) (e := e)
  have marked := refusedMarked_frame s e
  unfold BuffersFreed SegmentOf recordsQueued at work
  rw [marked.resync (by decide), marked.capture (by decide)] at work
  unfold BuffersFreed SegmentOf recordsQueued
  rwa [claimRefused_of_source source, (fenceTest_frame _).resync (by decide)]

theorem turn_claimRefused : (claimRefused s e).resync.turn = s.resync.turn := by
  rw [claimRefused_of_source source, (fenceTest_frame _).resync (by decide), turn_refusedWork,
    (refusedMarked_frame s e).resync (by decide)]

theorem marks_claimRefused :
    MarksCounted s (claimRefused s e) (segCount (s.entry e).sizeExp - (s.entry e).dirty.length) := by
  rw [claimRefused_of_source source]
  have work := refusedWork_frame (refusedMarked_uncovered s e)
  exact ((marks_refusedMarked s e).same (work.marks (by decide))).same (marks_fenceTest _)

/-- The fences that cover the region fail, and then those that the removal lets pass complete. -/
theorem fences_claimRefused {kept : Fence → Bool}
    (keeps : ∀ f, kept f = true ↔ s.session.state ≠ .up ∨ FenceWaits (heldRecords (claimRefused s e)) f) :
    (claimRefused s e).fences = (s.fences.filter fun f => !f.covers e).filter kept ∧
      (ringRoom s (1 + s.fences.length) → eventsOf (claimRefused s e) = eventsOf s ++
        (.regionState .rejected e .source (s.entry e).state .refused ::
          (s.fences.filter fun f => f.covers e).map fun f =>
            .fenceDone .notDurable .regionRefused f.tag (some e) f.boundary) ++
        ((s.fences.filter fun f => !f.covers e).filter fun f => !kept f).map fun f =>
          .fenceDone .durable .none f.tag none f.boundary) := by
  have marked := refusedMarked_frame s e
  have work := refusedWork_frame (refusedMarked_uncovered s e)
  have test := fenceTest_frame (refusedWork (refusedMarked s e) e)
  rw [claimRefused_of_source source] at keeps ⊢
  rw [test.heldRecords (by decide) (by decide), ← marked.session (by decide), ← work.session (by decide)] at keeps
  obtain ⟨fences, events⟩ := fenceTest_keeps keeps
  have left : (refusedWork (refusedMarked s e) e).fences = s.fences.filter fun f => !f.covers e := by
    rw [work.fences (by decide), fences_refusedMarked]
  rw [left] at fences events
  have ev : (refusedWork (refusedMarked s e) e).ev = (refusedMarked s e).ev := work.ev (by decide)
  refine ⟨fences, fun room => ?_⟩
  have split : (s.fences.filter fun f => f.covers e).length + (s.fences.filter fun f => !f.covers e).length =
      s.fences.length := (List.length_eq_length_filter_add _).symm
  obtain ⟨told, after⟩ := (reports_refusedMarked s e).told (s.fences.filter fun f => !f.covers e).length
    (by rw [List.length_cons, List.length_map, Nat.add_right_comm, split, Nat.add_comm]; exact room)
  rw [events (by rw [ringRoom, ev]; exact after), eventsOf, ev, ← eventsOf, told]

end

/-! ## REJECT (R125) -/

section
variable {s : State} {rest : List Byte} {seq : BitVec 32} {peer reason : BitVec 8} {r : Replayed} {e : RegionIx}

theorem exec_reject_of_current (h : Current s (frameOf .reject rest)) : exec (.reject rest) s = .next
    (takeReject s (frameSeq (frameOf .reject rest)) (framePeer (frameOf .reject rest))
      (byteAt (frameOf .reject rest) 13)) := congrArg Host.Outcome.next (deliver_of_current s _ _ h)

theorem takeReject_of_absent (absent : (s.tx.replay.find? fun r => r.seq == seq) = none) :
    takeReject s seq peer reason = count s .framesStale := by rw [takeReject, absent]

theorem takeReject_of_note (found : (s.tx.replay.find? fun r => r.seq == seq) = some r)
    (note : r.record.region = none) : takeReject s seq peer reason = count s .framesStale := by
  rw [takeReject, found]
  dsimp only
  rw [note]

/-- With the record in the replay list no session is dry. -/
theorem takeReject_of_region (found : (s.tx.replay.find? fun r => r.seq == seq) = some r)
    (region : r.record.region = some e) : takeReject s seq peer reason =
      claimRefused (emit s (.recordRejected e seq r.record.cap r.record.kind peer reason)) e := by
  have held : s.tx.replay ≠ [] := fun empty => by
    rw [empty] at found
    cases found
  rw [takeReject, found]
  dsimp only
  rw [region]
  refine drainTest_of_replay _ ?_
  rwa [(claimRefused_frame _ e).tx (by decide), (emit_frame _ _).tx (by decide)]

end

end Sys2Proof.Machine

namespace Sys2Proof.Proofs
open Sys2Proof.Machine

/-- Settles O20: the record's region tells whether the frame is stale; the claim is taken with RECORD_REJECTED already
requested, which leaves the parts that its steps read. -/
theorem rejectRefusesTheRegion : Obligations.RejectRefusesTheRegion := by
  unfold Obligations.RejectRefusesTheRegion
  intro rest s current seq event found
  refine ⟨fun absent => ?_, fun r hr note => ?_, fun r e hr region => ⟨fun mirrored lagging => ?_, fun source => ?_⟩⟩
  · rw [exec_reject_of_current current, takeReject_of_absent absent]
  · rw [exec_reject_of_current current, takeReject_of_note hr note]
  · rw [exec_reject_of_current current, takeReject_of_region hr region]
    have frame := emit_frame s (event r e)
    exact congrArg _ (claimRefused_of_other (by rwa [frame.entry (by decide)]) (by rwa [frame.entry (by decide)]))
  · have frame := emit_frame s (event r e)
    have same : (emit s (event r e)).entry e = s.entry e := frame.entry (by decide) e
    have source' : ((emit s (event r e)).entry e).state = .mirrored ∨ ((emit s (event r e)).entry e).state = .lagging := by
      rwa [same]
    have entry := entry_claimRefused source'
    have freed := buffersFreed_claimRefused source'
    have hold := holdEnds_claimRefused _ e source'
    have marks := (marks_emit s (event r e)).then (marks_claimRefused source')
    have changes := (frame.mono rfl).trans (claimRefused_changes source')
    rw [Nat.zero_add, same] at marks
    refine ⟨claimRefused (emit s (event r e)) e,
      (exec_reject_of_current current).trans (congrArg _ (takeReject_of_region hr region)), ?_, fun e' other => ?_, ?_,
      ?_, ?_, ?_, marks, fun kept keeps => ?_, changes⟩
    · rw [entry, if_pos rfl, same]
    · rw [entry, if_neg other, frame.entry (by decide)]
    · rw [capture_claimRefused source', frame.capture (by decide)]
    · rw [recordsQueued, frame.capture (by decide)] at freed
      rw [emit_eq] at freed ⊢
      exact freed
    · rw [turn_claimRefused source', frame.resync (by decide)]
    · rw [emit_eq] at hold ⊢
      exact hold
    · obtain ⟨fences, events⟩ := fences_claimRefused source' (kept := kept)
        (by rw [frame.session (by decide)]; exact keeps)
      rw [frame.fences (by decide), same] at events
      rw [frame.fences (by decide)] at fences
      refine ⟨fences, fun room => ?_⟩
      have told := (reports_emit (s := s) (event r e)).told (1 + s.fences.length)
        (by rw [List.length_singleton, ← Nat.add_assoc]; exact room)
      rw [events told.2, told.1]
      simp only [List.append_assoc, List.cons_append, List.nil_append]

end Sys2Proof.Proofs
end

section
/-! PROOFS. ACK at the sender: the records it removes, and the regions and fences that drain with them (R12, R51, R65,
R66, R102). -/

namespace Sys2Proof.Machine

/-! ## A removed record (step 1 of R66) -/

/-- COMMAND_DONE of the SEND_NOTE that a removed NOTE completes. -/
def noteDone (r : Replayed) : Option Event :=
  match r.record.body with
  | .note tag _ => some (.commandDone .ok tag 7 0 0)
  | _ => none

section
variable {s : State} {r : Replayed}

theorem acknowledge_of_note {e : Event} (note : noteDone r = some e) : acknowledge s r = emit s e := by
  unfold noteDone at note
  split at note
  next tag payload body =>
    have buffer : r.record.buffer = none := by rw [Record.buffer, body]
    obtain rfl := Option.some.inj note
    unfold acknowledge
    rw [body, freeRecordBuffer, buffer]
    rfl
  next => cases note

theorem acknowledge_of_region (note : noteDone r = none) : acknowledge s r = freeRecordBuffer s r.record := by
  unfold noteDone at note
  unfold acknowledge
  split at note
  next => cases note
  next other =>
    dsimp only
    split
    next tag payload body => exact absurd body (other tag payload)
    next => rfl
    next => rfl

variable (s r)

theorem acknowledge_frame : SameBut [.resync, .ev, .stats] s (acknowledge s r) := by
  cases note : noteDone r with
  | none => rw [acknowledge_of_region note]; exact (freeRecordBuffer_frame s _).mono rfl
  | some e => rw [acknowledge_of_note note]; exact (emit_frame s e).mono rfl

theorem resync_acknowledge : (acknowledge s r).resync = (freeRecordBuffer s r.record).resync := by
  cases note : noteDone r with
  | none => rw [acknowledge_of_region note]
  | some e =>
    have buffer : r.record.buffer = none := by
      unfold noteDone at note
      split at note
      next body => rw [Record.buffer, body]
      next => cases note
    rw [acknowledge_of_note note, freeRecordBuffer, buffer, (emit_frame s e).resync (by decide)]

theorem marks_acknowledge : MarksCounted s (acknowledge s r) 0 := by
  cases note : noteDone r with
  | none => rw [acknowledge_of_region note]; exact (freeRecordBuffer_frame s _).marks (by decide)
  | some e => rw [acknowledge_of_note note]; exact marks_emit s e

theorem told_acknowledge (k : Nat) (room : ringRoom s (1 + k)) :
    eventsOf (acknowledge s r) = eventsOf s ++ (noteDone r).toList ∧ ringRoom (acknowledge s r) k := by
  cases note : noteDone r with
  | none =>
    have ev : (freeRecordBuffer s r.record).ev = s.ev := (freeRecordBuffer_frame s _).ev (by decide)
    rw [acknowledge_of_region note, eventsOf, ringRoom, ev]
    exact ⟨(List.append_nil _).symm, ringRoom_mono (s := s) room (Nat.le_add_left ..)⟩
  | some e =>
    rw [acknowledge_of_note note]
    exact (reports_emit s e).told k room

end

theorem foldl_acknowledge_frame (gone : List Replayed) (s : State) :
    SameBut [.resync, .ev, .stats] s (gone.foldl acknowledge s) := .foldl acknowledge_frame gone s

theorem buffers_foldl_acknowledge (b : Fin 4) : ∀ (gone : List Replayed) (s : State),
    ((gone.foldl acknowledge s).resync.buffers)[b] =
      if ∃ r ∈ gone, r.record.buffer = some b then none else (s.resync.buffers)[b]
  | [], s => by simp
  | r :: gone, s => by
    rw [List.foldl_cons, buffers_foldl_acknowledge b gone, resync_acknowledge, buffers_freeRecordBuffer]
    by_cases here : r.record.buffer = some b <;> simp [here]

theorem resync_foldl_acknowledge : ∀ (gone : List Replayed) (s : State), (gone.foldl acknowledge s).resync =
    { s.resync with buffers := (gone.foldl acknowledge s).resync.buffers }
  | [], _ => rfl
  | r :: gone, s => by
    have later := resync_foldl_acknowledge gone (acknowledge s r)
    rwa [resync_acknowledge, resync_freeRecordBuffer] at later

theorem marks_foldl_acknowledge : ∀ (gone : List Replayed) (s : State), MarksCounted s (gone.foldl acknowledge s) 0
  | [], _ => .of_stats rfl
  | r :: gone, s => (marks_acknowledge s r).same (marks_foldl_acknowledge gone _)

theorem told_foldl_acknowledge : ∀ (gone : List Replayed) (s : State) (k : Nat), ringRoom s (gone.length + k) →
    eventsOf (gone.foldl acknowledge s) = eventsOf s ++ gone.filterMap noteDone ∧
      ringRoom (gone.foldl acknowledge s) k
  | [], s, k, room => ⟨(List.append_nil _).symm, by rwa [List.length_nil, Nat.zero_add] at room⟩
  | r :: gone, s, k, room => by
    rw [List.length_cons, Nat.add_comm gone.length, Nat.add_assoc] at room
    obtain ⟨first, after⟩ := told_acknowledge s r _ room
    obtain ⟨second, left⟩ := told_foldl_acknowledge gone (acknowledge s r) k after
    refine ⟨?_, left⟩
    rw [List.foldl_cons, second, first, List.append_assoc]
    cases note : noteDone r <;> simp [note]

/-! ## The regions that drain (step 2 of R66) -/

/-- The fences once the entries that the test picks have left the scope of each. -/
def scopesLess (fences : List Fence) (gone : RegionIx → Bool) : List Fence :=
  fences.map fun f => { f with scope := f.scope.filter fun x => !gone x.entry }

theorem scopesLess_nothing (fences : List Fence) : scopesLess fences (fun _ => false) = fences := by simp [scopesLess]

theorem scopesLess_scopesLess (fences : List Fence) (p q : RegionIx → Bool) :
    scopesLess (scopesLess fences p) q = scopesLess fences fun e => p e || q e := by
  simp only [scopesLess, List.map_map, Function.comp_def, List.filter_filter]
  simp only [Bool.not_or, Bool.and_comm]

/-- The entries of a list that the test of R12 frees. -/
def drainsOf (s : State) (l : List RegionIx) (e : RegionIx) : Bool := decide (e ∈ l) && isDrained s e

theorem isDrained_drainEntry {s : State} {e i : RegionIx} (other : i ≠ e) :
    isDrained (drainEntry s e) i = isDrained s i := by
  rw [Bool.eq_iff_iff, isDrained_iff, isDrained_iff, entry_drainEntry, if_neg fun h => other h.1,
    (drainEntry_frame s e).heldRecords (by decide) (by decide)]

theorem drainsOf_cons {s : State} {e : RegionIx} {l : List RegionIx} (fresh : e ∉ l) (i : RegionIx) :
    drainsOf s (e :: l) i = ((decide (i = e) && isDrained s e) || drainsOf (drainEntry s e) l i) := by
  by_cases same : i = e
  · subst same
    simp [drainsOf, fresh]
  · simp [drainsOf, same, isDrained_drainEntry same]

theorem fences_drainEntry (s : State) (e : RegionIx) :
    (drainEntry s e).fences = scopesLess s.fences fun i => decide (i = e) && isDrained s e := by
  by_cases drained : isDrained s e = true
  · rw [drainEntry_of_drained drained, (completeClose_frame _ e).fences (by decide), fences_freeSource, drained]
    simp [scopesLess, scopesWithout, bne, BEq.beq]
  · rw [drainEntry_of_busy drained, Bool.eq_false_iff.mpr drained]
    simp only [Bool.and_false]
    rw [scopesLess_nothing]

/-- What the freeing of a drained entry reports. -/
def drainTold (s : State) (e : RegionIx) : List Event :=
  .regionState .drained e .source .draining .free :: (((s.cmd.pendingClose)[e]).map (closeDone e)).toList

theorem told_drainEntry (s : State) (e : RegionIx) (k : Nat) (room : ringRoom s (2 + k)) :
    eventsOf (drainEntry s e) = eventsOf s ++ (if isDrained s e = true then drainTold s e else []) ∧
      ringRoom (drainEntry s e) k := by
  by_cases drained : isDrained s e = true
  · have cmd : (freeSource s e).cmd = s.cmd := (freeSource_frame s e).cmd (by decide)
    have room2 : ringRoom s (k + 1 + 1) := ringRoom_mono room (by omega)
    have after : ringRoom (freeSource s e) (k + 1) := ringRoom_freeSource room2
    rw [drainEntry_of_drained drained, if_pos drained]
    refine ⟨?_, ringRoom_completeClose after⟩
    rw [eventsOf_completeClose (ringRoom_mono after (by omega)), eventsOf_freeSource (ringRoom_mono room (by omega)), cmd,
      List.append_assoc]
    rfl
  · rw [drainEntry_of_busy drained, if_neg drained]
    exact ⟨(List.append_nil _).symm, ringRoom_mono room (Nat.le_add_left ..)⟩

theorem marks_drainEntry (s : State) (e : RegionIx) : MarksCounted s (drainEntry s e) 0 := by
  by_cases drained : isDrained s e = true
  · rw [drainEntry_of_drained drained]
    exact (marks_freeSource s e).same (marks_completeClose _ e)
  · rw [drainEntry_of_busy drained]
    exact .of_stats rfl

theorem foldl_drainEntry_frame (l : List RegionIx) (s : State) :
    SameBut [.regions, .fences, .cmd, .ev, .stats] s (l.foldl drainEntry s) := .foldl drainEntry_frame l s

theorem cmd_drainEntry (s : State) (e : RegionIx) :
    (drainEntry s e).cmd = { s.cmd with pendingClose := (drainEntry s e).cmd.pendingClose } := by
  by_cases drained : isDrained s e = true
  · rw [drainEntry_of_drained drained, cmd_completeClose, (freeSource_frame s e).cmd (by decide)]
  · rw [drainEntry_of_busy drained]

theorem cmd_foldl_drainEntry : ∀ (l : List RegionIx) (s : State),
    (l.foldl drainEntry s).cmd = { s.cmd with pendingClose := (l.foldl drainEntry s).cmd.pendingClose }
  | [], _ => rfl
  | e :: l, s => by
    have later := cmd_foldl_drainEntry l (drainEntry s e)
    rwa [cmd_drainEntry] at later

theorem marks_foldl_drainEntry : ∀ (l : List RegionIx) (s : State), MarksCounted s (l.foldl drainEntry s) 0
  | [], _ => .of_stats rfl
  | e :: l, s => (marks_drainEntry s e).same (marks_foldl_drainEntry l _)

theorem entry_foldl_drainEntry (i : RegionIx) : ∀ (l : List RegionIx) (s : State), l.Nodup →
    (l.foldl drainEntry s).entry i = if drainsOf s l i = true then Entry.zero else s.entry i
  | [], s, _ => by simp [drainsOf]
  | e :: l, s, distinct => by
    obtain ⟨fresh, rest⟩ := List.nodup_cons.mp distinct
    rw [List.foldl_cons, entry_foldl_drainEntry i l _ rest, drainsOf_cons fresh, entry_drainEntry]
    cases drainsOf (drainEntry s e) l i <;> simp

theorem pendingClose_foldl_drainEntry (i : RegionIx) : ∀ (l : List RegionIx) (s : State), l.Nodup →
    ((l.foldl drainEntry s).cmd.pendingClose)[i] =
      if drainsOf s l i = true then none else (s.cmd.pendingClose)[i]
  | [], s, _ => by simp [drainsOf]
  | e :: l, s, distinct => by
    obtain ⟨fresh, rest⟩ := List.nodup_cons.mp distinct
    rw [List.foldl_cons, pendingClose_foldl_drainEntry i l _ rest, drainsOf_cons fresh, pendingClose_drainEntry]
    cases drainsOf (drainEntry s e) l i <;> simp

theorem fences_foldl_drainEntry : ∀ (l : List RegionIx) (s : State), l.Nodup →
    (l.foldl drainEntry s).fences = scopesLess s.fences (drainsOf s l)
  | [], s, _ => by
    have nothing : drainsOf s [] = fun _ => false := by funext e; simp [drainsOf]
    rw [nothing, scopesLess_nothing]
    rfl
  | e :: l, s, distinct => by
    obtain ⟨fresh, rest⟩ := List.nodup_cons.mp distinct
    rw [List.foldl_cons, fences_foldl_drainEntry l _ rest, fences_drainEntry, scopesLess_scopesLess]
    exact congrArg _ (funext fun i => (drainsOf_cons fresh i).symm)

theorem told_foldl_drainEntry : ∀ (l : List RegionIx) (s : State) (k : Nat), l.Nodup → ringRoom s (2 * l.length + k) →
    eventsOf (l.foldl drainEntry s) = eventsOf s ++ (l.filter (isDrained s)).flatMap (drainTold s) ∧
      ringRoom (l.foldl drainEntry s) k
  | [], s, k, _, room => ⟨(List.append_nil _).symm, by simpa using room⟩
  | e :: l, s, k, distinct, room => by
    obtain ⟨fresh, rest⟩ := List.nodup_cons.mp distinct
    have other (i : RegionIx) (mem : i ∈ l) : i ≠ e := fun same => fresh (same ▸ mem)
    have tests : l.filter (isDrained (drainEntry s e)) = l.filter (isDrained s) :=
      List.filter_congr fun i mem => isDrained_drainEntry (other i mem)
    have tells : (l.filter (isDrained s)).flatMap (drainTold (drainEntry s e)) =
        (l.filter (isDrained s)).flatMap (drainTold s) := by
      refine List.flatMap_congr fun i mem => ?_
      rw [drainTold, drainTold, pendingClose_drainEntry, if_neg fun h => other i (List.mem_of_mem_filter mem) h.1]
    have room2 : ringRoom s (2 + (2 * l.length + k)) := ringRoom_mono room (by rw [List.length_cons]; omega)
    obtain ⟨first, after⟩ := told_drainEntry s e _ room2
    obtain ⟨second, left⟩ := told_foldl_drainEntry l (drainEntry s e) k rest after
    refine ⟨?_, left⟩
    rw [List.foldl_cons, second, first, tests, tells, List.append_assoc]
    by_cases drained : isDrained s e = true <;> simp [drained]

end Sys2Proof.Machine
end

section
/-! PROOFS. What an ACK removes, and the row ACK (R65, R66). -/

namespace Sys2Proof.Machine

section
variable (s : State) (n : BitVec 32)

/-! ## The steps of R65 and R66 -/

/-- The state once the records have left the replay list (R64, R65). -/
def ackTaken : State := s.modTx fun t =>
  { t with replay := afterAck n s.tx.replay, cursor := keepCursor (afterAck n s.tx.replay) t.cursor, timeouts := 0,
           timer := if (afterAck n s.tx.replay).isEmpty ∨ t.suspended then none else some (replayExpiry s) }

/-- The state once the removed records are acknowledged. -/
def ackSettled : State := (coveredBy n s.tx.replay).foldl acknowledge (ackTaken s n)

/-- The regions that had a record removed. -/
def ackTouched : List RegionIx := entryList.filter fun e => (coveredBy n s.tx.replay).any fun r => r.record.region == some e

/-- The state once the regions that drain with them are freed. -/
def ackDrained : State := (ackTouched s n).foldl drainEntry (ackSettled s n)

theorem ackWork_eq : ackWork s n = fenceTest (ackDrained s n) := rfl

theorem ackTaken_frame : SameBut [.tx] s (ackTaken s n) := modTx_frame s _

theorem ackSettled_frame : SameBut [.tx, .resync, .ev, .stats] s (ackSettled s n) :=
  ((ackTaken_frame s n).mono rfl).then (foldl_acknowledge_frame _ _) rfl

theorem ackDrained_frame : SameBut [.tx, .resync, .regions, .cmd, .fences, .ev, .stats] s (ackDrained s n) :=
  ((ackSettled_frame s n).mono rfl).then (foldl_drainEntry_frame _ _) rfl

theorem ackWork_changes : SameBut [.tx, .resync, .regions, .cmd, .fences, .ev, .stats] s (ackWork s n) :=
  (ackDrained_frame s n).then (fenceTest_frame _) rfl

theorem tx_ackWork : (ackWork s n).tx = (ackTaken s n).tx := by
  rw [ackWork_eq, (fenceTest_frame _).tx (by decide), ackDrained, (foldl_drainEntry_frame _ _).tx (by decide), ackSettled,
    (foldl_acknowledge_frame _ _).tx (by decide)]

theorem resync_ackWork : (ackWork s n).resync = (ackSettled s n).resync := by
  rw [ackWork_eq, (fenceTest_frame _).resync (by decide), ackDrained, (foldl_drainEntry_frame _ _).resync (by decide)]

theorem cmd_ackWork : (ackWork s n).cmd = { s.cmd with pendingClose := (ackWork s n).cmd.pendingClose } := by
  rw [ackWork_eq, (fenceTest_frame _).cmd (by decide), ackDrained, cmd_foldl_drainEntry,
    (ackSettled_frame s n).cmd (by decide)]

theorem marks_ackWork : MarksCounted s (ackWork s n) 0 :=
  ((((ackTaken_frame s n).marks (by decide)).same (marks_foldl_acknowledge _ _)).same (marks_foldl_drainEntry _ _)).same
    (marks_fenceTest _)

theorem nodup_ackTouched : (ackTouched s n).Nodup := (List.nodup_finRange 32).filter _

theorem heldRecords_ackSettled : heldRecords (ackSettled s n) =
    s.capture.sync ++ s.capture.async ++ (afterAck n s.tx.replay).map Replayed.record :=
  (foldl_acknowledge_frame _ _).heldRecords (by decide) (by decide)

/-- Each region that had a record removed answers for one of the records. -/
theorem length_ackTouched : (ackTouched s n).length ≤ (coveredBy n s.tx.replay).length := by
  have among : ackTouched s n ⊆ (coveredBy n s.tx.replay).filterMap fun r => r.record.region := fun e mem => by
    obtain ⟨r, removed, region⟩ := List.any_eq_true.mp (List.mem_filter.mp mem).2
    exact List.mem_filterMap.mpr ⟨r, removed, by simpa using region⟩
  exact (List.Nodup.length_le_of_subset (nodup_ackTouched s n) among).trans (List.length_filterMap_le ..)

/-! ## The regions, the fences and the events of an ACK -/

section
variable {s n} {drained : RegionIx → Bool}
  (drains : ∀ e, drained e = true ↔ (s.entry e).state = .draining ∧
    (∃ r ∈ coveredBy n s.tx.replay, r.record.region = some e) ∧
    ∀ r ∈ s.capture.sync ++ s.capture.async ++ (afterAck n s.tx.replay).map Replayed.record, r.region ≠ some e)
include drains

theorem drainsOf_ackSettled : drainsOf (ackSettled s n) (ackTouched s n) = drained := by
  funext e
  rw [Bool.eq_iff_iff, drains, ← heldRecords_ackSettled]
  simp only [drainsOf, Bool.and_eq_true, decide_eq_true_eq, isDrained_iff, (ackSettled_frame s n).entry (by decide)]
  simp [ackTouched, entryList, and_left_comm]

theorem drained_ackTouched : (ackTouched s n).filter (isDrained (ackSettled s n)) = (List.finRange 32).filter drained := by
  rw [ackTouched, List.filter_filter]
  refine List.filter_congr fun e _ => ?_
  rw [← drainsOf_ackSettled drains, drainsOf, Bool.and_comm, Bool.eq_iff_iff]
  simp [ackTouched, entryList]

theorem entry_ackWork (e : RegionIx) : (ackWork s n).entry e = if drained e = true then Entry.zero else s.entry e := by
  rw [ackWork_eq, (fenceTest_frame _).entry (by decide), ackDrained, entry_foldl_drainEntry e _ _ (nodup_ackTouched s n),
    drainsOf_ackSettled drains, (ackSettled_frame s n).entry (by decide)]

theorem pendingClose_ackWork (e : RegionIx) : ((ackWork s n).cmd.pendingClose)[e] =
    if drained e = true then none else (s.cmd.pendingClose)[e] := by
  rw [ackWork_eq, (fenceTest_frame _).cmd (by decide), ackDrained,
    pendingClose_foldl_drainEntry e _ _ (nodup_ackTouched s n), drainsOf_ackSettled drains,
    (ackSettled_frame s n).cmd (by decide)]

theorem fences_ackWork {kept : Fence → Bool}
    (keeps : ∀ f, kept f = true ↔ s.session.state ≠ .up ∨
      FenceWaits (s.capture.sync ++ s.capture.async ++ (afterAck n s.tx.replay).map Replayed.record) f) :
    (ackWork s n).fences = (scopesLess s.fences drained).filter kept ∧
      (ringRoom s (3 * (coveredBy n s.tx.replay).length + s.fences.length) → eventsOf (ackWork s n) = eventsOf s ++
        (coveredBy n s.tx.replay).filterMap noteDone ++ ((List.finRange 32).filter drained).flatMap (drainTold s) ++
        ((scopesLess s.fences drained).filter fun f => !kept f).map fun f =>
          .fenceDone .durable .none f.tag none f.boundary) := by
  have settled := ackSettled_frame s n
  have freed := foldl_drainEntry_frame (ackTouched s n) (ackSettled s n)
  have fences : (ackDrained s n).fences = scopesLess s.fences drained := by
    rw [ackDrained, fences_foldl_drainEntry _ _ (nodup_ackTouched s n), drainsOf_ackSettled drains,
      settled.fences (by decide)]
  rw [← (ackDrained_frame s n).session (by decide), ← heldRecords_ackSettled,
    ← freed.heldRecords (by decide) (by decide)] at keeps
  obtain ⟨left, events⟩ := fenceTest_keeps keeps
  rw [fences] at left events
  refine ⟨left, fun room => ?_⟩
  have touched := length_ackTouched s n
  have length : (scopesLess s.fences drained).length = s.fences.length := List.length_map ..
  obtain ⟨first, after⟩ := told_foldl_acknowledge (coveredBy n s.tx.replay) (ackTaken s n)
    (2 * (ackTouched s n).length + s.fences.length) (ringRoom_mono (s := s) room (by omega))
  obtain ⟨second, roomLeft⟩ := told_foldl_drainEntry (ackTouched s n) (ackSettled s n) _ (nodup_ackTouched s n) after
  have tells : drainTold (ackSettled s n) = drainTold s := funext fun e => by
    rw [drainTold, drainTold, settled.cmd (by decide)]
  rw [drained_ackTouched drains, tells] at second
  rw [ackWork_eq, events (by rw [length]; exact roomLeft), ackDrained, second, ackSettled, first]
  rfl

end

/-! ## The row ACK -/

end

section
variable {s : State} {n : BitVec 32} {rest : List Byte}

theorem exec_ack_of_current (h : Current s (frameOf .ack rest)) :
    exec (.ack rest) s = .next (takeAck s (frameSeq (frameOf .ack rest))) :=
  congrArg Host.Outcome.next (deliver_of_current s _ _ h)

theorem takeAck_of_beyond (beyond : seqBelow s.tx.highest n = true) : takeAck s n = protocolClaim s := if_pos beyond

theorem takeAck_of_uncovered (within : seqBelow s.tx.highest n = false)
    (uncovered : ∀ r, s.tx.replay.head? = some r → seqUpTo r.seq n = false) : takeAck s n = s := by
  have none : coveredBy n s.tx.replay = [] := by
    unfold coveredBy
    cases replay : s.tx.replay with
    | nil => rfl
    | cons r rest => rw [List.takeWhile_cons, uncovered r (by rw [replay]; rfl)]; rfl
  rw [takeAck, if_neg (by rw [within]; exact Bool.false_ne_true), none]
  rfl

theorem takeAck_of_covered {oldest : Replayed} (within : seqBelow s.tx.highest n = false)
    (head : s.tx.replay.head? = some oldest) (covered : seqUpTo oldest.seq n = true) :
    takeAck s n = drainTest (ackWork s n) := by
  have some : (coveredBy n s.tx.replay).isEmpty = false := by
    unfold coveredBy
    cases replay : s.tx.replay with
    | nil => rw [replay] at head; cases head
    | cons r rest =>
      obtain rfl : r = oldest := by rw [replay] at head; exact Option.some.inj head
      rw [List.takeWhile_cons, covered]
      rfl
  rw [takeAck, if_neg (by rw [within]; exact Bool.false_ne_true), some, ← removeAcked_eq]
  rfl

/-- The drain test passes with an empty replay list only, and the loss empties it. -/
theorem replay_drainTest (s : State) : (drainTest s).tx.replay = s.tx.replay := by
  by_cases h : s.session.state = .closing ∧ isDry s = true
  · obtain ⟨closing, dry⟩ := h
    obtain ⟨_, _, replay⟩ := (isDry_iff s).mp dry
    have body : loseSession (lastFrames s) .disconnected 0 = lossBody (lastFrames s) .disconnected 0 := by
      exact (loseSession_eq ..).trans (if_neg (show ¬s.session.state = .up by simp [closing]))
    rw [drainTest_of_drained closing dry, body, tx_lossBody, replay]
  · rw [drainTest_of_not h]

theorem fenceTest_of_no_fence (none : s.fences = []) : fenceTest s = s := by
  by_cases up : s.session.state = .up
  · rw [fenceTest_of_up s up, completeFences_of_none]
    intro f mem
    rw [none] at mem
    cases mem
  · exact fenceTest_of_not_up s up

/-- The last record of the replay list was a NOTE, and no fence is pending. -/
theorem ackWork_of_note {cap : BitVec 48} {tag : BitVec 16} {payload : BitVec 128} (up : s.session.state = .up)
    (replay : s.tx.replay = [⟨n, ⟨cap, .note tag payload⟩⟩]) (fences : s.fences = []) :
    drainTest (ackWork s n) = emit { s with
      tx := { s.tx with replay := [], timeouts := 0, cursor := none, timer := none } } (.commandDone .ok tag 7 0 0) := by
  have upTo : seqUpTo n n = true := by simp [seqUpTo]
  have gone : coveredBy n s.tx.replay = [⟨n, ⟨cap, .note tag payload⟩⟩] := by simp [replay, coveredBy, upTo]
  have left : afterAck n s.tx.replay = [] := by simp [replay, afterAck, upTo]
  have touched : ackTouched s n = [] := by simp [ackTouched, gone, Record.region]
  have cursor (c : Option (BitVec 32)) : keepCursor [] c = none := by cases c <;> rfl
  have taken : ackTaken s n = { s with
      tx := { s.tx with replay := [], timeouts := 0, cursor := none, timer := none } } := by
    rw [ackTaken, left]
    simp only [cursor]
    rfl
  have settled : ackDrained s n = emit (ackTaken s n) (.commandDone .ok tag 7 0 0) := by
    rw [ackDrained, touched, ackSettled, gone]
    exact acknowledge_of_note (r := ⟨n, ⟨cap, .note tag payload⟩⟩) rfl
  have frame := emit_frame (ackTaken s n) (.commandDone .ok tag 7 0 0)
  have test : fenceTest (ackDrained s n) = ackDrained s n := by
    have none : (ackDrained s n).fences = [] := by rw [settled, frame.fences (by decide), taken, fences]
    exact fenceTest_of_no_fence none
  rw [ackWork_eq, test, settled, drainTest_of_not, taken]
  rw [frame.session (by decide), taken]
  simp [up]

end

end Sys2Proof.Machine

namespace Sys2Proof.Proofs
open Sys2Proof.Machine

/-- Settles O18: the records leave the replay list, then each step of R66 is followed through the state it leaves; the
drain test comes last. -/
theorem ackRemovesTheCovered : Obligations.AckRemovesTheCovered := by
  unfold Obligations.AckRemovesTheCovered
  intro rest s current n covered gone left records
  have run := exec_ack_of_current current
  refine ⟨fun beyond suspended => ?_, fun beyond active => ?_, fun within uncovered => ?_,
    fun oldest within head coveredOldest => ?_, fun cap tag payload within replay up fences => ?_⟩
  · rw [run, takeAck_of_beyond beyond, protocolClaim_of_suspended s suspended]
  · rw [run, takeAck_of_beyond beyond, protocolClaim_of_not_suspended s active]
  · exact run.trans (congrArg _ (takeAck_of_uncovered within uncovered))
  · have replay : (drainTest (ackWork s n)).tx.replay = left := by rw [replay_drainTest, tx_ackWork]; rfl
    refine ⟨drainTest (ackWork s n), ackWork s n, run.trans (congrArg _ (takeAck_of_covered within head coveredOldest)),
      rfl, replay, ?_, fun up => ?_, ?_, ?_, fun b => ?_, cmd_ackWork s n, marks_ackWork s n, ackWork_changes s n,
      fun drained kept drains keeps => ?_⟩
    · exact ((ackWork_changes s n).mono rfl).then (drainTest_frame _) rfl
    · have upNow : (ackWork s n).session.state = .up := by rw [(ackWork_changes s n).session (by decide), up]
      exact drainTest_of_not (by simp [upNow])
    · rw [tx_ackWork]
      unfold ackTaken
      rw [State.modTx_tx]
      simp only [List.isEmpty_iff]
      rfl
    · rw [resync_ackWork]
      exact resync_foldl_acknowledge _ (ackTaken s n)
    · have buffers := buffers_foldl_acknowledge b gone (ackTaken s n)
      rw [resync_ackWork]
      refine ⟨fun freed => buffers.trans (if_pos freed), fun held => buffers.trans (if_neg ?_)⟩
      rintro ⟨r, mem, buffer⟩
      exact held r mem buffer
    · obtain ⟨fences, events⟩ := fences_ackWork drains keeps
      refine ⟨fun e => ⟨entry_ackWork drains e, pendingClose_ackWork drains e⟩, fences, fun room => ?_⟩
      exact events room
  · exact run.trans (congrArg _ ((takeAck_of_covered within (by rw [replay]; rfl) (by simp [seqUpTo])).trans
      (ackWork_of_note up replay fences)))

end Sys2Proof.Proofs
end

section
/-! PROOFS. The segment in progress that a CLOSE of its region abandons without a mark (R11, R92, R96, R104). -/

namespace Sys2Proof.Machine

section
variable {s : State} {e : RegionIx}

theorem closeSegment_of_not (h : ¬SegmentOf s e) : closeSegment s e = s := by
  unfold closeSegment
  split
  next sg segment => exact if_neg fun region => h ⟨sg, segment, region⟩
  next => rfl

/-- The state once the segment's block no longer reads for it. -/
def blockLeft (s : State) : State := endHoldOf (s.modResync fun r =>
  { r with block := if r.block = .reading then .discarding else .idle }) .blockRead

theorem blockLeft_frame (s : State) : SameBut [.resync, .mem] s (blockLeft s) :=
  ((modResync_frame s _).mono rfl).then (endHoldOf_frame _ _) rfl

/-- The state once the segment has gone. -/
def segmentLeft (s : State) (sg : Segment) : State := dropSegment (blockLeft s) sg

variable {sg : Segment}

theorem closeSegment_of_segment (segment : s.resync.segment = some sg) (region : sg.region = e) :
    closeSegment s e = endDiscarding (segmentLeft s sg) := by
  rw [closeSegment, segment]
  exact if_pos region

/-! ## The Resync Engine -/

theorem resync_segmentLeft : (segmentLeft s sg).resync = { s.resync with
    segment := none, block := if s.resync.block = .reading then .discarding else .idle } := by
  rw [segmentLeft, resync_dropSegment, blockLeft, (endHoldOf_frame _ _).resync (by decide)]
  rfl

theorem endDiscarding_of_not (h : ¬(s.resync.block = .discarding ∧ s.resync.taken = s.resync.issued)) :
    endDiscarding s = s := if_neg h

theorem endDiscarding_of_answered (discarding : s.resync.block = .discarding) (answered : s.resync.taken = s.resync.issued) :
    endDiscarding s = releaseBlock s := if_pos ⟨discarding, answered⟩

theorem resync_closeSegment_of_idle (h : SegmentOf s e) (idle : s.resync.block ≠ .reading) :
    (closeSegment s e).resync = { s.resync with segment := none, block := .idle } := by
  obtain ⟨sg, segment, region⟩ := h
  have left := resync_segmentLeft (s := s) (sg := sg)
  rw [if_neg idle] at left
  rw [closeSegment_of_segment segment region, endDiscarding_of_not (by simp [left]), left]

theorem resync_closeSegment_of_due (h : SegmentOf s e) (reading : s.resync.block = .reading)
    (due : s.resync.taken ≠ s.resync.issued) :
    (closeSegment s e).resync = { s.resync with segment := none, block := .discarding } := by
  obtain ⟨sg, segment, region⟩ := h
  have left := resync_segmentLeft (s := s) (sg := sg)
  rw [if_pos reading] at left
  rw [closeSegment_of_segment segment region, endDiscarding_of_not (by simp [left, due]), left]

theorem resync_closeSegment_of_answered {b : Fin 4} {q : QueueClass} (h : SegmentOf s e)
    (reading : s.resync.block = .reading) (answered : s.resync.taken = s.resync.issued)
    (reserved : s.resync.reserved = some (b, q)) : (closeSegment s e).resync = { s.resync with
      segment := none, block := .idle, issued := 0, taken := 0, reserved := none
      buffers := setAt s.resync.buffers b none } := by
  obtain ⟨sg, segment, region⟩ := h
  have left := resync_segmentLeft (s := s) (sg := sg)
  rw [if_pos reading] at left
  rw [closeSegment_of_segment segment region, endDiscarding_of_answered (by rw [left]) (by rw [left]; exact answered),
    resync_releaseBlock_of_some (b := b) (q := q) (by rw [left]; exact reserved), left]
  simp [answered]

/-! ## The hold -/

theorem holdEnds_endDiscarding (s : State) : HoldEnds s.mem (endDiscarding s).mem
    ((s.resync.block = .discarding ∧ s.resync.taken = s.resync.issued) ∧ ReleaseEndsHold s) := by
  by_cases answered : s.resync.block = .discarding ∧ s.resync.taken = s.resync.issued
  · rw [endDiscarding_of_answered answered.1 answered.2]
    exact (holdEnds_releaseBlock s).congr (by simp [answered])
  · rw [endDiscarding_of_not answered]
    exact .of_eq rfl fun ends => answered ends.1

/-- The block's release ends this hold. -/
def ReleaseEnds (s : State) (hold : HoldReason) : Prop :=
  ∃ b q, s.resync.reserved = some (b, q) ∧ (hold = .blockRead ∨ (q = .sync ∧ hold = .syncFull))

theorem holdEnds_closeSegment (s : State) (e : RegionIx) : HoldEnds s.mem (closeSegment s e).mem
    (SegmentOf s e ∧ (s.mem.hold = .blockRead ∨
      (s.resync.block = .reading ∧ s.resync.taken = s.resync.issued ∧ ReleaseEndsHold s))) := by
  by_cases ours : SegmentOf s e
  · obtain ⟨sg, segment, region⟩ := id ours
    have left := resync_segmentLeft (s := s) (sg := sg)
    have first : HoldEnds s.mem (segmentLeft s sg).mem (s.mem.hold = .blockRead) := by
      rw [segmentLeft, mem_dropSegment]
      exact holdEnds_endHoldOf (s.modResync _) .blockRead
    have block : (segmentLeft s sg).resync.block = .discarding ↔ s.resync.block = .reading := by
      rw [left]
      by_cases reading : s.resync.block = .reading <;> simp [reading]
    have second := holdEnds_endDiscarding (segmentLeft s sg)
    rw [propext block, ReleaseEndsHold, left] at second
    have both := first.then (q := fun hold =>
      (s.resync.block = .reading ∧ s.resync.taken = s.resync.issued) ∧ ReleaseEnds s hold) second (by simp [ReleaseEnds])
    rw [closeSegment_of_segment segment region]
    exact both.congr (by simp only [ours, true_and, and_assoc]; rfl)
  · rw [closeSegment_of_not ours]
    exact .of_eq rfl fun ends => ours ends.1

/-! ## The fences of a switch segment -/

section
variable {ends : Bool} (switch : ends = true ↔ ∃ sg, s.resync.segment = some sg ∧ sg.region = e ∧ sg.switch = true)
include switch

theorem reports_closeSegment : (closeSegment s e).fences = (s.fences.filter fun f => !(ends && f.covers e)) ∧
    Reports s (closeSegment s e) 0 ((s.fences.filter fun f => ends && f.covers e).map fun f =>
      .fenceDone .notDurable .resyncAbandoned f.tag (some e) f.boundary) := by
  have quiet (stays : ends = false) : (s.fences.filter fun f => !(ends && f.covers e)) = s.fences ∧
      (s.fences.filter fun f => ends && f.covers e) = [] := by simp [stays]
  by_cases ours : SegmentOf s e
  · obtain ⟨sg, segment, rfl⟩ := ours
    have ended : ends = sg.switch := by rw [Bool.eq_iff_iff, switch]; simp [segment]
    have before := blockLeft_frame s
    have after := endDiscarding_frame (segmentLeft s sg)
    rw [closeSegment_of_segment segment rfl, after.fences (by decide)]
    cases switches : sg.switch with
    | true =>
      have gone := before.then (modResync_frame (blockLeft s) fun r => { r with segment := none }) rfl
      have fences := gone.fences (by decide)
      have told := reports_completeFences ((blockLeft s).modResync fun r => { r with segment := none })
        (fun f => f.covers sg.region) .resyncAbandoned (some sg.region)
      have left : segmentLeft s sg = completeFences ((blockLeft s).modResync fun r => { r with segment := none })
          (fun f => f.covers sg.region) .notDurable .resyncAbandoned (some sg.region) :=
        dropSegment_of_switch _ sg switches
      rw [fences] at told
      rw [ended, switches]
      simp only [Bool.true_and]
      refine ⟨by rw [left, fences_completeFences, fences], ?_⟩
      exact ((Reports.of_frame gone (by decide) (by decide)).trans (left ▸ told)).then after (by decide) (by decide)
    | false =>
      obtain ⟨all, none⟩ := quiet (ended.trans switches)
      have left : SameBut [.resync, .mem] s (segmentLeft s sg) := by
        rw [segmentLeft, dropSegment_of_no_switch _ sg switches]
        exact before.then (modResync_frame _ _) rfl
      rw [all, none, left.fences (by decide)]
      exact ⟨rfl, (Reports.of_frame left (by decide) (by decide)).then after (by decide) (by decide)⟩
  · have stays : ends = false := Bool.eq_false_iff.mpr fun h => by
      obtain ⟨sg, segment, region, _⟩ := switch.mp h
      exact ours ⟨sg, segment, region⟩
    obtain ⟨all, none⟩ := quiet stays
    rw [closeSegment_of_not ours, all, none]
    exact ⟨rfl, .quiet rfl rfl⟩

end

theorem marks_closeSegment (s : State) (e : RegionIx) : MarksCounted s (closeSegment s e) 0 := by
  by_cases ours : SegmentOf s e
  · obtain ⟨sg, segment, region⟩ := ours
    rw [closeSegment_of_segment segment region]
    have before : MarksCounted s (blockLeft s) 0 := (blockLeft_frame s).marks (by decide)
    exact (before.same (marks_dropSegment _ sg)).same ((endDiscarding_frame _).marks (by decide))
  · rw [closeSegment_of_not ours]
    exact .of_stats rfl

end

end Sys2Proof.Machine
end

section
/-! PROOFS. CLOSE at a source (R11, R12, R33, R147). -/

namespace Sys2Proof.Machine

/-! ## A drained source, with its fences before its CLOSE (R106, R145) -/

theorem ringRoom_fenceTest {s : State} {k : Nat} (room : ringRoom s (s.fences.length + k)) : ringRoom (fenceTest s) k := by
  by_cases up : s.session.state = .up
  · rw [fenceTest_of_up s up]
    refine ringRoom_foldl_emit _ _ (s.modFences fun fs => fs.filter fun f => !fencePasses s f) k ?_
    exact ringRoom_mono (s := s) room (Nat.add_le_add_right (List.length_filter_le ..) k)
  · rw [fenceTest_of_not_up s up]
    exact ringRoom_mono room (Nat.le_add_left ..)

/-- The state once a drained source is FREE and its CLOSE has completed. -/
def sourceClosed (s : State) (e : RegionIx) : State := completeClose (fenceTest (freeSource s e)) e

section
variable (s : State) (e : RegionIx)

theorem drainAtClose_of_drained {s : State} {e : RegionIx} (drained : isDrained s e = true) :
    drainAtClose s e = sourceClosed s e := if_pos drained

theorem drainAtClose_of_busy {s : State} {e : RegionIx} (busy : ¬isDrained s e = true) : drainAtClose s e = s := if_neg busy

theorem fenceTest_freeSource_frame : SameBut [.regions, .fences, .ev, .stats] s (fenceTest (freeSource s e)) :=
  ((freeSource_frame s e).mono rfl).then (fenceTest_frame _) rfl

theorem sourceClosed_frame : SameBut [.regions, .fences, .cmd, .ev, .stats] s (sourceClosed s e) :=
  ((fenceTest_freeSource_frame s e).mono rfl).then (completeClose_frame _ e) rfl

theorem entry_sourceClosed (i : RegionIx) : (sourceClosed s e).entry i = if i = e then Entry.zero else s.entry i := by
  rw [sourceClosed, entry_completeClose, (fenceTest_frame _).entry (by decide), entry_freeSource]

theorem cmd_sourceClosed :
    (sourceClosed s e).cmd = { s.cmd with pendingClose := (sourceClosed s e).cmd.pendingClose } := by
  rw [sourceClosed, cmd_completeClose, (fenceTest_freeSource_frame s e).cmd (by decide)]

theorem pendingClose_sourceClosed (i : RegionIx) : ((sourceClosed s e).cmd.pendingClose)[i] =
    if i = e then none else (s.cmd.pendingClose)[i] := by
  rw [sourceClosed, pendingClose_completeClose, (fenceTest_freeSource_frame s e).cmd (by decide)]

theorem marks_sourceClosed : MarksCounted s (sourceClosed s e) 0 :=
  ((marks_freeSource s e).same (marks_fenceTest _)).same (marks_completeClose _ e)

variable {s e}

theorem fences_sourceClosed {tag : BitVec 16} {kept : Fence → Bool} (pending : (s.cmd.pendingClose)[e] = some tag)
    (keeps : ∀ f, kept f = true ↔ s.session.state ≠ .up ∨ FenceWaits (heldRecords s) f) :
    (sourceClosed s e).fences = (scopesWithout s.fences e).filter kept ∧
      (ringRoom s (2 + s.fences.length) → eventsOf (sourceClosed s e) = eventsOf s ++
        .regionState .drained e .source .draining .free ::
          (((scopesWithout s.fences e).filter fun f => !kept f).map fun f =>
            .fenceDone .durable .none f.tag none f.boundary) ++ [closeDone e tag]) := by
  have freed := freeSource_frame s e
  rw [← freed.session (by decide), ← freed.heldRecords (by decide) (by decide)] at keeps
  obtain ⟨left, events⟩ := fenceTest_keeps keeps
  rw [fences_freeSource, length_scopesWithout] at events
  have cmd : (fenceTest (freeSource s e)).cmd = s.cmd := (fenceTest_freeSource_frame s e).cmd (by decide)
  rw [sourceClosed, (completeClose_frame _ e).fences (by decide), left, fences_freeSource]
  refine ⟨rfl, fun room => ?_⟩
  have roomFreed : ringRoom (freeSource s e) (s.fences.length + 1) :=
    ringRoom_freeSource (ringRoom_mono room (by omega))
  have roomTested : ringRoom (fenceTest (freeSource s e)) 1 := by
    refine ringRoom_fenceTest ?_
    rwa [fences_freeSource, length_scopesWithout]
  rw [eventsOf_completeClose roomTested, events (ringRoom_mono roomFreed (by omega)),
    eventsOf_freeSource (ringRoom_mono room (by omega)), cmd, pending, List.append_assoc (eventsOf s)]
  rfl

end

/-! ## The take of the CLOSE at a source -/

/-- The state once the entry drains, its CLOSE is pending and the forwarded writes have forgotten it. -/
def sourceDraining (s : State) (e : RegionIx) (tag : BitVec 16) : State :=
  forgetRegion (setPendingClose (emit (setEntry s e { s.entry e with state := .draining, dirty := [], errorReported := [] })
    (.regionState .closed e .source (s.entry e).state .draining)) e tag) e

/-- The state once the region has left MIRRORED and its segment has gone. -/
def sourceLeft (s : State) (e : RegionIx) (tag : BitVec 16) : State :=
  closeSegment (leftMirrored (sourceDraining s e tag) e) e

theorem closeSource_eq (s : State) (e : RegionIx) (tag : BitVec 16) :
    closeSource s e tag = drainAtClose (sourceLeft s e tag) e := rfl

section
variable (s : State) (e : RegionIx) (tag : BitVec 16)

theorem setPendingClose_frame : SameBut [.cmd] s (setPendingClose s e tag) := modCmd_frame _ _

theorem forgetRegion_frame : SameBut [.mem] s (forgetRegion s e) := modMem_frame _ _

theorem sourceDraining_frame : SameBut [.cmd, .mem, .regions, .ev, .stats] s (sourceDraining s e tag) :=
  ((((setEntry_frame s e _).mono rfl).then (emit_frame _ _) rfl).then (setPendingClose_frame _ e tag) rfl).then
    (forgetRegion_frame _ e) rfl

theorem beforeSegment_frame :
    SameBut [.cmd, .mem, .regions, .ev, .stats] s (leftMirrored (sourceDraining s e tag) e) :=
  (sourceDraining_frame s e tag).then (leftMirrored_frame _ e) rfl

theorem sourceLeft_frame :
    SameBut [.cmd, .mem, .regions, .resync, .fences, .ev, .stats] s (sourceLeft s e tag) :=
  ((beforeSegment_frame s e tag).mono rfl).then (closeSegment_frame _ e) rfl

theorem entry_sourceDraining (i : RegionIx) : (sourceDraining s e tag).entry i =
    if i = e then { s.entry e with state := .draining, dirty := [], errorReported := [] } else s.entry i := by
  rw [sourceDraining, forgetRegion, (modMem_frame _ _).entry (by decide), setPendingClose,
    (modCmd_frame _ _).entry (by decide), (emit_frame _ _).entry (by decide), entry_setEntry]

theorem entry_sourceLeft (i : RegionIx) : (sourceLeft s e tag).entry i =
    if i = e then { s.entry e with state := .draining, dirty := [], errorReported := [] } else s.entry i := by
  rw [sourceLeft, (closeSegment_frame _ e).entry (by decide), (leftMirrored_frame _ e).entry (by decide),
    entry_sourceDraining]

theorem cmd_sourceDraining : (sourceDraining s e tag).cmd =
    { s.cmd with pendingClose := setAt s.cmd.pendingClose e (some tag) } := by
  rw [sourceDraining, forgetRegion, (modMem_frame _ _).cmd (by decide), setPendingClose, State.modCmd_cmd,
    (emit_frame _ _).cmd (by decide)]
  rfl

theorem cmd_sourceLeft : (sourceLeft s e tag).cmd =
    { s.cmd with pendingClose := setAt s.cmd.pendingClose e (some tag) } := by
  rw [sourceLeft, (closeSegment_frame _ e).cmd (by decide), (leftMirrored_frame _ e).cmd (by decide), cmd_sourceDraining]

/-- A forwarded write of the region that is not answered yet forgets it. -/
def forgotten (rs : List RespEntry) (e : RegionIx) : List RespEntry :=
  rs.map fun r => if r.ready = false ∧ r.region = some e then { r with region := none } else r

theorem mem_sourceDraining : (sourceDraining s e tag).mem =
    { s.mem with responses := forgotten s.mem.responses e } := by
  rw [sourceDraining, forgetRegion, State.modMem_mem, setPendingClose, (modCmd_frame _ _).mem (by decide),
    (emit_frame _ _).mem (by decide)]
  rfl

theorem marks_sourceLeft : MarksCounted s (sourceLeft s e tag) 0 := by
  have draining : MarksCounted s (sourceDraining s e tag) 0 :=
    ((MarksCounted.same (m := 0) ((setEntry_frame s e _).marks (by decide)) (marks_emit _ _)).same
      ((modCmd_frame _ _).marks (by decide))).same ((modMem_frame _ _).marks (by decide))
  exact (draining.same ((leftMirrored_frame _ e).marks (by decide))).same (marks_closeSegment _ e)

theorem segmentOf_beforeSegment : SegmentOf (leftMirrored (sourceDraining s e tag) e) e ↔ SegmentOf s e := by
  rw [SegmentOf, (beforeSegment_frame s e tag).resync (by decide), SegmentOf]

theorem reports_sourceDraining : Reports s (leftMirrored (sourceDraining s e tag) e) 1
    [.regionState .closed e .source (s.entry e).state .draining] := by
  have set := Reports.of_frame (setEntry_frame s e { s.entry e with state := .draining, dirty := [], errorReported := [] })
    (by decide) (by decide)
  have told := set.trans (reports_emit _ (.regionState .closed e .source (s.entry e).state .draining))
  exact ((told.then (modCmd_frame _ _) (by decide) (by decide)).then (modMem_frame _ _) (by decide) (by decide)).then
    (leftMirrored_frame _ e) (by decide) (by decide)

variable {s e tag}

theorem fences_sourceLeft {ends : Bool}
    (switch : ends = true ↔ ∃ sg, s.resync.segment = some sg ∧ sg.region = e ∧ sg.switch = true) :
    (sourceLeft s e tag).fences = (s.fences.filter fun f => !(ends && f.covers e)) ∧
      Reports s (sourceLeft s e tag) 1 (.regionState .closed e .source (s.entry e).state .draining ::
        (s.fences.filter fun f => ends && f.covers e).map fun f =>
          .fenceDone .notDurable .resyncAbandoned f.tag (some e) f.boundary) := by
  have before := beforeSegment_frame s e tag
  rw [← before.resync (by decide)] at switch
  obtain ⟨left, told⟩ := reports_closeSegment switch
  rw [before.fences (by decide)] at left told
  exact ⟨left, (reports_sourceDraining s e tag).trans told⟩

/-- The region keeps its range, for the head request too. -/
theorem heldOn_sourceDraining (used : (s.entry e).state ≠ .free) : headRegion (sourceDraining s e tag) = headRegion s := by
  refine headRegion_congr (by rw [mem_sourceDraining]) fun i a => ?_
  rw [entry_sourceDraining]
  split
  next same =>
    subst same
    exact entryHolds_state { s.entry i with dirty := [], errorReported := [] } .draining a (by simp [used])
  next => rfl

/-- What ends the hold as the region leaves MIRRORED and its segment goes. -/
def CloseEndsHold (s : State) (e : RegionIx) (hold : HoldReason) : Prop :=
  ((hold = .syncFull ∨ hold = .blockRead) ∧ headRegion s = some e) ∨ (SegmentOf s e ∧ (hold = .blockRead ∨
    (s.resync.block = .reading ∧ s.resync.taken = s.resync.issued ∧ ReleaseEnds s hold)))

theorem holdEnds_sourceLeft (used : (s.entry e).state ≠ .free) : HoldEnds
    { s.mem with responses := forgotten s.mem.responses e } (sourceLeft s e tag).mem (CloseEndsHold s e s.mem.hold) := by
  have first := holdEnds_leftMirrored (sourceDraining s e tag) e
  have second := holdEnds_closeSegment (leftMirrored (sourceDraining s e tag) e) e
  rw [segmentOf_beforeSegment, ReleaseEndsHold, (beforeSegment_frame s e tag).resync (by decide)] at second
  rw [HeldOn, heldOn_sourceDraining used, mem_sourceDraining] at first
  exact first.then (q := fun hold => SegmentOf s e ∧ (hold = .blockRead ∨
    (s.resync.block = .reading ∧ s.resync.taken = s.resync.issued ∧ ReleaseEnds s hold))) second (by simp [ReleaseEnds])

end

end Sys2Proof.Machine
end

section
/-! PROOFS. The row CLOSE: the entry it names, a target that is released, and what each side leaves (R14, R147). -/

namespace Sys2Proof.Machine

section
variable {s : State} {l : Line} {e : RegionIx} {tag : BitVec 16}

/-! ## The entry that a CLOSE names -/

/-- What the line of a CLOSE does. -/
def closeLine (l : Line) (t : State) : State :=
  match regionIx? (lineByte l 4) with
  | none => done t .badEntry (lineTag l) codeClose (lineByte l 4)
  | some e => closeEntry t e (lineTag l)

theorem exec_close_of_takes (h : Takes s l 5) : exec .close s = .next (closeLine l (popLine s)) :=
  take_of_takes s l 5 (· == codeClose) closeLine h rfl

theorem exec_close_of_beyond (h : Takes s l 5) (beyond : 32 ≤ (lineByte l 4).toNat) : exec .close s =
    .next (emit (popLine s) (.commandDone .badEntry (lineTag l) 5 (lineByte l 4) 0)) := by
  rw [exec_close_of_takes h, closeLine, regionIx?_of_beyond beyond]
  rfl

theorem exec_close_of_entry (h : Takes s l 5) (val : e.val = (lineByte l 4).toNat) : exec .close s =
    .next (closeEntry (popLine s) e (lineTag l)) := by
  rw [exec_close_of_takes h, closeLine, regionIx?_of_val val]

theorem closeEntry_of_closed
    (closed : (s.entry e).state = .free ∨ (s.entry e).state = .draining ∨ (s.entry e).state = .releasing) :
    closeEntry s e tag = done s .entryBusy tag codeClose (BitVec.ofNat 8 e.val) := by
  unfold closeEntry
  obtain h | h | h := closed <;> rw [h]

theorem closeEntry_of_source (source : markable (s.entry e).state = true) : closeEntry s e tag = closeSource s e tag := by
  unfold closeEntry
  split
  next h => rw [h] at source; cases source
  next h => rw [h] at source; cases source
  next h => rw [h] at source; cases source
  next => rfl
  next => rfl
  next => rfl
  next h => rw [h] at source; cases source
  next h => rw [h] at source; cases source

theorem closeEntry_of_target (target : (s.entry e).state = .accepting ∨ (s.entry e).state = .failed) :
    closeEntry s e tag = closeTarget s e tag := by
  unfold closeEntry
  obtain h | h := target <;> rw [h]

/-! ## The take of the CLOSE at a target -/

/-- The state once the target is releasing and its CLOSE is pending. -/
def targetReleasing (s : State) (e : RegionIx) (tag : BitVec 16) : State :=
  setPendingClose (emit (setEntry s e { s.entry e with state := .releasing })
    (.regionState .closed e .target (s.entry e).state .releasing)) e tag

theorem closeTarget_eq : closeTarget s e tag = releaseEntry (targetReleasing s e tag) e := rfl

variable (s e tag)

theorem targetReleasing_frame : SameBut [.regions, .cmd, .ev, .stats] s (targetReleasing s e tag) :=
  (((setEntry_frame s e _).mono rfl).then (emit_frame _ _) rfl).then (setPendingClose_frame _ e tag) rfl

theorem entry_targetReleasing (i : RegionIx) : (targetReleasing s e tag).entry i =
    if i = e then { s.entry e with state := .releasing } else s.entry i := by
  rw [targetReleasing, (setPendingClose_frame _ e tag).entry (by decide), (emit_frame _ _).entry (by decide), entry_setEntry]

theorem cmd_targetReleasing : (targetReleasing s e tag).cmd =
    { s.cmd with pendingClose := setAt s.cmd.pendingClose e (some tag) } := by
  rw [targetReleasing, setPendingClose, State.modCmd_cmd, (emit_frame _ _).cmd (by decide)]
  rfl

theorem marks_targetReleasing : MarksCounted s (targetReleasing s e tag) 0 :=
  (MarksCounted.same (m := 0) ((setEntry_frame s e _).marks (by decide)) (marks_emit _ _)).same
    ((setPendingClose_frame _ e tag).marks (by decide))

theorem told_targetReleasing (k : Nat) (room : ringRoom s (1 + k)) :
    eventsOf (targetReleasing s e tag) = eventsOf s ++ [.regionState .closed e .target (s.entry e).state .releasing] ∧
      ringRoom (targetReleasing s e tag) k :=
  ((((Reports.of_frame (setEntry_frame s e { s.entry e with state := .releasing }) (by decide) (by decide)).trans
    (reports_emit _ (.regionState .closed e .target (s.entry e).state .releasing))).then
      (setPendingClose_frame _ e tag) (by decide) (by decide)).told k room)

variable {s e tag}

/-- A vector that differs in one place is a write of that place. -/
theorem eq_setAt {α : Type} {v w : Vector α 32} {x : α} (here : v[e] = x) (others : ∀ i : RegionIx, i ≠ e → v[i] = w[i]) :
    v = setAt w e x := by
  refine Vector.ext fun i lt => ?_
  have write := getElem_setAt w e ⟨i, lt⟩ x
  by_cases same : (⟨i, lt⟩ : RegionIx) = e
  · rw [if_pos same] at write
    refine Eq.trans ?_ write.symm
    rw [← here, ← same]
    rfl
  · rw [if_neg same] at write
    exact (others ⟨i, lt⟩ same).trans write.symm

end

/-! ## What a CLOSE leaves of the other entries -/

/-- From `s` to `t` no entry but `e` changes, nor any pending CLOSE but its own, and no mark is counted. -/
def ClosesOnly (s u t : State) (e : RegionIx) : Prop :=
  (∀ i, i ≠ e → t.entry i = s.entry i) ∧ t.cmd = { u.cmd with pendingClose := t.cmd.pendingClose } ∧
    (∀ i, i ≠ e → (t.cmd.pendingClose)[i] = (s.cmd.pendingClose)[i]) ∧ MarksCounted s t 0

theorem pendingClose_popLine (s : State) : (popLine s).cmd.pendingClose = s.cmd.pendingClose := by rw [popLine_eq]

theorem ClosesOnly.of_step {s v t : State} {e : RegionIx} {x : Option (BitVec 16)}
    (entry : ∀ i, i ≠ e → v.entry i = (popLine s).entry i)
    (cmd : v.cmd = { (popLine s).cmd with pendingClose := setAt (popLine s).cmd.pendingClose e x })
    (marks : MarksCounted (popLine s) v 0) (entry' : ∀ i, i ≠ e → t.entry i = v.entry i)
    (cmd' : t.cmd = { v.cmd with pendingClose := t.cmd.pendingClose })
    (closes : ∀ i, i ≠ e → (t.cmd.pendingClose)[i] = (v.cmd.pendingClose)[i]) (marks' : MarksCounted v t 0) :
    ClosesOnly s (popLine s) t e := by
  refine ⟨fun i other => ?_, ?_, fun i other => ?_, ((marks_popLine s).same marks).same marks'⟩
  · rw [entry' i other, entry i other, entry_popLine]
  · rw [cmd', cmd]
  · rw [closes i other, cmd]
    refine (getElem_setAt ..).trans ((if_neg other).trans ?_)
    rw [pendingClose_popLine]

/-! ## The steps of a source's CLOSE behind its take -/

section
variable (s : State) (e : RegionIx) (tag : BitVec 16)

/-- The state of a source's CLOSE before the test of R12. -/
def closeTaken : State := sourceLeft (popLine s) e tag

theorem closeTaken_frame : SameBut [.cmd, .mem, .regions, .resync, .fences, .ev, .stats] s (closeTaken s e tag) :=
  ((popLine_frame s).mono rfl).then (sourceLeft_frame _ e tag) rfl

theorem closeEndsHold_popLine (hold : HoldReason) : CloseEndsHold (popLine s) e hold ↔ CloseEndsHold s e hold := by
  have head : headRegion (popLine s) = headRegion s :=
    headRegion_congr (holdEnds_popLine s).head fun i a => by rw [entry_popLine]
  rw [CloseEndsHold, SegmentOf, ReleaseEnds, head, (popLine_frame s).resync (by decide)]
  rfl

theorem holdEnds_closeTaken (used : (s.entry e).state ≠ .free) : HoldEnds
    { s.mem with responses := forgotten s.mem.responses e } (closeTaken s e tag).mem
      (s.mem.hold = .commandFull ∨ CloseEndsHold s e s.mem.hold) := by
  have first : HoldEnds { s.mem with responses := forgotten s.mem.responses e }
      { (popLine s).mem with responses := forgotten (popLine s).mem.responses e } (s.mem.hold = .commandFull) := by
    obtain ⟨ends, stays⟩ := holdEnds_popLine s
    exact ⟨fun held => by rw [ends held], fun other => by rw [stays other]⟩
  have second := holdEnds_sourceLeft (s := popLine s) (e := e) (tag := tag) (by rwa [entry_popLine])
  rw [closeEndsHold_popLine] at second
  exact first.then (q := CloseEndsHold s e) second (by simp [CloseEndsHold, ReleaseEnds])

theorem resync_closeTaken : (¬SegmentOf s e → (closeTaken s e tag).resync = s.resync) ∧
    (SegmentOf s e → s.resync.block ≠ .reading →
      (closeTaken s e tag).resync = { s.resync with segment := none, block := .idle }) ∧
    (SegmentOf s e → s.resync.block = .reading → s.resync.taken ≠ s.resync.issued →
      (closeTaken s e tag).resync = { s.resync with segment := none, block := .discarding }) ∧
    ∀ b q, SegmentOf s e → s.resync.block = .reading → s.resync.taken = s.resync.issued →
      s.resync.reserved = some (b, q) → (closeTaken s e tag).resync = { s.resync with
        segment := none, block := .idle, issued := 0, taken := 0, reserved := none
        buffers := setAt s.resync.buffers b none } := by
  have before : (leftMirrored (sourceDraining (popLine s) e tag) e).resync = s.resync :=
    ((beforeSegment_frame (popLine s) e tag).resync (by decide)).trans ((popLine_frame s).resync (by decide))
  have segment : SegmentOf (leftMirrored (sourceDraining (popLine s) e tag) e) e ↔ SegmentOf s e := by
    rw [SegmentOf, before, SegmentOf]
  unfold closeTaken sourceLeft
  rw [← segment, ← before]
  exact ⟨fun h => by rw [closeSegment_of_not h], resync_closeSegment_of_idle, resync_closeSegment_of_due,
    fun b q => resync_closeSegment_of_answered⟩

variable {s e tag}

/-- The events of a source that drains and of its switch segment's fences. -/
def sourceTold (s : State) (e : RegionIx) (ends : Bool) : List Event :=
  .regionState .closed e .source (s.entry e).state .draining ::
    (s.fences.filter fun f => ends && f.covers e).map fun f =>
      .fenceDone .notDurable .resyncAbandoned f.tag (some e) f.boundary

theorem fences_closeTaken {ends : Bool}
    (switch : ends = true ↔ ∃ sg, s.resync.segment = some sg ∧ sg.region = e ∧ sg.switch = true) :
    (closeTaken s e tag).fences = (s.fences.filter fun f => !(ends && f.covers e)) ∧
      ∀ k, ringRoom s (1 + (s.fences.filter fun f => ends && f.covers e).length + k) →
        eventsOf (closeTaken s e tag) = eventsOf s ++ sourceTold s e ends ∧ ringRoom (closeTaken s e tag) k := by
  have popped := popLine_frame s
  rw [← popped.resync (by decide)] at switch
  obtain ⟨left, told⟩ := fences_sourceLeft (tag := tag) switch
  rw [popped.fences (by decide), entry_popLine] at told
  rw [popped.fences (by decide)] at left
  refine ⟨left, fun k room => ?_⟩
  rw [← eventsOf_popLine s]
  refine told.told k (ringRoom_popLine (ringRoom_mono room ?_))
  rw [List.length_cons, List.length_map, Nat.add_comm _ 1]

end

end Sys2Proof.Machine

namespace Sys2Proof.Proofs
open Sys2Proof.Machine

/-- Settles O44: the entry's state tells what the CLOSE does; a source that drains at once and a target that is released
at once are followed through the test of R12 or R14. -/
theorem closeRegions : Obligations.CloseRegions := by
  unfold Obligations.CloseRegions
  intro l s h u doneWith
  refine ⟨fun beyond => exec_close_of_beyond h beyond, fun e val => ?_⟩
  intro others
  have run := exec_close_of_entry h val
  have found : u.entry e = s.entry e := entry_popLine s e
  have byte : BitVec.ofNat 8 e.val = lineByte l 4 := by rw [val, BitVec.ofNat_toNat, BitVec.setWidth_eq]
  have popped := popLine_frame s
  refine ⟨fun closed => ?_, fun source => ?_, fun target => ?_⟩
  · rw [run, closeEntry_of_closed (by rw [entry_popLine]; exact closed), byte]
    rfl
  · have used : (s.entry e).state ≠ .free := fun free => by
      rw [free] at source
      cases source
    have left := closeTaken_frame s e (lineTag l)
    have held : heldRecords (closeTaken s e (lineTag l)) = heldRecords s :=
      ((sourceLeft_frame u e (lineTag l)).heldRecords (by decide) (by decide)).trans
        (popped.heldRecords (by decide) (by decide))
    have entry := entry_sourceLeft u e (lineTag l)
    have cmd := cmd_sourceLeft u e (lineTag l)
    have drains : isDrained (closeTaken s e (lineTag l)) e = true ↔ ∀ r ∈ heldRecords s, r.region ≠ some e := by
      rw [isDrained_iff, held, closeTaken, entry, if_pos rfl]
      simp
    have pending : ((closeTaken s e (lineTag l)).cmd.pendingClose)[e] = some (lineTag l) := by
      rw [closeTaken, cmd]
      exact (getElem_setAt ..).trans (if_pos rfl)
    have closes {t : State} := ClosesOnly.of_step (s := s) (v := closeTaken s e (lineTag l)) (t := t) (e := e)
      (fun i other => (entry i).trans (if_neg other)) cmd (marks_sourceLeft u e (lineTag l))
    have resync := resync_closeTaken s e (lineTag l)
    have hold := (holdEnds_closeTaken s e (lineTag l) used).congr (q := s.mem.hold = .commandFull ∨ HeldOn s e ∨
      (SegmentOf s e ∧ (s.mem.hold = .blockRead ∨
        (s.resync.block = .reading ∧ s.resync.taken = s.resync.issued ∧ ReleaseEndsHold s)))) Iff.rfl
    rw [run, closeEntry_of_source (by rw [entry_popLine]; exact source), closeSource_eq]
    by_cases drained : ∀ r ∈ heldRecords s, r.region ≠ some e
    · have freed := sourceClosed_frame (closeTaken s e (lineTag l)) e
      have gone := closes (fun i other => (entry_sourceClosed _ e i).trans (if_neg other))
        (cmd_sourceClosed _ e) (fun i other => (pendingClose_sourceClosed _ e i).trans (if_neg other))
        (marks_sourceClosed _ e)
      rw [← freed.resync (by decide)] at resync
      rw [← freed.mem (by decide)] at hold
      obtain ⟨none, idle, due, answered⟩ := resync
      refine ⟨_, congrArg _ (drainAtClose_of_drained (drains.mpr drained)), gone, fun some => ?_, fun _ => ⟨?_, ?_⟩,
        none, idle, due, answered, hold, fun ends kept switch keeps => ⟨fun some => ?_, fun _ => ?_⟩, ?_⟩
      · obtain ⟨r, mem, region⟩ := some
        exact absurd region (drained r mem)
      · exact (entry_sourceClosed _ e e).trans (if_pos rfl)
      · exact (pendingClose_sourceClosed _ e e).trans (if_pos rfl)
      · obtain ⟨r, mem, region⟩ := some
        exact absurd region (drained r mem)
      · rw [← held, ← left.session (by decide)] at keeps
        obtain ⟨fences, told⟩ := fences_closeTaken (tag := lineTag l) switch
        obtain ⟨without, events⟩ := fences_sourceClosed pending keeps
        rw [fences] at without events
        refine ⟨without, fun room => ?_⟩
        have all := List.length_eq_length_filter_add (l := s.fences) fun f => ends && f.covers e
        obtain ⟨first, after⟩ := told (2 + (s.fences.filter fun f => !(ends && f.covers e)).length)
          (ringRoom_mono room (by omega))
        refine (events after).trans ?_
        rw [first, closeDone, byte]
        rfl
      · exact left.then freed rfl
    · have stays := closes (fun _ _ => rfl) rfl (fun _ _ => rfl) (.of_stats rfl)
      obtain ⟨none, idle, due, answered⟩ := resync
      refine ⟨_, congrArg _ (drainAtClose_of_busy (mt drains.mp drained)), stays, fun _ => ⟨?_, pending⟩,
        fun all => absurd all drained, none, idle, due, answered, hold,
        fun ends kept switch keeps => ⟨fun _ => ?_, fun all => absurd all drained⟩, left⟩
      · exact (entry e).trans ((if_pos rfl).trans (by rw [found]))
      · obtain ⟨fences, told⟩ := fences_closeTaken (tag := lineTag l) switch
        have some := List.length_filter_le (fun f => ends && Fence.covers f e) s.fences
        exact ⟨fences, fun room => (told 0 (ringRoom_mono room (by omega))).1⟩
  · have found' : (targetReleasing u e (lineTag l)).entry e = { s.entry e with state := .releasing } := by
      rw [entry_targetReleasing, if_pos rfl, found]
    have first := targetReleasing_frame u e (lineTag l)
    have apply : (targetReleasing u e (lineTag l)).apply = s.apply := by rw [first.apply (by decide), popped.apply (by decide)]
    have pending : ((targetReleasing u e (lineTag l)).cmd.pendingClose)[e] = some (lineTag l) := by
      rw [cmd_targetReleasing]
      exact (getElem_setAt ..).trans (if_pos rfl)
    have closes := ClosesOnly.of_step (s := s) (v := targetReleasing u e (lineTag l)) (e := e)
      (t := releaseEntry (targetReleasing u e (lineTag l)) e)
      (fun i other => (entry_targetReleasing u e (lineTag l) i).trans (if_neg other))
      (cmd_targetReleasing u e (lineTag l)) (marks_targetReleasing u e (lineTag l))
    have told (k : Nat) (room : ringRoom s (1 + k)) := told_targetReleasing u e (lineTag l) k (ringRoom_popLine room)
    have frame : SameBut [.cmd, .mem, .regions, .apply, .ev, .stats] s (targetReleasing u e (lineTag l)) :=
      (popped.mono rfl).then first rfl
    have mem : (targetReleasing u e (lineTag l)).mem = u.mem := first.mem (by decide)
    rw [eventsOf_popLine, found] at told
    obtain ⟨stays, frees⟩ := targetTested_releaseEntry (targetReleasing u e (lineTag l)) e
    rw [found', apply] at stays frees
    rw [run, closeEntry_of_target (by rw [entry_popLine]; exact target), closeTarget_eq]
    refine ⟨_, rfl, ?_⟩
    by_cases waits : ∃ en ∈ s.apply.queue, en.isLine = true ∧ en.target = some e
    · have same := stays (.inr waits)
      rw [same] at closes ⊢
      refine ⟨closes (fun _ _ => rfl) rfl (fun _ _ => rfl) (.of_stats rfl), fun _ => ⟨found', pending, apply, fun room => ?_⟩,
        fun none => ?_, mem, frame⟩
      · exact (told 0 room).1
      · obtain ⟨en, queued, line, region⟩ := waits
        exact absurd region (none en queued line)
    · obtain ⟨freed, entries, rest, report, reports, cmd, closed, pendings, marks, _, events, moved⟩ :=
        frees fun busy => busy.elim (fun other => other rfl) waits
      refine ⟨closes entries cmd pendings marks, fun some => absurd some waits,
        fun _ => ⟨freed, closed, ?_, fun room => ?_⟩, ?_, ?_⟩
      · rw [rest, eq_setAt report reports, apply]
      · obtain ⟨first, after⟩ := told 2 room
        rw [events (lineTag l) pending after, first, byte, List.append_assoc]
        rfl
      · rw [moved.mem (by decide), mem]
      · exact frame.then moved rfl

end Sys2Proof.Proofs
end

section
/-! PROOFS. The steps of a RESTART that touch the records and the Resync Engine (R15, R38, R73, R95). -/

namespace Sys2Proof.Machine

/-! ## The records that a RESTART takes (R38, R73) -/

/-- From `s` to `t` the records `gone` have been converted at a RESTART, which reports nothing. -/
structure Discarded (s t : State) (gone : List Record) : Prop where
  lagging : ∀ e, (s.entry e).state = .lagging →
    Marked s t e .lagging fun k => ∃ r ∈ gone, InSegment (s.entry e).sizeExp e k r
  kept : ∀ e, (s.entry e).state ≠ .lagging → t.entry e = s.entry e
  buffers : ∀ b : Fin 4, (t.resync.buffers)[b] =
    if ∃ r ∈ gone, r.buffer = some b then none else (s.resync.buffers)[b]
  resync : t.resync = { s.resync with buffers := t.resync.buffers }
  lost : (t.stats)[statIx .eventsLost] = (s.stats)[statIx .eventsLost]

theorem lost_mark (s : State) (e : RegionIx) (k : Nat) :
    ((mark s e k).stats)[statIx .eventsLost] = (s.stats)[statIx .eventsLost] := by
  unfold mark
  split
  · exact (stats_count ..).trans (if_neg (by decide))
  · rfl

theorem lost_markRecord (s : State) (r : Record) :
    ((markRecord s r).stats)[statIx .eventsLost] = (s.stats)[statIx .eventsLost] := by
  unfold markRecord
  split
  · split
    · exact lost_mark ..
    · rfl
  · split
    · exact lost_mark ..
    · rfl
  · rfl

theorem Discarded.still {s t : State} (same : SameBut [.capture, .tx, .mem] s t) : Discarded s t [] := by
  refine ⟨fun e lagging => ⟨?_, fun k => ?_⟩, fun e _ => same.entry (by decide) e, fun b => ?_, ?_, ?_⟩
  · rw [same.entry (by decide), lagging.symm]
  · rw [same.entry (by decide)]
    simp
  · rw [same.resync (by decide)]
    simp
  · rw [same.resync (by decide)]
  · rw [same.stats (by decide)]

theorem Discarded.trans {s t u : State} {gone later : List Record} (h : Discarded s t gone) (g : Discarded t u later) :
    Discarded s u (gone ++ later) := by
  refine ⟨fun e lagging => ?_, fun e other => ?_, fun b => ?_, ?_, g.lost.trans h.lost⟩
  · have first := h.lagging e lagging
    have state : (t.entry e).state = .lagging := by rw [first.1]
    have size : (t.entry e).sizeExp = (s.entry e).sizeExp := by rw [first.1]
    refine (first.trans (g.lagging e state)).congr fun k => ?_
    rw [size]
    simp only [List.mem_append, or_and_right, exists_or]
  · have same := h.kept e other
    exact (g.kept e (by rwa [same])).trans same
  · rw [g.buffers, h.buffers]
    simp only [List.mem_append, or_and_right, exists_or]
    by_cases here : ∃ r ∈ gone, r.buffer = some b <;> by_cases there : ∃ r ∈ later, r.buffer = some b <;> simp [here, there]
  · rw [g.resync, h.resync]

theorem convertRecord_restart_frame (s : State) (r : Record) :
    SameBut [.regions, .resync, .stats] s (convertRecord false s r) :=
  ((markRecord_frame s r).mono rfl).then (freeRecordBuffer_frame _ r) rfl

theorem discarded_one {s s' : State} (r : Record) (same : SameBut [.capture, .tx, .mem] s s') :
    Discarded s (convertRecord false s' r) [r] := by
  have freed := freeRecordBuffer_frame (markRecord s' r) r
  have marks := markRecord_frame s' r
  have entry (e : RegionIx) : (convertRecord false s' r).entry e = (markRecord s' r).entry e := freed.entry (by decide) e
  have before (e : RegionIx) : s'.entry e = s.entry e := same.entry (by decide) e
  have resync : (convertRecord false s' r).resync = (freeRecordBuffer (markRecord s' r) r).resync := rfl
  refine ⟨fun e lagging => ?_, fun e other => ?_, fun b => ?_, ?_, ?_⟩
  · have marked := (marked_markRecord s' r e).1 (by rw [before, lagging])
    unfold Marked at marked ⊢
    rw [entry]
    rw [before] at marked
    simpa using marked
  · rw [entry, (marked_markRecord s' r e).2 (by rwa [before]), before]
  · rw [resync, buffers_freeRecordBuffer, marks.resync (by decide), same.resync (by decide)]
    simp
  · rw [resync, resync_freeRecordBuffer, marks.resync (by decide), same.resync (by decide)]
  · have lost := lost_markRecord s' r
    have stats : (convertRecord false s' r).stats = (markRecord s' r).stats := freed.stats (by decide)
    rw [stats, lost, same.stats (by decide)]

theorem discarded_convertReplay : ∀ (rs : List Replayed) (s : State),
    Discarded s (convertReplay false rs s) (rs.map Replayed.record)
  | [], s => .still (.refl _ s)
  | r :: rs, s => (discarded_one r.record ((modTx_frame s _).mono rfl)).trans (discarded_convertReplay rs _)

theorem discarded_convertQueued : ∀ (rs : List (QueueClass × Record)) (s : State),
    Discarded s (convertQueued false rs s) (rs.map Prod.snd)
  | [], s => .still (.refl _ s)
  | (q, r) :: rs, s => (discarded_one r ((popQueue_frame s q).mono rfl)).trans (discarded_convertQueued rs _)

theorem convertReplay_restart_frame : ∀ (rs : List Replayed) (s : State),
    SameBut [.tx, .regions, .resync, .stats] s (convertReplay false rs s)
  | [], s => .refl _ s
  | r :: rs, s => (((modTx_frame s _).mono rfl).then (convertRecord_restart_frame _ r.record) rfl).trans
      (convertReplay_restart_frame rs _)

theorem convertQueued_restart_frame : ∀ (rs : List (QueueClass × Record)) (s : State),
    SameBut [.capture, .mem, .regions, .resync, .stats] s (convertQueued false rs s)
  | [], s => .refl _ s
  | (q, r) :: rs, s => (((popQueue_frame s q).mono rfl).then (convertRecord_restart_frame _ r) rfl).trans
      (convertQueued_restart_frame rs _)

/-- A record of the merged queues is one of either queue. -/
theorem mem_queued (r : Record) (rs : List (QueueClass × Record)) :
    r ∈ rs.map Prod.snd ↔ r ∈ queued .sync rs ∨ r ∈ queued .async rs := by
  simp only [queued, List.mem_map, List.mem_filter, decide_eq_true_eq]
  constructor
  · rintro ⟨⟨q, x⟩, mem, rfl⟩
    cases q
    · exact .inl ⟨_, ⟨mem, rfl⟩, rfl⟩
    · exact .inr ⟨_, ⟨mem, rfl⟩, rfl⟩
  · rintro (⟨x, ⟨mem, _⟩, same⟩ | ⟨x, ⟨mem, _⟩, same⟩)
    · exact ⟨x, mem, same⟩
    · exact ⟨x, mem, same⟩

/-! ### Step 4 -/

/-- The state once the replay list is converted and the transmitter starts afresh. -/
def restartReplay (s : State) : State := (convertReplay false s.tx.replay s).modTx fun t =>
  { t with next := 1, highest := 0, cursor := none, timer := none, timeouts := 0, syncRun := 0, suspended := false }

section
variable (s : State)

theorem restartQueues_eq : restartQueues s =
    (convertQueues false (restartReplay s)).modCapture fun c => { c with counter := 1, boundary := 0 } := rfl

theorem restartReplay_frame : SameBut [.tx, .regions, .resync, .stats] s (restartReplay s) :=
  (convertReplay_restart_frame _ s).then (modTx_frame _ _) rfl

theorem restartQueues_frame : SameBut [.tx, .capture, .mem, .regions, .resync, .stats] s (restartQueues s) := by
  rw [restartQueues_eq, convertQueues]
  exact (((restartReplay_frame s).mono rfl).then (convertQueued_restart_frame _ _) rfl).then (modCapture_frame _ _) rfl

theorem tx_restartQueues : (restartQueues s).tx = { s.tx with
    replay := [], next := 1, highest := 0, cursor := none, timer := none, timeouts := 0, syncRun := 0, suspended := false } := by
  have replayed := replay_convertReplay false s
  rw [restartQueues_eq, State.modCapture_tx, (convertQueues_frame false _).tx (by decide), restartReplay, State.modTx_tx,
    replayed]

theorem capture_restartQueues : (restartQueues s).capture = ⟨1, [], [], 0⟩ := by
  rw [restartQueues_eq, State.modCapture_capture, capture_convertQueues]

theorem discarded_restartQueues : ∃ gone, Discarded s (restartQueues s) gone ∧ ∀ r, r ∈ gone ↔ r ∈ heldRecords s := by
  have capture : (restartReplay s).capture = s.capture := (restartReplay_frame s).capture (by decide)
  obtain ⟨sync, async⟩ := queued_mergeByCap (s.capture.sync.length + s.capture.async.length + 1) s.capture.sync
    s.capture.async (Nat.lt_succ_self _)
  have queued := discarded_convertQueued (mergeByCap (s.capture.sync.length + s.capture.async.length + 1) s.capture.sync
    s.capture.async) (restartReplay s)
  have queues : convertQueues false (restartReplay s) = convertQueued false
      (mergeByCap (s.capture.sync.length + s.capture.async.length + 1) s.capture.sync s.capture.async) (restartReplay s) := by
    rw [convertQueues, capture]
  have replayed := (discarded_convertReplay s.tx.replay s).trans (.still ((modTx_frame _ fun t =>
    { t with next := 1, highest := 0, cursor := none, timer := none, timeouts := 0, syncRun := 0, suspended := false }).mono
      rfl))
  have all := (replayed.trans queued).trans (.still ((modCapture_frame _ fun c =>
    { c with counter := 1, boundary := 0 }).mono rfl))
  refine ⟨_, by rw [restartQueues_eq, queues]; exact all, fun r => ?_⟩
  simp only [List.append_nil, List.mem_append, mem_queued, sync, async, heldRecords]
  exact or_comm

theorem counting_restartQueues {u : State} (h : Counting u s) : Counting u (restartQueues s) := by
  have replayed : Counting u (restartReplay s) :=
    (Counting.convertReplay false s.tx.replay h).frame (modTx_frame _ _) (by decide) (by decide)
  rw [restartQueues_eq, convertQueues]
  exact (Counting.convertQueued false _ replayed).frame (modCapture_frame _ _) (by decide) (by decide)

theorem holdEnds_restartQueues :
    HoldEnds s.mem (restartQueues s).mem (s.mem.hold = .syncFull ∧ s.capture.sync ≠ []) := by
  have frame := restartReplay_frame s
  have h := holdEnds_convertQueues false (restartReplay s)
  rwa [frame.mem (by decide), frame.capture (by decide)] at h

/-! ## The Resync Engine (step 5) -/

/-- The state once the segment is abandoned and marked, and no block stays under way; unlike the session's departure from
UP, without a report to the fences. -/
theorem restartResync_parts : (restartResync s).resync = { (resyncLeavesUp s).resync with turn := 0 } ∧
    (restartResync s).mem = (resyncLeavesUp s).mem ∧ (∀ e, (restartResync s).entry e = (resyncLeavesUp s).entry e) := by
  cases segment : s.resync.segment with
  | none =>
    have same : restartResync s = (resyncLeavesUp s).modResync fun r => { r with turn := 0 } := by
      rw [resyncLeavesUp_of_none s segment, restartResync, segment]
    rw [same]
    exact ⟨rfl, rfl, fun e => rfl⟩
  | some sg =>
    have drop := dropSegment_frame (mark (releaseBlock s) sg.region sg.index) sg
    have idle : ((mark (releaseBlock s) sg.region sg.index).modResync fun r => { r with segment := none }).resync.block ≠
        .discarding := by
      rw [State.modResync_resync, (mark_frame _ _ _).resync (by decide)]
      exact (block_releaseBlock s).symm ▸ (by decide)
    have same : restartResync s = ((mark (releaseBlock s) sg.region sg.index).modResync fun r =>
        { r with segment := none }).modResync fun r => { r with turn := 0 } := by
      rw [restartResync, segment]
      dsimp only
      rw [releaseDiscarding_of_not idle]
    rw [same, resyncLeavesUp_of_segment s segment]
    refine ⟨?_, ?_, fun e => ?_⟩
    · rw [resync_dropSegment]
      rfl
    · exact (drop.mem (by decide)).symm
    · exact (drop.entry (by decide) e).symm

theorem restartResync_frame : SameBut [.resync, .mem, .regions, .stats] s (restartResync s) := by
  unfold restartResync
  dsimp only
  split
  · exact (((((releaseBlock_frame s).mono rfl).then (mark_frame _ _ _) rfl).then (modResync_frame _ _) rfl).then
      (releaseDiscarding_frame _) rfl).then (modResync_frame _ _) rfl
  · exact ((releaseDiscarding_frame s).mono rfl).then (modResync_frame _ _) rfl

theorem lost_restartResync : ((restartResync s).stats)[statIx .eventsLost] = (s.stats)[statIx .eventsLost] := by
  unfold restartResync
  dsimp only
  rw [(modResync_frame _ _).stats (by decide), (releaseDiscarding_frame _).stats (by decide)]
  split
  · rw [(modResync_frame _ _).stats (by decide), lost_mark, (releaseBlock_frame s).stats (by decide)]
  · rfl

theorem counting_restartResync {u : State} (h : Counting u s) : Counting u (restartResync s) := by
  unfold restartResync
  dsimp only
  refine Counting.frame (Counting.frame ?_ (releaseDiscarding_frame _) (by decide) (by decide)) (modResync_frame _ _)
    (by decide) (by decide)
  split
  · exact ((h.frame (releaseBlock_frame s) (by decide) (by decide)).mark _ _).frame (modResync_frame _ _) (by decide)
      (by decide)
  · exact h

theorem block_resyncLeavesUp : (resyncLeavesUp s).resync.block ≠ .discarding := by
  by_cases ends : UnderWay s
  · rw [resync_resyncLeavesUp_of_underWay s ends, block_releaseBlock]
    decide
  · rw [resyncLeavesUp_of_idle s ends]
    exact (not_or.mp ends).2

end

end Sys2Proof.Machine
end

section
/-! PROOFS. The steps of a RESTART behind the Resync Engine: the Apply Engine, the commands, the targets and the head
request (R15, R121, R124, R141, R156). -/

namespace Sys2Proof.Machine

/-! ## The Memory Path keeps all but the hold -/

/-- From `m` to `m'` nothing changes but the hold, its timer and what it waits for. -/
def HoldOnly (m m' : MemPath) : Prop :=
  m' = { m with hold := m'.hold, holdTimer := m'.holdTimer, applyWait := m'.applyWait }

theorem HoldOnly.of_eq {m m' : MemPath} (h : m' = m) : HoldOnly m m' := by
  subst h
  rfl

theorem HoldOnly.trans {m m' m'' : MemPath} (h : HoldOnly m m') (g : HoldOnly m' m'') : HoldOnly m m'' := by
  unfold HoldOnly at h g ⊢
  rw [g, h]

theorem HoldEnds.holdOnly {m m' : MemPath} {p : Prop} (h : HoldEnds m m' p) : HoldOnly m m' := by
  by_cases ends : p
  · rw [h.1 ends]
    rfl
  · exact .of_eq (h.2 ends)

theorem HoldOnly.outstanding {m m' : MemPath} (h : HoldOnly m m') : m'.outstanding = m.outstanding := by
  rw [h]

/-! ## The APPLY_PENDING hold (R121, R124) -/

section
variable {s : State} {n : Nat}

theorem setApplyWait_of_other (other : s.mem.hold ≠ .applyPending) : setApplyWait s n = s := if_neg other

theorem setApplyWait_of_none (held : s.mem.hold = .applyPending) : (setApplyWait s 0).mem.hold = .none := by
  rw [setApplyWait, if_pos held]
  rfl

theorem setApplyWait_of_some (held : s.mem.hold = .applyPending) (some : n ≠ 0) :
    (setApplyWait s n).mem = { s.mem with applyWait := n } := by
  rw [setApplyWait, if_pos held, if_neg some]
  rfl

theorem holdOnly_setApplyWait (s : State) (n : Nat) : HoldOnly s.mem (setApplyWait s n).mem := by
  by_cases held : s.mem.hold = .applyPending
  · by_cases none : n = 0
    · rw [setApplyWait, if_pos held, if_pos none]
      rfl
    · rw [setApplyWait_of_some held none]
      rfl
  · rw [setApplyWait_of_other held]
    rfl

end

section
variable {q : List ApplyEntry} {n : Nat}

theorem waitAfterDiscard_of_issued (last : (q.take n).getLast?.map ApplyEntry.issued = some true) :
    waitAfterDiscard q n = ((q.take n).filter ApplyEntry.issued).length ∧ waitAfterDiscard q n ≠ 0 := by
  have wait : waitAfterDiscard q n = ((q.take n).filter ApplyEntry.issued).length := by
    rw [waitAfterDiscard, last]
    rfl
  obtain ⟨en, isLast, issued⟩ := Option.map_eq_some_iff.mp last
  have mem : en ∈ (q.take n).filter ApplyEntry.issued := List.mem_filter.mpr ⟨List.mem_of_getLast? isLast, issued⟩
  exact ⟨wait, wait ▸ Nat.ne_of_gt (List.length_pos_of_mem mem)⟩

theorem waitAfterDiscard_of_not (last : (q.take n).getLast?.map ApplyEntry.issued ≠ some true) :
    waitAfterDiscard q n = 0 := by
  refine if_neg fun issued => last ?_
  cases is : (q.take n).getLast?.map ApplyEntry.issued with
  | none => rw [is] at issued; cases issued
  | some b => rw [is] at issued; exact congrArg some issued

end

/-! ## The Apply Engine (step 7) -/

theorem keepIssued_uncut : ∀ q : List ApplyEntry, ((keepIssued q).map fun en => { en with cutShort := false }) =
    (q.filter fun en => en.issued).map fun en => { en with cutShort := false }
  | [] => rfl
  | en :: q => by
    rw [keepIssued, List.filter_cons]
    split
    · rw [List.map_cons, List.map_cons, keepIssued_uncut q]
    · exact keepIssued_uncut q

theorem apply_restartApply (s : State) : (restartApply s).apply = { s.apply with
    queue := keepIssued s.apply.queue, headError := s.apply.headError && frontIssued s.apply.queue,
    reports := Vector.replicate 32 ⟨none, 0⟩ } := by
  unfold restartApply setApplyWait
  split
  · split <;> rfl
  · rfl

/-! ## The RELEASING targets (step 8) -/

section
variable {s : State}

/-- No CLOSE is pending, and no target has anything unreported. -/
def Settled (s : State) : Prop :=
  (∀ e : RegionIx, (s.cmd.pendingClose)[e] = none) ∧ ∀ e : RegionIx, (s.apply.reports)[e] = ⟨none, 0⟩

theorem resetReport_of_settled (settled : Settled s) (e : RegionIx) : resetReport s e = s := by
  have same : s.apply.reports = setAt s.apply.reports e ⟨none, 0⟩ := eq_setAt (settled.2 e) fun _ _ => rfl
  have apply : { s.apply with reports := setAt s.apply.reports e ⟨none, 0⟩ } = s.apply := by rw [← same]
  show { s with apply := { s.apply with reports := setAt s.apply.reports e ⟨none, 0⟩ } } = s
  rw [apply]

theorem releaseEntry_of_settled (settled : Settled s) (e : RegionIx) :
    releaseEntry s e = if isReleased s e = true then setEntry s e Entry.zero else s := by
  unfold releaseEntry
  by_cases released : isReleased s e = true
  · rw [if_pos released, if_pos released, settled.1 e]
    exact resetReport_of_settled (s := setEntry s e Entry.zero) settled e
  · rw [if_neg released, if_neg released]

theorem releaseEntry_frame_of_settled (settled : Settled s) (e : RegionIx) : SameBut [.regions] s (releaseEntry s e) := by
  rw [releaseEntry_of_settled settled]
  split
  · exact setEntry_frame s e _
  · exact .refl _ s

theorem Settled.of_frame {t : State} (settled : Settled s) (frame : SameBut [.regions] s t) : Settled t := by
  unfold Settled
  rwa [frame.cmd (by decide), frame.apply (by decide)]

theorem entry_releaseEntry_of_settled (settled : Settled s) (e i : RegionIx) : (releaseEntry s e).entry i =
    if i = e ∧ isReleased s e = true then Entry.zero else s.entry i := by
  rw [releaseEntry_of_settled settled]
  by_cases released : isReleased s e = true
  · rw [if_pos released, entry_setEntry]
    simp only [released, and_true]
  · rw [if_neg released, if_neg fun h => released h.2]

theorem isReleased_congr {t : State} {e : RegionIx} (entry : t.entry e = s.entry e) (queue : t.apply.queue = s.apply.queue) :
    isReleased t e = isReleased s e := by
  rw [isReleased, isReleased, entry, queue]

theorem Counting.releaseEntry_of_settled {u : State} (h : Counting u s) (settled : Settled s) (e : RegionIx) :
    Counting u (releaseEntry s e) := by
  rw [Machine.releaseEntry_of_settled settled]
  split
  next released =>
    refine h.free e ?_
    have releasing : (s.entry e).state = .releasing := by
      simp only [isReleased, Bool.and_eq_true, decide_eq_true_eq] at released
      exact released.1
    rw [releasing]
    rfl
  next => exact h

end

theorem foldl_releaseEntry : ∀ (l : List RegionIx) (s : State), Settled s → l.Nodup →
    SameBut [.regions] s (l.foldl releaseEntry s) ∧
      (∀ i, (l.foldl releaseEntry s).entry i = if i ∈ l ∧ isReleased s i = true then Entry.zero else s.entry i) ∧
      ∀ u, Counting u s → Counting u (l.foldl releaseEntry s)
  | [], s, _, _ => ⟨.refl _ s, fun i => by simp, fun _ h => h⟩
  | e :: l, s, settled, distinct => by
    obtain ⟨fresh, rest⟩ := List.nodup_cons.mp distinct
    have first := releaseEntry_frame_of_settled settled e
    have entry := entry_releaseEntry_of_settled settled e
    obtain ⟨frame, entries, counts⟩ := foldl_releaseEntry l (releaseEntry s e) (settled.of_frame first) rest
    refine ⟨first.trans frame, fun i => ?_, fun u h => counts u (h.releaseEntry_of_settled settled e)⟩
    rw [List.foldl_cons, entries, entry]
    by_cases same : i = e
    · subst same
      simp [fresh]
    · have test : isReleased (releaseEntry s e) i = isReleased s i :=
        isReleased_congr ((entry i).trans (if_neg fun h => same h.1)) (by rw [first.apply (by decide)])
      simp [same, test]

section
variable {s : State} (settled : Settled s)
include settled

theorem restartReleasing_frame : SameBut [.regions] s (restartReleasing s) :=
  (foldl_releaseEntry entryList s settled (List.nodup_finRange 32)).1

theorem entry_restartReleasing (i : RegionIx) : (restartReleasing s).entry i =
    if isReleased s i = true then Entry.zero else s.entry i := by
  have entry := (foldl_releaseEntry entryList s settled (List.nodup_finRange 32)).2.1 i
  refine entry.trans ?_
  simp [entryList]

theorem counting_restartReleasing {u : State} (h : Counting u s) : Counting u (restartReleasing s) :=
  (foldl_releaseEntry entryList s settled (List.nodup_finRange 32)).2.2 u h

end

/-! ## The head request (step 9) -/

theorem restartHead_frame (s : State) : SameBut [.mem] s (restartHead s) :=
  (endHoldOf_frame s _).trans (endHoldOf_frame _ _)

theorem holdEnds_restartHead (s : State) :
    HoldEnds s.mem (restartHead s).mem (s.mem.hold = .syncFull ∨ s.mem.hold = .blockRead) :=
  (holdEnds_endHoldOf s .syncFull).then (q := fun hold => hold = .blockRead) (holdEnds_endHoldOf _ .blockRead) (by decide)

end Sys2Proof.Machine
end

section
/-! PROOFS. RESTART step by step (R15, R38, R57, R73, R95, R155, R156, R168). -/

namespace Sys2Proof.Machine

/-! ## The states between the steps -/

section
variable (s : State) (tag : BitVec 16)

/-- Behind steps 1 to 3: the counters, the session, the Link Receiver and the Region Table. -/
def restartFresh : State := restartRegions (restartSession (clearStats s))

/-- Behind step 4: no record is held. -/
def restartEmptied : State := restartQueues (restartFresh s)

/-- Behind steps 5 and 6: nothing is under way, and no fence is pending. -/
def restartIdle : State := (restartResync (restartEmptied s)).modFences fun _ => []

/-- Behind steps 7 and 8: no command is in progress, and the Command Unit waits. -/
def restartWaits : State := restartCommands (restartApply (restartIdle s)) tag

/-- Behind step 9. -/
def restartTaken : State := restartHead (restartReleasing (restartWaits s tag))

theorem restart_eq : restart s tag = finishRestart (restartTaken s tag) := rfl

/-! ## Steps 1 to 3 -/

theorem restartFresh_frame : SameBut [.stats, .session, .tx, .rx, .regions] s (restartFresh s) := by
  constructor <;> intro out <;> first | rfl | exact absurd (by decide) out

theorem entry_restartFresh (e : RegionIx) : (restartFresh s).entry e = restartEntry (s.entry e) :=
  entry_restartRegions (restartSession (clearStats s)) e

theorem restartEntry_of_lagging {en : Entry} (h : en.state = .lagging ∨ en.state = .mirrored) :
    restartEntry en = { en with state := .lagging } := by
  obtain h | h := h
  · have same : restartEntry en = en := by rw [restartEntry, h]
    rw [same, ← h]
  · rw [restartEntry, h]

/-- Of the entries that RESTART rewrites, only one that may not be marked loses flags. -/
theorem counting_restartRegions : Counting s (restartRegions s) := by
  have entry := entry_restartRegions s
  have fewer (e : RegionIx) : ((restartRegions s).entry e).dirty ⊆ (s.entry e).dirty := by
    rw [entry, restartEntry]
    split
    · exact List.Subset.refl _
    · exact List.nil_subset _
    all_goals exact List.Subset.refl _
  refine ⟨?_, fun e marks => ?_, fun e _ => fewer e⟩
  · rw [marksMade_eq_sum, Finset.sum_eq_zero fun e _ => newMarks_zero (fewer e)]
    exact .of_stats rfl
  · rw [entry, restartEntry] at marks ⊢
    split at marks
    · exact List.Subset.refl _
    · cases marks
    all_goals exact List.Subset.refl _

/-! ## Steps 4 to 6 -/

theorem restartEmptied_frame :
    SameBut [.stats, .session, .tx, .rx, .regions, .capture, .mem, .resync] s (restartEmptied s) :=
  ((restartFresh_frame s).mono rfl).then (restartQueues_frame _) rfl

theorem restartIdle_frame :
    SameBut [.stats, .session, .tx, .rx, .regions, .capture, .mem, .resync, .fences] s (restartIdle s) :=
  (((restartEmptied_frame s).mono rfl).then (restartResync_frame _) rfl).then (modFences_frame _ _) rfl

theorem tx_restartIdle : (restartIdle s).tx = ⟨[], [], 1, 0, none, none, 0, 0, false, s.tx.lossClaim⟩ := by
  rw [restartIdle, (modFences_frame _ _).tx (by decide), (restartResync_frame _).tx (by decide), restartEmptied,
    tx_restartQueues]
  rfl

theorem capture_restartIdle : (restartIdle s).capture = ⟨1, [], [], 0⟩ := by
  rw [restartIdle, (modFences_frame _ _).capture (by decide), (restartResync_frame _).capture (by decide), restartEmptied,
    capture_restartQueues]

theorem entry_restartIdle (e : RegionIx) : (restartIdle s).entry e = (resyncLeavesUp (restartEmptied s)).entry e := by
  rw [restartIdle, (modFences_frame _ _).entry (by decide), (restartResync_parts (restartEmptied s)).2.2]

theorem heldRecords_restartFresh : heldRecords (restartFresh s) = heldRecords s := rfl

/-- Where the region lags, the records held of it and the segment in progress become marks. -/
theorem marked_restartIdle {e : RegionIx} (lagging : (s.entry e).state = .lagging ∨ (s.entry e).state = .mirrored) :
    Marked s (restartIdle s) e .lagging fun k => HoldsIn s e k ∨ InProgress s e k := by
  obtain ⟨gone, discarded, mem⟩ := discarded_restartQueues (restartFresh s)
  have fresh : (restartFresh s).entry e = { s.entry e with state := .lagging } := by
    rw [entry_restartFresh, restartEntry_of_lagging lagging]
  have state : ((restartFresh s).entry e).state = .lagging := by rw [fresh]
  have records := discarded.lagging e state
  have emptied : ((restartEmptied s).entry e).state = .lagging := by rw [restartEmptied, records.1]
  have segment := (marked_resyncLeavesUp (restartEmptied s) e).1 (by rw [emptied]; rfl)
  rw [emptied] at segment
  have idle := entry_restartIdle s e
  have all := ((Marked.of_entry fresh).trans records).trans segment
  unfold Marked at all ⊢
  rw [idle]
  refine ⟨all.1, fun k => (all.2 k).trans (or_congr_right ?_)⟩
  have same : (restartEmptied s).resync.segment = s.resync.segment := by
    rw [restartEmptied, discarded.resync]
    rfl
  simp only [false_or, InProgress, same, fresh, mem, heldRecords_restartFresh]
  rfl

/-- Elsewhere the records make no mark, and the segment in progress only in REFUSED. -/
theorem marked_restartIdle_of_refused {e : RegionIx} (refused : (s.entry e).state = .refused) :
    Marked s (restartIdle s) e .refused (InProgress s e) := by
  obtain ⟨gone, discarded, _⟩ := discarded_restartQueues (restartFresh s)
  have fresh : (restartFresh s).entry e = s.entry e := by
    rw [entry_restartFresh, restartEntry, refused]
  have records : (restartEmptied s).entry e = s.entry e :=
    (discarded.kept e (by rw [fresh, refused]; decide)).trans fresh
  have segment := (marked_resyncLeavesUp (restartEmptied s) e).1 (by rw [records, refused]; rfl)
  have idle := entry_restartIdle s e
  have same : (restartEmptied s).resync.segment = s.resync.segment := by
    rw [restartEmptied, discarded.resync]
    rfl
  unfold Marked InProgress at segment
  rw [records, refused, same, ← idle] at segment
  exact segment

theorem entry_restartIdle_of_unmarked {e : RegionIx} (unmarked : markable (s.entry e).state = false) :
    (restartIdle s).entry e = restartEntry (s.entry e) := by
  obtain ⟨gone, discarded, _⟩ := discarded_restartQueues (restartFresh s)
  have fresh := entry_restartFresh s e
  have still : markable (restartEntry (s.entry e)).state = false := by
    unfold restartEntry
    split
    next h => rw [h] at unmarked; cases unmarked
    next => rfl
    all_goals exact unmarked
  have records : (restartEmptied s).entry e = restartEntry (s.entry e) := by
    refine (discarded.kept e ?_).trans fresh
    rw [fresh]
    intro lagging
    rw [lagging] at still
    cases still
  have segment := (marked_resyncLeavesUp (restartEmptied s) e).2 (by rw [records]; exact still)
  exact (entry_restartIdle s e).trans (segment.trans records)

theorem resync_restartIdle : (restartIdle s).resync.segment = none ∧ (restartIdle s).resync.turn = 0 ∧
    (restartIdle s).resync.block ≠ .discarding ∧ BuffersFreed s (restartIdle s) (heldRecords s) (UnderWay s) := by
  obtain ⟨gone, discarded, mem⟩ := discarded_restartQueues (restartFresh s)
  have resync : (restartIdle s).resync = { (resyncLeavesUp (restartEmptied s)).resync with turn := 0 } :=
    (restartResync_parts (restartEmptied s)).1
  have block : ((resyncLeavesUp (restartEmptied s)).resync).block ≠ .discarding := block_resyncLeavesUp _
  have way : UnderWay (restartEmptied s) ↔ UnderWay s := by
    unfold UnderWay
    rw [restartEmptied, discarded.resync]
    rfl
  have freed := buffersFreed_resyncLeavesUp (restartEmptied s)
  rw [propext way] at freed
  have all := BuffersFreed.after discarded.resync discarded.buffers freed
  refine ⟨by rw [resync, segment_resyncLeavesUp], by rw [resync], by rw [resync]; exact block, ?_⟩
  unfold BuffersFreed at all ⊢
  simp only [mem, heldRecords_restartFresh] at all
  rw [resync]
  exact all

theorem lost_restartIdle : ((restartIdle s).stats)[statIx .eventsLost] = 0 := by
  obtain ⟨gone, discarded, _⟩ := discarded_restartQueues (restartFresh s)
  have zero : ((restartFresh s).stats)[statIx .eventsLost] = 0 := by
    show (Vector.replicate 16 (0 : BitVec 64))[statIx .eventsLost] = 0
    simp
  rw [restartIdle, (modFences_frame _ _).stats (by decide), lost_restartResync]
  exact discarded.lost.trans zero

/-- The hold ends where a SYNC record or the block under way goes. -/
theorem holdEnds_restartIdle : HoldEnds s.mem (restartIdle s).mem
    ((s.mem.hold = .syncFull ∧ s.capture.sync ≠ []) ∨ (UnderWay s ∧ ReleaseEndsHold s)) := by
  obtain ⟨gone, discarded, _⟩ := discarded_restartQueues (restartFresh s)
  have fresh := restartFresh_frame s
  have records := holdEnds_restartQueues (restartFresh s)
  rw [← restartEmptied, fresh.mem (by decide), fresh.capture (by decide)] at records
  have segment := holdEnds_resyncLeavesUp (restartEmptied s)
  have mem : (restartIdle s).mem = (resyncLeavesUp (restartEmptied s)).mem := (restartResync_parts (restartEmptied s)).2.1
  have resync : UnderWay (restartEmptied s) ∧ ReleaseEndsHold (restartEmptied s) ↔
      UnderWay s ∧ ReleaseEnds s (restartEmptied s).mem.hold := by
    unfold UnderWay ReleaseEndsHold
    rw [show (restartEmptied s).resync = _ from discarded.resync]
    rfl
  rw [propext resync, ← mem] at segment
  have both := records.then (q := fun hold => UnderWay s ∧ ReleaseEnds s hold) segment (by simp [ReleaseEnds])
  exact both

theorem counting_restartIdle : Counting (restartSession (clearStats s)) (restartIdle s) :=
  (counting_restartResync _ (counting_restartQueues _ (counting_restartRegions _))).frame (modFences_frame _ _)
    (by decide) (by decide)

end

end Sys2Proof.Machine
end

section
/-! PROOFS. RESTART behind the Resync Engine: what it leaves of the Apply Engine, the commands, the hold and the targets (R15,
R121, R124, R141, R156, R168). -/

namespace Sys2Proof.Machine

section
variable (s : State) (tag : BitVec 16)

/-! ## The Apply Engine and the commands -/

theorem restartWaits_parts : SameBut [.apply, .mem, .cmd, .ev] (restartIdle s) (restartWaits s tag) := by
  rw [restartWaits, restartCommands]
  exact (((restartApply_frame _).mono rfl).then (modCmd_frame _ _) rfl).then (modEv_frame _ _) rfl

theorem mem_restartWaits : (restartWaits s tag).mem =
    (setApplyWait (restartIdle s) (waitAfterDiscard s.apply.queue (restartIdle s).mem.applyWait)).mem := by
  have queue : (restartIdle s).apply = s.apply := (restartIdle_frame s).apply (by decide)
  have mem (t : State) (f : ApplyEngine → ApplyEngine) (n : Nat) :
      (setApplyWait (t.modApply f) n).mem = (setApplyWait t n).mem := by
    unfold setApplyWait
    rw [State.modApply_mem]
    split
    · split <;> rfl
    · rfl
  rw [restartWaits, restartCommands, (modEv_frame _ _).mem (by decide), (modCmd_frame _ _).mem (by decide), restartApply,
    mem, queue]

theorem holdOnly_restartWaits : HoldOnly s.mem (restartWaits s tag).mem := by
  rw [mem_restartWaits]
  exact (holdEnds_restartIdle s).holdOnly.trans (holdOnly_setApplyWait _ _)

theorem outstanding_restartApply : injectedOutstanding (restartApply (restartIdle s)) = injectedOutstanding s := by
  have mem : (restartApply (restartIdle s)).mem = (restartWaits s 0).mem := by
    rw [restartWaits, restartCommands, (modEv_frame _ _).mem (by decide), (modCmd_frame _ _).mem (by decide)]
  rw [injectedOutstanding, mem, (holdOnly_restartWaits s 0).outstanding, injectedOutstanding]

theorem cmd_restartWaits : (restartWaits s tag).cmd = { s.cmd with
    pendingClose := Vector.replicate 32 none, writeOut := none, waiting := some ⟨tag, injectedOutstanding s⟩ } := by
  have before : (restartApply (restartIdle s)).cmd = s.cmd :=
    ((restartApply_frame _).cmd (by decide)).trans ((restartIdle_frame s).cmd (by decide))
  rw [restartWaits, restartCommands, (modEv_frame _ _).cmd (by decide), State.modCmd_cmd, before, outstanding_restartApply]

theorem ev_restartWaits : (restartWaits s tag).ev = { s.ev with writeOutLines := [] } := by
  have before : (restartApply (restartIdle s)).ev = s.ev :=
    ((restartApply_frame _).ev (by decide)).trans ((restartIdle_frame s).ev (by decide))
  rw [restartWaits, restartCommands, State.modEv_ev, (modCmd_frame _ _).ev (by decide), before]

theorem apply_restartWaits : (restartWaits s tag).apply = { s.apply with
    queue := keepIssued s.apply.queue, headError := s.apply.headError && frontIssued s.apply.queue,
    reports := Vector.replicate 32 ⟨none, 0⟩ } := by
  rw [restartWaits, restartCommands, (modEv_frame _ _).apply (by decide), (modCmd_frame _ _).apply (by decide),
    apply_restartApply, (restartIdle_frame s).apply (by decide)]

theorem settled_restartWaits : Settled (restartWaits s tag) := by
  unfold Settled
  rw [cmd_restartWaits, apply_restartWaits]
  exact ⟨fun e => by simp, fun e => by simp⟩

/-! ## The targets and the hold -/

theorem restartTaken_parts : SameBut [.regions, .mem] (restartWaits s tag) (restartTaken s tag) :=
  ((restartReleasing_frame (settled_restartWaits s tag)).mono rfl).then (restartHead_frame _) rfl

theorem restartTaken_changes : SameBut [.apply, .regions, .mem, .cmd, .ev] (restartIdle s) (restartTaken s tag) :=
  ((restartWaits_parts s tag).mono rfl).then (restartTaken_parts s tag) rfl

theorem restartTaken_frame : SameBut [.session, .capture, .tx, .rx, .resync, .fences, .apply, .cmd, .ev, .stats, .regions,
    .mem] s (restartTaken s tag) :=
  ((restartIdle_frame s).mono rfl).then (restartTaken_changes s tag) rfl

theorem entry_restartTaken (e : RegionIx) : (restartTaken s tag).entry e =
    if isReleased (restartWaits s tag) e = true then Entry.zero else (restartIdle s).entry e := by
  rw [restartTaken, (restartHead_frame _).entry (by decide), entry_restartReleasing (settled_restartWaits s tag),
    (restartWaits_parts s tag).entry (by decide)]

/-- Only a RELEASING entry can be released. -/
theorem entry_restartTaken_of_other {e : RegionIx} (other : ((restartIdle s).entry e).state ≠ .releasing) :
    (restartTaken s tag).entry e = (restartIdle s).entry e := by
  refine (entry_restartTaken s tag e).trans (if_neg fun released => other ?_)
  have same : (restartWaits s tag).entry e = (restartIdle s).entry e := (restartWaits_parts s tag).entry (by decide) e
  simp only [isReleased, same, Bool.and_eq_true, decide_eq_true_eq] at released
  exact released.1

theorem holdEnds_restartTaken : HoldEnds (restartWaits s tag).mem (restartTaken s tag).mem
    ((restartWaits s tag).mem.hold = .syncFull ∨ (restartWaits s tag).mem.hold = .blockRead) := by
  have h := holdEnds_restartHead (restartReleasing (restartWaits s tag))
  rwa [(restartReleasing_frame (settled_restartWaits s tag)).mem (by decide)] at h

theorem holdOnly_restartTaken : HoldOnly s.mem (restartTaken s tag).mem :=
  (holdOnly_restartWaits s tag).trans (holdEnds_restartTaken s tag).holdOnly

theorem counting_restartTaken : Counting (restartSession (clearStats s)) (restartTaken s tag) := by
  have waits := (counting_restartIdle s).frame (restartWaits_parts s tag) (by decide) (by decide)
  exact (counting_restartReleasing (settled_restartWaits s tag) waits).frame (restartHead_frame _) (by decide) (by decide)

theorem marksMade_restartSession (t : State) : marksMade (restartSession (clearStats s)) t = marksMade s t := rfl

variable {s tag}

/-- A hold that no step ends. -/
theorem mem_restartTaken_of_free (free : s.mem.hold = .none ∨ s.mem.hold = .loading) :
    (restartTaken s tag).mem = s.mem := by
  have idle : (restartIdle s).mem = s.mem := by
    refine (holdEnds_restartIdle s).2 ?_
    rintro (⟨full, _⟩ | ⟨_, b, q, _, read | ⟨_, full⟩⟩)
    · simp [full] at free
    · simp [read] at free
    · simp [full] at free
  have waits : (restartWaits s tag).mem = s.mem := by
    rw [mem_restartWaits, setApplyWait_of_other, idle]
    rw [idle]
    obtain h | h := free <;> simp [h]
  refine ((holdEnds_restartTaken s tag).2 ?_).trans waits
  rw [waits]
  obtain h | h := free <;> simp [h]

theorem hold_restartTaken_of_held (held : s.mem.hold = .syncFull ∨ s.mem.hold = .blockRead) :
    (restartTaken s tag).mem.hold = .none := by
  have still : (restartWaits s tag).mem = (restartIdle s).mem := by
    rw [mem_restartWaits, setApplyWait_of_other]
    by_cases ends : (s.mem.hold = .syncFull ∧ s.capture.sync ≠ []) ∨ (UnderWay s ∧ ReleaseEndsHold s)
    · rw [(holdEnds_restartIdle s).1 ends]
      exact nofun
    · rw [(holdEnds_restartIdle s).2 ends]
      obtain h | h := held <;> simp [h]
  have last := holdEnds_restartTaken s tag
  rw [still] at last
  by_cases ends : (s.mem.hold = .syncFull ∧ s.capture.sync ≠ []) ∨ (UnderWay s ∧ ReleaseEndsHold s)
  · have none : (restartIdle s).mem.hold = .none := by rw [(holdEnds_restartIdle s).1 ends]
    rw [last.2 (by simp [none]), none]
  · have idle := (holdEnds_restartIdle s).2 ends
    rw [last.1 (by rwa [idle])]

section
variable (pending : s.mem.hold = .applyPending)
include pending

theorem mem_restartIdle_of_pending : (restartIdle s).mem = s.mem := by
  refine (holdEnds_restartIdle s).2 ?_
  rintro (⟨full, _⟩ | ⟨_, b, q, _, read | ⟨_, full⟩⟩)
  · simp [full] at pending
  · simp [read] at pending
  · simp [full] at pending

theorem hold_restartTaken_of_pending :
    ((s.apply.queue.take s.mem.applyWait).getLast?.map ApplyEntry.issued = some true →
      (restartTaken s tag).mem.hold = .applyPending ∧
        (restartTaken s tag).mem.applyWait = ((s.apply.queue.take s.mem.applyWait).filter fun en => en.issued).length) ∧
    ((s.apply.queue.take s.mem.applyWait).getLast?.map ApplyEntry.issued ≠ some true →
      (restartTaken s tag).mem.hold = .none) := by
  have idle := mem_restartIdle_of_pending pending
  have held : (restartIdle s).mem.hold = .applyPending := by rw [idle, pending]
  have waits := mem_restartWaits s tag
  have last := holdEnds_restartTaken s tag
  rw [idle] at waits
  refine ⟨fun issued => ?_, fun not => ?_⟩
  · obtain ⟨count, some⟩ := waitAfterDiscard_of_issued issued
    rw [setApplyWait_of_some held some, idle] at waits
    rw [last.2 (by simp [waits, pending]), waits]
    exact ⟨pending, count⟩
  · rw [waitAfterDiscard_of_not not] at waits
    have none : (restartWaits s tag).mem.hold = .none := by rw [waits, setApplyWait_of_none held]
    rw [last.2 (by simp [none]), none]

end

end

end Sys2Proof.Machine
end

section
/-! PROOFS. The row RESTART (R155, R156, R165, R168). -/

namespace Sys2Proof.Machine

section
variable {s : State} {l : Line} {tag : BitVec 16}

theorem exec_restart_of_takes (h : Takes s l 13) : exec .restart s = .next (restart (popLine s) (lineTag l)) :=
  take_of_takes s l 13 (· == codeRestart) (fun l t => restart t (lineTag l)) h rfl

/-! ## The end of a RESTART (R168) -/

section
variable {t : State} {n : Nat} (waits : t.cmd.waiting = some ⟨tag, n⟩)
include waits

theorem finishRestart_of_due (due : n ≠ 0) : finishRestart t = t :=
  finishRestart_of_open (.inr ⟨_, waits, Nat.pos_of_ne_zero due⟩)

theorem finishRestart_of_nothing (none : n = 0) :
    finishRestart t = emit { t with cmd := { t.cmd with waiting := .none } } (.restarted tag) := by
  subst none
  exact finishRestart_of_done waits

theorem cmd_finishRestart : (finishRestart t).cmd =
    { t.cmd with waiting := if n = 0 then none else some ⟨tag, n⟩ } := by
  by_cases none : n = 0
  · rw [finishRestart_of_nothing waits none, (emit_frame _ _).cmd (by decide), if_pos none]
  · rw [finishRestart_of_due waits none, if_neg none, ← waits]

theorem ev_finishRestart (none : n = 0) : (finishRestart t).ev = (emit t (.restarted tag)).ev := by
  rw [finishRestart_of_nothing waits none, emit_eq, emit_eq]

theorem marks_finishRestart : MarksCounted t (finishRestart t) 0 := by
  by_cases none : n = 0
  · rw [finishRestart_of_nothing waits none]
    exact MarksCounted.same (.of_stats rfl) (marks_emit _ _)
  · rw [finishRestart_of_due waits none]
    exact .of_stats rfl

theorem stats_finishRestart (quiet : n ≠ 0 ∨ ringRoom t 1) : (finishRestart t).stats = t.stats := by
  by_cases none : n = 0
  · rw [finishRestart_of_nothing waits none]
    exact stats_emit_of_unreleased (s := { t with cmd := { t.cmd with waiting := .none } }) (.restarted tag)
      (quiet.resolve_left fun h => h none)
  · rw [finishRestart_of_due waits none]

theorem eventsOf_finishRestart : (n ≠ 0 → eventsOf (finishRestart t) = eventsOf t) ∧
    (n = 0 → ringRoom t 1 → eventsOf (finishRestart t) = eventsOf t ++ [.restarted tag]) := by
  refine ⟨fun due => ?_, fun none room => ?_⟩
  · rw [finishRestart_of_due waits due]
  · rw [finishRestart_of_nothing waits none]
    exact eventsOf_emit { t with cmd := { t.cmd with waiting := .none } } _ room

end

/-! ## Behind the take -/

theorem waiting_restartTaken :
    (restartTaken s tag).cmd.waiting = some ⟨tag, injectedOutstanding s⟩ := by
  rw [(restartTaken_parts s tag).cmd (by decide), cmd_restartWaits]

theorem restart_changes (s : State) (tag : BitVec 16) : SameBut [.cmd, .ev, .stats] (restartTaken s tag) (restart s tag) :=
  restart_eq s tag ▸ finishRestart_frame _

theorem cmd_restart : (restart s tag).cmd = { s.cmd with
    pendingClose := Vector.replicate 32 none, writeOut := none
    waiting := if injectedOutstanding s = 0 then none else some ⟨tag, injectedOutstanding s⟩ } := by
  rw [restart_eq, cmd_finishRestart waiting_restartTaken, (restartTaken_parts s tag).cmd (by decide), cmd_restartWaits]

theorem ev_restartTaken : (restartTaken s tag).ev = { s.ev with writeOutLines := [] } := by
  rw [(restartTaken_parts s tag).ev (by decide), ev_restartWaits]

theorem ev_restart_of_open (due : injectedOutstanding s ≠ 0) :
    (restart s tag).ev = { s.ev with writeOutLines := [] } := by
  rw [restart_eq, finishRestart_of_due waiting_restartTaken due, ev_restartTaken]

theorem ev_restart_of_done (none : injectedOutstanding s = 0) : (restart s tag).ev =
    (emit { s with ev := { s.ev with writeOutLines := [] } } (.restarted tag)).ev := by
  have params : (restartTaken s tag).params = s.params := (restartTaken_frame s tag).params (by decide)
  rw [restart_eq, ev_finishRestart waiting_restartTaken none, emit_eq, emit_eq, params, ev_restartTaken]

/-! ## The counters -/

theorem marks_restart : MarksCounted (restartSession (clearStats s)) (restart s tag) (marksMade s (restart s tag)) := by
  have taken := counting_restartTaken s tag
  have made : marksMade s (restart s tag) = marksMade (restartSession (clearStats s)) (restartTaken s tag) := by
    rw [marksMade_restartSession, marksMade_eq_sum, marksMade_eq_sum]
    refine Finset.sum_congr rfl fun e _ => ?_
    rw [newMarks, (restart_changes s tag).entry (by decide)]
  rw [made, restart_eq]
  exact taken.counted.same (marks_finishRestart waiting_restartTaken)

theorem lost_restart (quiet : injectedOutstanding s ≠ 0 ∨ ringRoom s 1) :
    ((restart s tag).stats)[statIx .eventsLost] = 0 := by
  have room (h : ringRoom s 1) : ringRoom (restartTaken s tag) 1 := by
    rw [ringRoom, ev_restartTaken]
    exact h
  rw [restart_eq, stats_finishRestart waiting_restartTaken (quiet.imp id room),
    (restartTaken_changes s tag).stats (by decide), lost_restartIdle]

/-! ## The events -/

theorem eventsOf_restart : (injectedOutstanding s ≠ 0 → eventsOf (restart s tag) = eventsOf s) ∧
    (injectedOutstanding s = 0 → ringRoom s 1 → eventsOf (restart s tag) = eventsOf s ++ [.restarted tag]) := by
  have told : eventsOf (restartTaken s tag) = eventsOf s := by rw [eventsOf, ev_restartTaken, eventsOf]
  have room (h : ringRoom s 1) : ringRoom (restartTaken s tag) 1 := by
    rw [ringRoom, ev_restartTaken]
    exact h
  obtain ⟨due, done⟩ := eventsOf_finishRestart (waiting_restartTaken (s := s) (tag := tag))
  rw [restart_eq, ← told]
  exact ⟨due, fun none h => done none (room h)⟩

/-! ## The regions -/

theorem marked_restart {e : RegionIx} {state : RegionState} {p : Nat → Prop} (other : state ≠ .releasing)
    (h : Marked s (restartIdle s) e state p) : Marked s (restart s tag) e state p := by
  have idle : ((restartIdle s).entry e).state = state := by rw [h.1]
  have taken := entry_restartTaken_of_other s tag (e := e) (by rwa [idle])
  have entry : (restart s tag).entry e = (restartIdle s).entry e :=
    ((restart_changes s tag).entry (by decide) e).trans taken
  unfold Marked at h ⊢
  rwa [entry]

theorem entry_restart_of_unmarked {e : RegionIx} (unmarked : markable (s.entry e).state = false)
    (other : (s.entry e).state ≠ .releasing) : (restart s tag).entry e = restartEntry (s.entry e) := by
  have idle := entry_restartIdle_of_unmarked s unmarked
  have taken := entry_restartTaken_of_other s tag (e := e) (by
    rw [idle, restartEntry]
    split
    · exact nofun
    · exact nofun
    all_goals exact other)
  exact ((restart_changes s tag).entry (by decide) e).trans (taken.trans idle)

theorem isReleased_of_apply {w : State} {a : ApplyEngine} {e : RegionIx} (entry : w.entry e = s.entry e)
    (queue : w.apply.queue = a.queue) : isReleased { s with apply := a } e = isReleased w e := by
  rw [isReleased, isReleased, entry, queue]
  rfl

theorem entry_restart_of_releasing {e : RegionIx} (releasing : (s.entry e).state = .releasing) :
    (restart s tag).entry e =
      if isReleased { s with apply := (restart s tag).apply } e then Entry.zero else s.entry e := by
  have idle : (restartIdle s).entry e = s.entry e := by
    rw [entry_restartIdle_of_unmarked s (by rw [releasing]; rfl), restartEntry, releasing]
  have entry : (restartWaits s tag).entry e = s.entry e := ((restartWaits_parts s tag).entry (by decide) e).trans idle
  have apply : (restart s tag).apply = (restartWaits s tag).apply :=
    ((restart_changes s tag).apply (by decide)).trans ((restartTaken_parts s tag).apply (by decide))
  have test : isReleased { s with apply := (restart s tag).apply } e = isReleased (restartWaits s tag) e :=
    isReleased_of_apply entry (congrArg ApplyEngine.queue apply.symm)
  rw [(restart_changes s tag).entry (by decide), entry_restartTaken, idle, test]

end

end Sys2Proof.Machine
end

section
/-! PROOFS. What a RESTART leaves behind the take of its line (R155). -/

namespace Sys2Proof.Machine

section
variable {s : State} {tag : BitVec 16}

/-! ## The parts that a step sets once -/

theorem restart_parts (s : State) (tag : BitVec 16) :
    SameBut [.apply, .regions, .mem, .cmd, .ev, .stats] (restartIdle s) (restart s tag) :=
  ((restartTaken_changes s tag).mono rfl).then (restart_changes s tag) rfl

theorem session_restartIdle : (restartIdle s).session = { s.session with
    state := .disabled, enable := false, epoch := 0, answer := none, joinTimer := none, pendingDisconnect := none } := by
  rw [restartIdle, (modFences_frame _ _).session (by decide), (restartResync_frame _).session (by decide), restartEmptied,
    (restartQueues_frame _).session (by decide)]
  rfl

theorem rx_restartIdle : (restartIdle s).rx = ⟨1, false, false, none, 0, 0, none, 0, false⟩ := by
  rw [restartIdle, (modFences_frame _ _).rx (by decide), (restartResync_frame _).rx (by decide), restartEmptied,
    (restartQueues_frame _).rx (by decide)]
  rfl

theorem apply_restart : (restart s tag).apply = { s.apply with
    queue := keepIssued s.apply.queue, headError := s.apply.headError && frontIssued s.apply.queue,
    reports := Vector.replicate 32 ⟨none, 0⟩ } := by
  rw [(restart_changes s tag).apply (by decide), (restartTaken_parts s tag).apply (by decide), apply_restartWaits]

theorem mem_restart : (restart s tag).mem = (restartTaken s tag).mem := (restart_changes s tag).mem (by decide)

theorem restart_frame (s : State) (tag : BitVec 16) : SameBut [.session, .capture, .tx, .rx, .resync, .fences, .apply, .cmd,
    .ev, .stats, .regions, .mem] s (restart s tag) :=
  (restartTaken_frame s tag).then (restart_changes s tag) rfl

/-! ## The take -/

theorem mem_popLine_of_other (other : s.mem.hold ≠ .commandFull) : (popLine s).mem = s.mem := (holdEnds_popLine s).2 other

theorem injectedOutstanding_popLine (s : State) : injectedOutstanding (popLine s) = injectedOutstanding s := by
  rw [injectedOutstanding, (holdEnds_popLine s).holdOnly.outstanding, injectedOutstanding]

theorem HoldsIn_popLine (e : RegionIx) : HoldsIn (popLine s) e = HoldsIn s e := by
  funext k
  rw [HoldsIn, (popLine_frame s).heldRecords (by decide) (by decide), entry_popLine, HoldsIn]

theorem BuffersFreed.of_popLine {t : State} (h : BuffersFreed (popLine s) t (heldRecords (popLine s)) (UnderWay (popLine s))) :
    BuffersFreed s t (heldRecords s) (UnderWay s) := by
  unfold BuffersFreed UnderWay at h ⊢
  rwa [(popLine_frame s).heldRecords (by decide) (by decide), (popLine_frame s).resync (by decide)] at h

theorem marksMade_popLine (t : State) : marksMade (popLine s) t = marksMade s t := by
  simp only [marksMade, entry_popLine]

theorem stats_restartSession (c : Stat) : ((restartSession (clearStats s)).stats)[statIx c] = 0 := by
  show (Vector.replicate 16 (0 : BitVec 64))[statIx c] = 0
  simp

/-- The marks that a RESTART makes, and what it leaves of the other regions. -/
theorem region_restart (s : State) (tag : BitVec 16) (e : RegionIx) : match (s.entry e).state with
    | .lagging => Marked s (restart (popLine s) tag) e .lagging fun k => HoldsIn s e k ∨ InProgress s e k
    | .mirrored => Marked s (restart (popLine s) tag) e .lagging fun k => HoldsIn s e k ∨ InProgress s e k
    | .refused => Marked s (restart (popLine s) tag) e .refused fun k => InProgress s e k
    | .draining => (restart (popLine s) tag).entry e = Entry.zero
    | .releasing => (restart (popLine s) tag).entry e =
        if isReleased { s with apply := (restart (popLine s) tag).apply } e then Entry.zero else s.entry e
    | .free | .accepting | .failed => (restart (popLine s) tag).entry e = s.entry e := by
  have same := entry_popLine s e
  have test (a : ApplyEngine) : isReleased { popLine s with apply := a } e = isReleased { s with apply := a } e :=
    isReleased_of_apply (w := { s with apply := a }) same.symm rfl
  have lags (lagging : (s.entry e).state = .lagging ∨ (s.entry e).state = .mirrored) :
      Marked s (restart (popLine s) tag) e .lagging fun k => HoldsIn s e k ∨ InProgress s e k := by
    have marked := marked_restart (tag := tag) (by decide) (marked_restartIdle (popLine s) (by rwa [same]))
    rw [HoldsIn_popLine, InProgress_popLine] at marked
    exact marked.of_popLine
  have still (unmarked : markable (s.entry e).state = false) (other : (s.entry e).state ≠ .releasing) :
      (restart (popLine s) tag).entry e = restartEntry (s.entry e) := by
    rw [← same]
    exact entry_restart_of_unmarked (by rwa [same]) (by rwa [same])
  cases state : (s.entry e).state with
  | lagging => exact lags (.inl state)
  | mirrored => exact lags (.inr state)
  | refused =>
    have marked := marked_restart (tag := tag) (by decide) (marked_restartIdle_of_refused (popLine s) (by rw [same, state]))
    rw [InProgress_popLine] at marked
    exact marked.of_popLine
  | draining =>
    refine (still (by rw [state]; rfl) (by rw [state]; decide)).trans ?_
    rw [restartEntry, state]
  | releasing =>
    refine (entry_restart_of_releasing (by rw [same, state])).trans ?_
    rw [test, same]
  | free | accepting | failed =>
    refine (still (by rw [state]; rfl) (by rw [state]; decide)).trans ?_
    rw [restartEntry, state]

/-- The hold on the head request: what stands for a region or the command queue ends, and APPLY_PENDING waits for the
issued entries. -/
theorem hold_restart (s : State) (tag : BitVec 16) :
    (s.mem.hold = .none ∨ s.mem.hold = .loading → (restart (popLine s) tag).mem.hold = s.mem.hold) ∧
    (s.mem.hold = .syncFull ∨ s.mem.hold = .blockRead ∨ s.mem.hold = .commandFull →
      (restart (popLine s) tag).mem.hold = .none) ∧
    (s.mem.hold = .applyPending →
      ((s.apply.queue.take s.mem.applyWait).getLast?.map ApplyEntry.issued = some true →
        (restart (popLine s) tag).mem.hold = .applyPending ∧ (restart (popLine s) tag).mem.applyWait =
          ((s.apply.queue.take s.mem.applyWait).filter fun en => en.issued).length) ∧
      ((s.apply.queue.take s.mem.applyWait).getLast?.map ApplyEntry.issued ≠ some true →
        (restart (popLine s) tag).mem.hold = .none)) := by
  have apply : (popLine s).apply = s.apply := (popLine_frame s).apply (by decide)
  rw [mem_restart]
  refine ⟨fun free => ?_, fun held => ?_, fun pending => ?_⟩
  · have mem := mem_popLine_of_other (s := s) (by obtain h | h := free <;> simp [h])
    rw [mem_restartTaken_of_free (by rwa [mem]), mem]
  · by_cases full : s.mem.hold = .commandFull
    · have none : (popLine s).mem.hold = .none := by rw [(holdEnds_popLine s).1 full]
      rw [mem_restartTaken_of_free (.inl none), none]
    · have mem := mem_popLine_of_other full
      refine hold_restartTaken_of_held ?_
      rw [mem]
      tauto
  · have mem := mem_popLine_of_other (s := s) (by simp [pending])
    have waits := hold_restartTaken_of_pending (s := popLine s) (tag := tag) (by rwa [mem])
    rwa [apply, mem] at waits

end

end Sys2Proof.Machine

namespace Sys2Proof.Proofs
open Sys2Proof.Machine

/-- Settles O49: each part is read from the step of the RESTART that sets it, and the later steps leave it. -/
theorem restartStartsAfresh : Obligations.RestartStartsAfresh := by
  unfold Obligations.RestartStartsAfresh
  intro l s h
  have popped := popLine_frame s
  have parts := restart_parts (popLine s) (lineTag l)
  have due := injectedOutstanding_popLine s
  have cmd := cmd_restart (s := popLine s) (tag := lineTag l)
  have apply := apply_restart (s := popLine s) (tag := lineTag l)
  have marks := marks_restart (s := popLine s) (tag := lineTag l)
  have told := eventsOf_restart (s := popLine s) (tag := lineTag l)
  have ev : (popLine s).ev = s.ev := popped.ev (by decide)
  have queue : (popLine s).cmd.queue = s.cmd.queue.tail := by rw [popLine_eq]
  obtain ⟨segment, turn, block, freed⟩ := resync_restartIdle (popLine s)
  obtain ⟨free, held, pending⟩ := hold_restart s (lineTag l)
  rw [popped.apply (by decide)] at apply
  rw [marksMade_popLine] at marks
  rw [due, eventsOf_popLine] at told
  rw [due] at cmd
  refine ⟨restart (popLine s) (lineTag l), exec_restart_of_takes h, ?_, ?_, ?_, ?_, ?_, ?_, ?_, ?_, ?_, ?_, fun e => ?_, ?_,
    fun e => ?_, ?_, ?_, ?_, ?_, region_restart s (lineTag l), ?_, free, held, pending, fun some => ?_, fun none => ?_,
    told.1, fun none room => told.2 none (ringRoom_popLine room), ?_, fun c other notLost => ?_, fun quiet => ?_, ?_⟩
  · rw [parts.session (by decide), session_restartIdle, popped.session (by decide)]
  · rw [parts.capture (by decide), capture_restartIdle]
  · rw [parts.tx (by decide), tx_restartIdle, popped.tx (by decide)]
  · rw [parts.rx (by decide), rx_restartIdle]
  · rw [parts.resync (by decide), segment]
  · rw [parts.resync (by decide), turn]
  · rw [parts.resync (by decide)]
    exact block
  · refine BuffersFreed.of_popLine ?_
    unfold BuffersFreed at freed ⊢
    rwa [parts.resync (by decide)]
  · rw [parts.fences (by decide)]
    rfl
  · rw [apply]
    exact keepIssued_uncut s.apply.queue
  · rw [apply]
    simp
  · rw [apply]
    rfl
  · rw [cmd]
    simp
  · rw [cmd]
  · by_cases none : injectedOutstanding s = 0
    · rw [ev_restart_of_done (due.trans none), emit_writeOutLines]
    · rw [ev_restart_of_open (by rwa [due])]
  · rw [cmd, queue]
  · rw [cmd]
  · have kept := (holdEnds_popLine s).holdOnly.trans (holdOnly_restartTaken (popLine s) (lineTag l))
    rwa [← mem_restart] at kept
  · rw [ev_restart_of_open (by rwa [due]), ev]
  · rw [ev_restart_of_done (due.trans none), emit_eq, emit_eq, ev, popped.params (by decide)]
  · rw [marks.1, stats_restartSession]
    exact BitVec.zero_add _
  · rw [marks.2 c other notLost, stats_restartSession]
  · exact lost_restart (quiet.imp (fun some => by rwa [due]) ringRoom_popLine)
  · exact (popped.mono rfl).then (restart_frame _ _) rfl

end Sys2Proof.Proofs
end

section
/-! PROOFS. Little-endian fields in a row, and the layout of an event entry (R160, R175, R177). -/

namespace Sys2Proof.Machine

/-! ## Fields in a row -/

section
variable {b : Byte} {bs : List Byte} {m v off n : Nat}

@[simp] theorem fieldAt_within (h : off + n ≤ m) : fieldAt (leBytes m v ++ bs) off n = v / 256 ^ off % 256 ^ n := by
  rw [fieldAt_append_left _ _ _ _ (by rwa [length_leBytes]), fieldAt_leBytes_within _ _ _ _ h]

@[simp] theorem fieldAt_behind (h : m ≤ off) : fieldAt (leBytes m v ++ bs) off n = fieldAt bs (off - m) n := by
  rw [fieldAt_append_right _ _ _ _ (by rwa [length_leBytes]), length_leBytes]

@[simp] theorem fieldAt_byte : fieldAt (b :: bs) 0 1 = b.toNat % 256 := by
  rw [fieldAt, List.drop_zero, List.take_succ_cons, List.take_zero, leNat, leNat, Nat.mod_eq_of_lt b.isLt]
  rfl

@[simp] theorem fieldAt_behind_byte (h : 1 ≤ off) : fieldAt (b :: bs) off n = fieldAt bs (off - 1) n := by
  obtain ⟨k, rfl⟩ := Nat.exists_eq_add_of_le' h
  rfl

end

/-! ## The head of an event entry -/

section
variable (it : EventItem)

theorem entryBytes_eq : entryBytes it = BitVec.ofNat 8 (if it.phase then 1 else 0) ::
    BitVec.ofNat 8 (eventKindCode it.event) :: (leBytes 2 (eventStatus it.event) ++ (leBytes 2 (eventSubject it.event) ++
      (leBytes 2 0 ++ (leBytes 4 it.stamp.toNat ++ (leBytes 4 0 ++ eventPayload it.event))))) := by
  simp only [entryBytes, List.append_assoc, List.cons_append, List.nil_append]

theorem length_eventPayload (ev : Event) : (eventPayload ev).length = 16 := by
  cases ev <;> simp [eventPayload]

theorem length_entryBytes : (entryBytes it).length = 32 := by
  simp [entryBytes_eq, length_eventPayload]

@[simp] theorem fieldAt_entryBytes_payload {off n : Nat} (h : 16 ≤ off) :
    fieldAt (entryBytes it) off n = fieldAt (eventPayload it.event) (off - 16) n := by
  obtain ⟨k, rfl⟩ := Nat.exists_eq_add_of_le' h
  rw [entryBytes_eq, fieldAt_behind_byte (by omega), fieldAt_behind_byte (by omega), fieldAt_behind (by omega),
    fieldAt_behind (by omega), fieldAt_behind (by omega), fieldAt_behind (by omega), fieldAt_behind (by omega)]
  congr 1

theorem fieldAt_entryBytes_head : fieldAt (entryBytes it) 0 1 = (if it.phase then 1 else 0) % 256 ^ 1 ∧
    fieldAt (entryBytes it) 1 1 = eventKindCode it.event % 256 ^ 1 ∧
    fieldAt (entryBytes it) 2 2 = eventStatus it.event % 256 ^ 2 ∧
    fieldAt (entryBytes it) 4 2 = eventSubject it.event % 256 ^ 2 ∧
    fieldAt (entryBytes it) 6 2 = 0 % 256 ^ 2 ∧ fieldAt (entryBytes it) 8 4 = it.stamp.toNat % 256 ^ 4 ∧
    fieldAt (entryBytes it) 12 4 = 0 % 256 ^ 4 := by
  rw [entryBytes_eq]
  simp

/-! ## The write of an event entry (R160) -/

theorem ofNat_shiftLeft (w a n : Nat) : BitVec.ofNat w a <<< n = BitVec.ofNat w (a * 2 ^ n) := by
  refine BitVec.eq_of_toNat_eq ?_
  rw [BitVec.toNat_shiftLeft, BitVec.toNat_ofNat, BitVec.toNat_ofNat, Nat.shiftLeft_eq, Nat.mod_mul_mod]

theorem entryWrite_eq : entryWrite it = .write (BitVec.ofNat 40 (it.slot.toNat / 64 * 64))
    (BitVec.ofNat 64 (0xFFFFFFFF * 2 ^ (it.slot.toNat % 64)))
    (BitVec.ofNat 512 (leNat (entryBytes it) * 2 ^ (8 * (it.slot.toNat % 64)))) := by
  rw [entryWrite, ofNat_shiftLeft, ofNat_shiftLeft]
  rfl

end

/-! ## The codes of an event (R175, R177) -/

/-- The values of a code, in the order of their numbers. -/
theorem results_resultCode (r : CmdResult) : [CmdResult.ok, .badCommand, .badArgument, .badEntry, .entryBusy, .overlap,
    .notConnected, .busy, .lost][resultCode r]? = some r := by cases r <;> rfl

theorem outcomes_fenceOutcomeCode (o : FenceOutcome) :
    [FenceOutcome.durable, .notDurable, .notTaken][fenceOutcomeCode o]? = some o := by cases o <;> rfl

theorem fenceCauses_fenceCauseCode (c : FenceCause) : [FenceCause.none, .listFull, .notUp, .regionLagging, .regionRefused,
    .resyncError, .resyncAbandoned, .sessionDown][fenceCauseCode c]? = some c := by cases c <;> rfl

theorem losses_lossCauseCode (c : LossCause) : [LossCause.carrier, .retryLimit, .protocol, .peerLeft, .peerRejoined,
    .disconnected][lossCauseCode c - 1]? = some c ∧ lossCauseCode c - 1 + 1 = lossCauseCode c := by
  cases c <;> exact ⟨rfl, rfl⟩

theorem causes_regionCauseCode (c : RegionCause) : [RegionCause.opened, .converged, .queueFull, .holdExpired, .writeError,
    .sessionDown, .rejected, .closed, .drained, .applyError, .released][regionCauseCode c - 1]? = some c ∧
      regionCauseCode c - 1 + 1 = regionCauseCode c := by cases c <;> exact ⟨rfl, rfl⟩

theorem roles_roleCode (r : Role) : [Role.free, .source, .target][roleCode r]? = some r := by cases r <;> rfl

theorem states_regionStateCode (s : RegionState) : [RegionState.free, .lagging, .mirrored, .refused, .draining, .accepting,
    .failed, .releasing][regionStateCode s]? = some s := by cases s <;> rfl

theorem kinds_recordKindCode (k : RecordKind) : [RecordKind.write, .block, .note][recordKindCode k - 1]? = some k ∧
    recordKindCode k - 1 + 1 = recordKindCode k := by cases k <;> exact ⟨rfl, rfl⟩

theorem refusalCauseCode_eq (c : RefusalCause) : refusalCauseCode c = if c = .sameUnit then 1 else 2 := by cases c <;> rfl

theorem regionByte_eq (r : Option RegionIx) : regionByte r = (r.map Fin.val).getD 0xFF := by cases r <;> rfl

theorem regionByte_lt (r : Option RegionIx) : regionByte r < 256 := by
  cases r with
  | none => decide
  | some e => exact e.isLt.trans (by decide)

theorem reason_shown_iff (r : BitVec 8) : (1 ≤ r.toNat ∧ r.toNat ≤ 3) ↔ r = 1 ∨ r = 2 ∨ r = 3 := by
  simp only [BitVec.toNat_eq]
  simp
  omega

end Sys2Proof.Machine
end

section
/-! PROOFS. The layout of the statistics block and of the SNAPSHOT (R167, R178). -/

namespace Sys2Proof.Machine

/-! ## Records of one length in a row -/

section
variable {α : Type} {f : α → List Byte} {w : Nat} (width : ∀ a, (f a).length = w)
include width

theorem length_flatMap_of_width (l : List α) : (l.flatMap f).length = w * l.length := by
  rw [List.length_flatMap]
  simp [width, Nat.mul_comm]

/-- A field of the `i`-th record. -/
theorem fieldAt_flatMap : ∀ (l : List α) (i : Nat) (h : i < l.length) (off n : Nat), off + n ≤ w →
    fieldAt (l.flatMap f) (w * i + off) n = fieldAt (f l[i]) off n
  | a :: l, 0, _, off, n, within => by
    rw [List.flatMap_cons, Nat.mul_zero, Nat.zero_add, fieldAt_append_left _ _ _ _ (by rwa [width])]
    rfl
  | a :: l, i + 1, h, off, n, within => by
    have rest := fieldAt_flatMap l i (Nat.lt_of_succ_lt_succ h) off n within
    rw [List.flatMap_cons, fieldAt_append_right _ _ _ _ (by rw [width, Nat.mul_succ]; omega), width, Nat.mul_succ,
      show w * i + w + off - w = w * i + off by omega, rest]
    rfl

end

/-! ## The statistics block (R167) -/

theorem length_statsBytes (s : State) : (statsBytes s).length = 128 := by
  rw [statsBytes, length_flatMap_of_width (w := 8) fun c => length_leBytes 8 _]
  simp

theorem fieldAt_statsBytes (s : State) (k : Fin 16) : fieldAt (statsBytes s) (8 * k.val) 8 = ((s.stats)[k]).toNat := by
  have field := fieldAt_flatMap (f := fun c : BitVec 64 => leBytes 8 c.toNat) (w := 8) (fun c => length_leBytes 8 _)
    s.stats.toList k.val (by simp) 0 8 (by decide)
  rw [Nat.add_zero] at field
  rw [statsBytes, field]
  exact fieldAt_leBytes_toNat 8 _ rfl

/-! ## Fields of given widths in a row -/

/-- The bytes of fields that follow one another, each given by its width and its value. -/
def fieldBytes : List (Nat × Nat) → List Byte
  | [] => []
  | f :: fs => leBytes f.1 f.2 ++ fieldBytes fs

theorem length_fieldBytes : ∀ fs : List (Nat × Nat), (fieldBytes fs).length = (fs.map Prod.fst).sum
  | [] => rfl
  | f :: fs => by rw [fieldBytes, List.length_append, length_leBytes, length_fieldBytes fs, List.map_cons, List.sum_cons]

/-- The `k`-th field stands behind the widths before it. -/
theorem fieldAt_fieldBytes {n v : Nat} : ∀ (fs : List (Nat × Nat)) (k : Nat), fs[k]? = some (n, v) →
    fieldAt (fieldBytes fs) ((fs.map Prod.fst).take k).sum n = v % 256 ^ n
  | f :: fs, 0, field => by
    obtain rfl := Option.some.inj field
    rw [fieldBytes, List.take_zero, List.sum_nil, fieldAt_within (by simp), Nat.pow_zero, Nat.div_one]
  | f :: fs, k + 1, field => by
    rw [fieldBytes, List.map_cons, List.take_succ_cons, List.sum_cons, fieldAt_behind (Nat.le_add_right ..),
      Nat.add_sub_cancel_left]
    exact fieldAt_fieldBytes fs k field

theorem leBytes_one (v : Nat) : leBytes 1 v = [BitVec.ofNat 8 v] := rfl

theorem leBytes_six_zero : leBytes 6 0 = leBytes 2 0 ++ (leBytes 2 0 ++ leBytes 2 0) := rfl

/-! ## The parts of a SNAPSHOT (R178) -/

section
variable (s : State)

/-- The fields of the session record. -/
def sessionFields : List (Nat × Nat) := [
    (1, sessionStateCode s.session.state),
    (1, bit s.session.enable 0 + bit s.session.carrier 1 + bit s.session.refusalReported 2 +
      bit s.session.answer.isSome 3 + bit s.session.pendingDisconnect.isSome 4 + bit s.ev.attn 6),
    (1, s.loader.prom.unitId.toNat), (1, s.session.peerUnit.toNat), (2, s.session.call.toNat),
    (2, s.session.lastEpoch.toNat), (2, s.session.epoch.toNat), (2, s.session.peerCall.toNat),
    (2, (s.session.answer.map fun a => a.epoch.toNat).getD 0), (2, (s.session.answer.map fun a => a.echo.toNat).getD 0),
    (2, (s.session.answer.map fun a => a.last.toNat).getD 0),
    (2, (s.session.pendingDisconnect.map BitVec.toNat).getD (absentField s 0)),
    (6, s.capture.counter.toNat), (6, s.capture.boundary.toNat), (1, s.capture.sync.length),
    (1, reservedIn s .sync + reservedIn s .async), (2, s.capture.async.length), (4, s.tx.next.toNat),
    (4, s.tx.highest.toNat), (2, s.tx.replay.length), (2, s.tx.control.length),
    (4, (s.tx.replay.head?.map fun r => r.seq.toNat).getD 0), (4, (s.tx.cursor.map BitVec.toNat).getD 0),
    (1, s.tx.timeouts), (1, bit s.rx.retrySent 0), (1, s.rx.deferred.getD 0), (1, s.rx.unacked),
    (4, s.rx.expected.toNat)]

/-- Their widths in bytes. -/
def sessionWidths : List Nat :=
  [1, 1, 1, 1, 2, 2, 2, 2, 2, 2, 2, 2, 6, 6, 1, 1, 2, 4, 4, 2, 2, 4, 4, 1, 1, 1, 1, 4]

theorem widths_sessionFields : (sessionFields s).map Prod.fst = sessionWidths := rfl

theorem sessionRecord_eq : sessionRecord s = fieldBytes (sessionFields s) := by
  unfold sessionRecord sessionFields
  dsimp only
  cases s.session.answer <;> cases s.session.pendingDisconnect <;>
    simp [fieldBytes, leBytes_one, leBytes_six_zero]

/-- The fields of the session extension. -/
def extensionFields : List (Nat × Nat) := [
    (4, s.rx.ackPoint.toNat), (1, buffersHeld s.resync), (1, regionByte (s.resync.segment.map Segment.region)),
    (2, (s.resync.segment.map Segment.index).getD (absentField s 1)),
    (4, (s.resync.segment.map Segment.nextBlock).getD (absentField s 2)), (1, blockStateCode s.resync.block),
    (1, bit ((s.resync.segment.map Segment.switch).getD false) 0), (1, s.fences.length), (1, 0),
    (2, (s.fences.head?.map fun f => f.tag.toNat).getD 0), (6, (s.fences.head?.map fun f => f.boundary.toNat).getD 0),
    (1, s.apply.queue.length), (1, issuedEntries s), (1, s.rx.carried), (1, holdReasonCode s.mem.hold),
    (4, (s.apply.queue.head?.map fun en => en.seq.toNat).getD 0), (1, s.mem.responses.length),
    (1, injectedOutstanding s), (1, s.cmd.queue.length),
    (1, (s.cmd.pendingClose.toList.filter Option.isSome).length), (1, 0), (1, log2Count s.ev.count), (2, 0),
    (2, s.ev.produce), (2, s.ev.release), (2, s.ev.write), (2, 0), (4, s.ev.lost.toNat), (4, s.ev.timeBase.toNat),
    (8, s.ev.ringBase.toNat)]

/-- Their widths in bytes. -/
def extensionWidths : List Nat :=
  [4, 1, 1, 2, 4, 1, 1, 1, 1, 2, 6, 1, 1, 1, 1, 4, 1, 1, 1, 1, 1, 1, 2, 2, 2, 2, 2, 4, 4, 8]

theorem widths_extensionFields : (extensionFields s).map Prod.fst = extensionWidths := rfl

theorem sessionExtension_eq : sessionExtension s = fieldBytes (extensionFields s) := by
  unfold sessionExtension extensionFields
  cases s.resync.segment <;> simp [fieldBytes]

/-- The fields of a region record, of an entry that is not FREE. -/
def usedFields (e : RegionIx) : List (Nat × Nat) := [
    (1, roleCode (roleOf (s.entry e).state)), (1, regionStateCode (s.entry e).state), (1, classCode (s.entry e).cls),
    (1, (s.entry e).sizeExp), (1, (s.entry e).peer.val), (1, bit ((s.cmd.pendingClose)[e]).isSome 0),
    (2, (((s.cmd.pendingClose)[e]).map BitVec.toNat).getD (absentField s (3 + e.val))), (8, (s.entry e).base.toNat),
    (2, (s.entry e).cursor), (2, (s.entry e).dirty.length), (2, ((s.apply.reports)[e]).unreported), (2, 0)]

/-- Their widths in bytes. -/
def usedWidths : List Nat := [1, 1, 1, 1, 1, 1, 2, 8, 2, 2, 2, 2]

theorem widths_usedFields (e : RegionIx) : (usedFields s e).map Prod.fst = usedWidths := rfl

theorem regionFields_of_used {e : RegionIx} (used : (s.entry e).state ≠ .free) :
    regionFields s e = fieldBytes (usedFields s e) := by
  unfold regionFields usedFields
  dsimp only
  rw [if_neg used]
  cases (s.cmd.pendingClose)[e] <;> simp [fieldBytes, leBytes_one]

theorem regionFields_of_free {e : RegionIx} (free : (s.entry e).state = .free) : regionFields s e = leBytes 24 0 :=
  if_pos free

theorem length_sessionRecord : (sessionRecord s).length = 64 := by
  rw [sessionRecord_eq, length_fieldBytes, widths_sessionFields]
  rfl

theorem length_sessionExtension : (sessionExtension s).length = 64 := by
  rw [sessionExtension_eq, length_fieldBytes, widths_extensionFields]
  rfl

theorem length_regionFields (e : RegionIx) : (regionFields s e).length = 24 := by
  by_cases free : (s.entry e).state = .free
  · rw [regionFields_of_free s free, length_leBytes]
  · rw [regionFields_of_used s free, length_fieldBytes, widths_usedFields]
    rfl

theorem length_regionRecord (e : RegionIx) : (regionRecord s (sessionExtension s) e).length = 32 := by
  rw [regionRecord, List.length_append, length_regionFields]
  split
  next low =>
    rw [List.length_take, List.length_drop, length_sessionExtension]
    omega
  next => rw [length_leBytes]

theorem length_snapshotBytes : (snapshotBytes s).length = 1088 := by
  rw [snapshotBytes, List.length_append, length_sessionRecord, length_flatMap_of_width (length_regionRecord s)]
  simp [entryList]

/-! ## The places of the parts -/

variable {s} {off n j : Nat}

theorem fieldAt_snapshot_session (h : off + n ≤ 64) : fieldAt (snapshotBytes s) off n = fieldAt (sessionRecord s) off n := by
  rw [snapshotBytes, fieldAt_append_left _ _ _ _ (by rwa [length_sessionRecord])]

theorem fieldAt_snapshot_record (e : RegionIx) (h : off + n ≤ 32) : fieldAt (snapshotBytes s) (64 + 32 * e.val + off) n =
    fieldAt (regionRecord s (sessionExtension s) e) off n := by
  rw [snapshotBytes, fieldAt_append_right _ _ _ _ (by rw [length_sessionRecord]; omega), length_sessionRecord,
    show 64 + 32 * e.val + off - 64 = 32 * e.val + off by omega,
    fieldAt_flatMap (length_regionRecord s) entryList e.val (by simp [entryList]) off n h]
  simp [entryList]

theorem fieldAt_snapshot_region (e : RegionIx) (h : off + n ≤ 24) :
    fieldAt (snapshotBytes s) (64 + 32 * e.val + off) n = fieldAt (regionFields s e) off n := by
  rw [fieldAt_snapshot_record e (by omega), regionRecord, fieldAt_append_left _ _ _ _ (by rwa [length_regionFields])]

theorem fieldAt_snapshot_high {e : RegionIx} (high : 8 ≤ e.val) :
    fieldAt (snapshotBytes s) (64 + 32 * e.val + 24) 8 = 0 := by
  rw [fieldAt_snapshot_record e (by decide), regionRecord, if_neg (Nat.not_lt.mpr high),
    fieldAt_append_right _ _ _ _ (by rw [length_regionFields]), length_regionFields]
  exact fieldAt_leBytes 8 0

theorem fieldAt_take_drop (bs : List Byte) (i w : Nat) (h : off + n ≤ w) :
    fieldAt ((bs.drop i).take w) off n = fieldAt bs (i + off) n := by
  rw [fieldAt, fieldAt, List.drop_take, List.take_take, List.drop_drop, Nat.min_eq_left (by omega)]

theorem fieldAt_snapshot_extension (low : j < 64) (h : j % 8 + n ≤ 8) :
    fieldAt (snapshotBytes s) (88 + 32 * (j / 8) + j % 8) n = fieldAt (sessionExtension s) j n := by
  have lt : j / 8 < 8 := by omega
  have record := fieldAt_snapshot_record (s := s) (off := 24 + j % 8) (n := n) ⟨j / 8, by omega⟩ (by omega)
  rw [show 88 + 32 * (j / 8) + j % 8 = 64 + 32 * (j / 8) + (24 + j % 8) by omega, record, regionRecord, if_pos lt,
    fieldAt_append_right _ _ _ _ (by rw [length_regionFields]; omega), length_regionFields, Nat.add_sub_cancel_left,
    fieldAt_take_drop _ _ _ h, Nat.div_add_mod]

end

end Sys2Proof.Machine
end

section
/-! PROOFS. The layouts of the events, the statistics block and the SNAPSHOT, field by field (R177, R178). -/

namespace Sys2Proof.Proofs
open Sys2Proof.Machine

/-- Settles O51: each record is a row of fields of given widths, and a field is read at the sum of the widths before it. -/
theorem eventAndSnapshotLayout : Obligations.EventAndSnapshotLayout := by
  refine ⟨fun it => ?_, fun s => ⟨length_statsBytes s, fieldAt_statsBytes s⟩, fun s => ?_⟩
  · intro b has head results outcomes fenceCauses losses causes roles states kinds
    obtain ⟨phase, kind, status, subject, spare, stamp, rest⟩ := fieldAt_entryBytes_head it
    have payload (off n v : Nat) (h : 16 ≤ off) : has off n v ↔ fieldAt (eventPayload it.event) (off - 16) n = v % 256 ^ n := by
      rw [← fieldAt_entryBytes_payload it h]
    refine ⟨length_entryBytes it, phase, spare, stamp, rest, entryWrite_eq it, ?_⟩
    obtain ⟨event, ph, st, slot, current⟩ := it
    cases event with
    | commandDone result tag code entry errors =>
      refine ⟨⟨resultCode result, results_resultCode result, kind, status, subject⟩, ?_⟩
      simp [payload, eventPayload, fieldAt_leBytes_within]
    | fenceDone outcome cause tag region boundary =>
      refine ⟨⟨fenceOutcomeCode outcome, fenceCauseCode cause, outcomes_fenceOutcomeCode outcome,
        fenceCauses_fenceCauseCode cause, kind, status, subject⟩, ?_⟩
      have byte : regionByte region / 256 = 0 := Nat.div_eq_of_lt (regionByte_lt region)
      simp [payload, eventPayload, fieldAt_leBytes_within, byte, ← regionByte_eq]
    | sessionUp epoch peerUnit peerCall ownCall =>
      refine ⟨⟨kind, status, subject⟩, ?_⟩
      simp [payload, eventPayload, fieldAt_leBytes_within]
    | sessionDown cause epoch sent accepted part =>
      obtain ⟨named, code⟩ := losses_lossCauseCode cause
      refine ⟨⟨lossCauseCode cause - 1, named, kind, code.symm ▸ status, subject⟩, ?_⟩
      simp [payload, eventPayload, fieldAt_leBytes_within]
    | joinRefused cause sender version =>
      refine ⟨⟨kind, refusalCauseCode_eq cause ▸ status, subject⟩, ?_⟩
      simp [payload, eventPayload, fieldAt_leBytes_within]
    | regionState cause entry role previous new =>
      obtain ⟨named, code⟩ := causes_regionCauseCode cause
      refine ⟨⟨regionCauseCode cause - 1, named, kind, code.symm ▸ status, subject⟩,
        ⟨roleCode role, roles_roleCode role, ?_⟩, ⟨regionStateCode previous, states_regionStateCode previous, ?_⟩,
        ⟨regionStateCode new, states_regionStateCode new, ?_⟩, ?_⟩ <;>
      simp [payload, eventPayload, fieldAt_leBytes_within]
    | noteReceived tag value =>
      refine ⟨⟨kind, status, subject⟩, ?_⟩
      simp [payload, eventPayload, fieldAt_leBytes_within]
    | recordRejected region seq cap recordKind peer reason =>
      obtain ⟨named, code⟩ := kinds_recordKindCode recordKind
      have shown : eventStatus (.recordRejected region seq cap recordKind peer reason) =
          if reason = 1 ∨ reason = 2 ∨ reason = 3 then reason.toNat else 0 := by
        simp only [eventStatus, reason_shown_iff]
      refine ⟨⟨kind, shown ▸ status, subject⟩, ?_, ⟨recordKindCode recordKind - 1, named, ?_⟩, ?_⟩
      · simp [payload, eventPayload]
      · rw [code]
        simp [payload, eventPayload]
      · simp [payload, eventPayload, fieldAt_leBytes_within]
    | applyError target seq recordKind addr =>
      obtain ⟨named, code⟩ := kinds_recordKindCode recordKind
      refine ⟨⟨kind, status, subject⟩, ?_, ⟨recordKindCode recordKind - 1, named, ?_⟩, ?_⟩
      · simp [payload, eventPayload]
      · rw [code]
        simp [payload, eventPayload]
      · simp [payload, eventPayload, fieldAt_leBytes_within]
    | resyncReadError region segment block line =>
      refine ⟨⟨kind, status, subject⟩, ?_⟩
      simp [payload, eventPayload, fieldAt_leBytes_within]
    | targetWriteRefused target addr unreported =>
      refine ⟨⟨kind, status, subject⟩, ?_⟩
      simp [payload, eventPayload, fieldAt_leBytes_within]
    | eventsLost count =>
      refine ⟨⟨kind, status, subject⟩, ?_⟩
      have small : count.toNat / 4294967296 = 0 := Nat.div_eq_of_lt count.isLt
      simp [payload, eventPayload, fieldAt_leBytes_within, small]
    | restarted tag =>
      refine ⟨⟨kind, status, subject⟩, ?_⟩
      simp [payload, eventPayload, fieldAt_leBytes_within]
    | ready unitId controlBase linkRate =>
      refine ⟨⟨kind, status, subject⟩, ?_⟩
      simp [payload, eventPayload, fieldAt_leBytes_within]
  · intro b has ext x flag
    have session (k : Nat) {off n v : Nat} (field : (sessionFields s)[k]? = some (n, v))
        (place : (sessionWidths.take k).sum = off := by decide) (low : off + n ≤ 64 := by decide) : has off n v :=
      (fieldAt_snapshot_session low).trans
        (sessionRecord_eq s ▸ place ▸ widths_sessionFields s ▸ fieldAt_fieldBytes _ k field)
    have extension (k : Nat) {j n v : Nat} (field : (extensionFields s)[k]? = some (n, v))
        (place : (extensionWidths.take k).sum = j := by decide) (low : j < 64 := by decide)
        (inside : j % 8 + n ≤ 8 := by decide) : ext j n v :=
      (fieldAt_snapshot_extension low inside).trans
        (sessionExtension_eq s ▸ place ▸ widths_extensionFields s ▸ fieldAt_fieldBytes _ k field)
    refine ⟨by decide, length_snapshotBytes s, ?_, ?_, fun e => ?_⟩
    · refine ⟨session 0 rfl, session 1 rfl, session 2 rfl, session 3 rfl, session 4 rfl, session 5 rfl, session 6 rfl,
      session 7 rfl, session 8 rfl, session 9 rfl, session 10 rfl, fun tag pending => session 11 ?_, session 12 rfl,
      session 13 rfl, session 14 rfl, session 15 rfl, session 16 rfl, session 17 rfl, session 18 rfl, session 19 rfl,
      session 20 rfl, session 21 rfl, session 22 rfl, session 23 rfl, session 24 rfl, session 25 rfl, session 26 rfl,
      session 27 rfl⟩
      rw [sessionFields, pending]
      rfl
    · have region : regionByte (s.resync.segment.map Segment.region) =
          (s.resync.segment.map fun sg => sg.region.val).getD 0xFF := by rw [regionByte_eq, Option.map_map]; rfl
      refine ⟨extension 0 rfl, extension 1 rfl, extension 2 ?_, fun sg segment => ⟨extension 3 ?_, extension 4 ?_,
        extension 6 ?_⟩, fun segment => extension 6 ?_, extension 5 rfl, extension 7 rfl, extension 8 rfl, extension 9
        rfl, extension 10 rfl, extension 11 rfl, extension 12 rfl, extension 13 rfl, extension 14 rfl, extension 15
        rfl, extension 16 rfl, extension 17 rfl, extension 18 rfl, extension 19 rfl, extension 20 rfl, extension 21
        rfl, extension 22 rfl, extension 23 rfl, extension 24 rfl, extension 25 rfl, extension 26 rfl, extension 27
        rfl, extension 28 rfl, extension 29 rfl⟩
      · rw [← region]
        rfl
      all_goals
        rw [extensionFields, segment]
        rfl
    · intro en field
      have fields {off n v : Nat} (h : fieldAt (regionFields s e) off n = v % 256 ^ n) (low : off + n ≤ 24 := by decide) :
          field off n v := (fieldAt_snapshot_region e low).trans h
      refine ⟨fun high => (fieldAt_snapshot_high high).trans rfl, fun free => fields ?_, fun used => ?_⟩
      · rw [regionFields_of_free s free]
        exact fieldAt_leBytes 24 0
      · have places (k : Nat) {off n v : Nat} (h : (usedFields s e)[k]? = some (n, v))
            (place : (usedWidths.take k).sum = off := by decide) (low : off + n ≤ 24 := by decide) : field off n v :=
          fields (regionFields_of_used s used ▸ place ▸ widths_usedFields s e ▸ fieldAt_fieldBytes _ k h) low
        refine ⟨places 0 rfl, places 1 rfl, places 2 rfl, places 3 rfl, places 4 rfl, places 5 rfl, fun tag pending =>
          places 6 ?_, places 7 rfl, places 8 rfl, places 9 rfl, places 10 rfl, places 11 rfl⟩
        rw [usedFields, pending]
        rfl

end Sys2Proof.Proofs
end
